-- ==== Sys2Proof/Word.lean ====
section
/-! DEFINITION. The word types of the part (R4, R6): 32-bit registers, bytes, 64-bit values, byte strings. -/

namespace Sys2Proof

/-- A register of either part (R6). -/
abbrev Word := BitVec 32
/-- One byte of a structure or of memory (R4). -/
abbrev Byte := BitVec 8
/-- A 64-bit value (DTC, VALUE, step index). -/
abbrev Word64 := BitVec 64
/-- A byte string, byte 0 first (R4). -/
abbrev Bytes := List (BitVec 8)

end Sys2Proof
end

