-- ==== Sys2Proof/Syntax.lean ====
section
/-! DEFINITION. The commands of the block: one constructor of `Instr` for each row of spec/opcode_table.json,
with the values that come from outside with it (a written word, a received message, a measured quantity). -/

namespace Sys2Proof

/-- The two parts (Cutorath at a glance): the Spindle block of a die and the Creel chip. -/
inductive Part where
  | spn | crl
deriving DecidableEq, Repr

/-- The two planes (R13). -/
inductive Plane where
  | a | b
deriving DecidableEq, Repr

/-- How a host command reached its owning core (R439, R440). -/
inductive Via where
  | ring (ch : Nat)
  | mbox (core : Nat)
deriving DecidableEq, Repr

/-- The command entry's bytes 2 to 15 (R442). -/
structure Req where
  via     : Via
  seq     : Nat
  key     : Nat
  fence   : Bool := false
  relaxed : Bool := false
  notify  : Bool := false
deriving DecidableEq, Repr

/-- An emergency condition of R459. -/
inductive EmergencyCause where
  | trip | temperature | undervoltage
deriving DecidableEq, Repr

/-- QWORD payload (R134). -/
structure Qword where
  root      : Nat
  rclass    : Nat
  unitState : Nat
  refId     : Nat
  iq        : Nat
  hoSec     : Nat
  utcOff    : Nat
  flags     : Nat
  cclass    : Nat
  ssm       : Nat
deriving DecidableEq, Repr

/-- TREQ or TRESP payload (R102). `t2`, `t3` are 0 in a TREQ; a stamp the port did not take is `none`. -/
structure TimeMsg where
  n         : Nat
  t2        : Option Nat
  t3        : Option Nat
  root      : Nat
  s         : Nat
  tq        : Nat
  lead      : Bool
  rootLost  : Bool
  stepNo    : Nat
  heartbeat : Nat
  asym      : Int
  secHi     : Nat
deriving DecidableEq, Repr

/-- IDENTIFY payload (R81). -/
structure Ident where
  hea    : Nat
  plane  : Nat
  tier   : Nat
  port   : Nat
  major  : Nat
  minor  : Nat
  feat   : Nat
  grants : List Nat
deriving DecidableEq, Repr

/-- LCB content (R53, R54 table). -/
structure LcbMsg where
  state    : Nat
  kpAck    : Bool
  degraded : Bool
  credits  : List Nat
  corr     : Nat
deriving DecidableEq, Repr

/-- READY payload (R187). `hea` is 0xFFFF_FFFF for none. -/
structure ReadyMsg where
  l       : Nat
  ready   : Bool
  reason  : Nat
  early   : Bool
  count   : Nat
  hea     : Nat
  e       : Nat
deriving DecidableEq, Repr

/-- COMMIT_VOTE payload (R521). -/
structure VoteMsg where
  l       : Nat
  ok      : Bool
  cause   : Nat
  noRetry : Bool
  count   : Nat
  hea     : Nat
deriving DecidableEq, Repr

/-- COMMIT payload (R522). -/
structure CommitMsg where
  l         : Nat
  committed : Bool
  cause     : Nat
  c         : Nat
  hea       : Nat
  rl        : Nat
  sigma     : Nat
  rc        : Nat
deriving DecidableEq, Repr

/-- SIGNAL cell (R256): header and payload fields the receiver uses. -/
structure SignalMsg where
  port    : Nat
  src     : Nat
  part    : Nat
  pepoch  : Nat
  vid     : Nat
  ctx     : Nat
  op      : Nat
  arg     : Nat
  operand : Word64
  core    : Nat
  sendDtc : Nat
  hops    : Nat
deriving DecidableEq, Repr

/-- BANK_WRITE cell (R187). -/
structure BankWriteMsg where
  part   : Nat
  pepoch : Nat
  tree   : Bool
  target : Nat
  tno    : Nat
  off    : Nat
  data   : Bytes
deriving DecidableEq, Repr

/-- BANK_END cell (R187). -/
structure BankEndMsg where
  part   : Nat
  pepoch : Nat
  tree   : Bool
  target : Nat
  tno    : Nat
  cells  : Nat
deriving DecidableEq, Repr

/-- A whole PLY_UP message (R307 to R310): header, key cell, partial lanes as raw bits. `gap` says that a CIDX was
missing, `ecc` that the combining buffer failed (R313); `rank` is the lowest logical rank the report carries (R325). -/
structure PlyUp where
  part    : Nat
  pepoch  : Nat
  tree    : Nat
  c       : Nat
  n       : Nat
  op      : Nat
  fmt     : Nat
  outFmt  : Nat
  length  : Nat
  rmode   : Nat
  scaled  : Bool
  empty   : Bool
  failed  : Bool
  counted : Nat
  tLast   : Nat
  cause   : Nat
  ndtie   : Nat
  seed    : Nat
  idx     : Nat
  lanes   : List Nat
  rank    : Nat
  gap     : Bool
  ecc     : Bool
deriving DecidableEq, Repr

/-- A whole PLY_DOWN message (R311): header and the OUT bytes from 0x020 onward, and its cells' HOPS (R66). -/
structure PlyDown where
  part    : Nat
  pepoch  : Nat
  tree    : Nat
  c       : Nat
  n       : Nat
  flags   : Nat
  counted : Nat
  tLast   : Nat
  ndtie   : Nat
  nanMask : Nat
  ovfMask : Nat
  data    : Bytes
  hops    : Nat := 7
deriving DecidableEq, Repr

/-- WHORL_SET payload (R415). -/
structure WhorlSet where
  k       : Nat
  ballast : Nat
  fceil   : Nat
  stagger : Nat
  held    : Bool
  windUp  : Bool
  windDown : Bool
  coastOk : Bool
  coast   : Nat
  seq     : Nat
deriving DecidableEq, Repr

/-- A complete BULK_WRITE message (R453). `ok` is false when a cell of it was lost. -/
structure BulkMsg where
  src   : Nat
  addr  : Nat
  data  : Bytes
  chan  : Nat
  msgNo : Nat
  ok    : Bool
deriving DecidableEq, Repr

/-- A PTP Announce as a port receives it: whether it came in the secure channel, its domain, the sending port, what the alternate BMCA
compares, and the UTC offset with its flags (R128, R130). -/
structure AnnounceMsg where
  secured    : Bool := true
  domain     : Nat := 24
  sender     : Nat := 0
  clockClass : Nat
  accuracy   : Nat := 0
  variance   : Nat := 0
  prio2      : Nat := 128
  gm         : Nat := 0
  steps      : Nat := 0
  utcOff     : Nat
  utcValid   : Bool
  leapPlus   : Bool
  leapMinus  : Bool
deriving DecidableEq, Repr

/-- An ESMC PDU as a port receives it: whether it came in the secure channel, its SSM code, and the code of its extended QL TLV, if it has
one (R128, R131). -/
structure EsmcMsg where
  secured : Bool := true
  ssm     : Nat
  ext     : Option Nat := none
deriving DecidableEq, Repr

/-- What the die presents at D: the telemetry of the step just ended, the highest temperature in 0.01 K and the lowest supply in mV (R395, R541). -/
structure DoffIn where
  temp    : Nat := 0
  vmin    : Nat := 0
deriving DecidableEq, Repr

/-- A word of a die-scope writer: the host's register port, or a firmware core's own staging (R192). -/
structure BankPort where
  core : Option Nat := none
  word : Word
deriving DecidableEq, Repr

/-- An Ethernet port that lost its secure channel, and whether its signal went too (R135). -/
structure EthLoss where
  port : Nat
  los  : Bool
deriving DecidableEq, Repr

/-- A cycle of a region, counted since its launch: its least slack in taps, the regions it pushes an entry to and those it pops one from
(R218, R221). -/
structure RegionCycle where
  cyc    : Nat
  slack  : Nat
  pushes : List Nat := []
  pops   : List Nat := []
deriving DecidableEq, Repr

/-- A stall of a crossing queue: on a full queue or on an empty one, the stalled region's cycle, and the eighths of a period until the entry
is usable or one frees (R221). -/
structure QueueStall where
  full    : Bool
  cyc     : Nat
  eighths : Nat
deriving DecidableEq, Repr

/-- The numbers of a WHORL_TRIP or its release: the trip's, and the hops left (R66, R321). -/
structure TripNo where
  num  : Nat
  hops : Nat := 7
deriving DecidableEq, Repr

/-- One constructor for each row of the table, in the table's order. A written word `v` is the whole 32-bit word of
the access; the row's own bit counts as written whatever `v` holds there. -/
inductive Instr where
  -- register port
  | registerWrite (p : Part) (off : Nat) (be : BitVec 4) (v : Word)
  | rcRegisterRead (p : Part) (off : Nat) (ev : Nat)
  | tcapTrigWrite (p : Part) (v : Word)
  | portEnable (p : Part) (port : Nat) (v : Word)
  | portDisable (p : Part) (port : Nat) (v : Word)
  | portRetrainBit (p : Part) (port : Nat) (v : Word)
  | portClrQuar (p : Part) (port : Nat) (v : Word)
  | bankBegin (x : BankPort)
  | bankEnd (x : BankPort)
  | bankAbort (x : BankPort)
  | bankWindowWrite (off : Nat) (x : BankPort)
  | ndSnap (v : Word)
  | ndClr (v : Word)
  | outputOffsetHiWrite (m : Nat) (v : Word)
  | refAgeingWrite (v : Word)
  | traceBaseWrite (off : Nat) (v : Word)
  | tiInputConfigWrite (n : Nat) (v : Word)
  | mbDoorbell (p : Part) (core : Nat) (v : Word)
  | ringDoorbell (p : Part) (ch : Nat) (v : Word)
  | ch0Open (p : Part) (v : Word)
  | ch0Close (p : Part) (v : Word)
  | intEoi (v : Word)
  | dmaStart (p : Part) (c : Nat) (v : Word)
  | dmaAbort (p : Part) (c : Nat) (v : Word)
  -- ring engine and class B work
  | ringEntryDispatch (p : Part) (ch : Nat)
  | classBSlice (p : Part) (ch : Nat) (seq : Nat) (items : Nat)
  | completionRoomReturn (p : Part) (ch : Nat)
  -- host commands, payload bytes as R462 numbers them
  | mgmtHello (p : Part) (q : Req) (pl : Bytes)
  | chanOpen (p : Part) (q : Req) (pl : Bytes)
  | chanClose (p : Part) (q : Req) (pl : Bytes)
  | fence (p : Part) (q : Req) (pl : Bytes)
  | cmdAbort (p : Part) (q : Req) (pl : Bytes)
  | coreRestart (p : Part) (q : Req) (pl : Bytes)
  | fwStage (p : Part) (q : Req) (pl : Bytes)
  | fwActivate (p : Part) (q : Req) (pl : Bytes)
  | fwWithdraw (p : Part) (q : Req) (pl : Bytes)
  | selfTest (p : Part) (q : Req) (pl : Bytes)
  | zeroize (p : Part) (q : Req) (pl : Bytes)
  | debugUnlock (p : Part) (q : Req) (pl : Bytes)
  | timeSet (p : Part) (q : Req) (pl : Bytes)
  | timePhaseStep (p : Part) (q : Req) (pl : Bytes)
  | timeLeadSet (p : Part) (q : Req) (pl : Bytes)
  | portRetrain (p : Part) (q : Req) (pl : Bytes)
  | tiArm (p : Part) (q : Req) (pl : Bytes)
  | tiCancel (p : Part) (q : Req) (pl : Bytes)
  | tiCal (p : Part) (q : Req) (pl : Bytes)
  | partitionCreate (p : Part) (q : Req) (pl : Bytes)
  | partitionTeardown (p : Part) (q : Req) (pl : Bytes)
  | memberJoin (p : Part) (q : Req) (pl : Bytes)
  | memberLeave (p : Part) (q : Req) (pl : Bytes)
  | launchCommit (p : Part) (q : Req) (pl : Bytes)
  | launchWithdraw (p : Part) (q : Req) (pl : Bytes)
  | freqRequest (p : Part) (q : Req) (pl : Bytes)
  | ledgerRead (p : Part) (q : Req) (pl : Bytes)
  | launchTableLoad (p : Part) (q : Req) (pl : Bytes)
  | descWrite (p : Part) (q : Req) (pl : Bytes)
  | soMap (p : Part) (q : Req) (pl : Bytes)
  | soMapBulk (p : Part) (q : Req) (pl : Bytes)
  | soUnmap (p : Part) (q : Req) (pl : Bytes)
  | soSignal (p : Part) (q : Req) (pl : Bytes)
  | ctxSwitch (p : Part) (q : Req) (pl : Bytes)
  | ctxReset (p : Part) (q : Req) (pl : Bytes)
  | skeinDump (p : Part) (q : Req) (pl : Bytes)
  | plyArm (p : Part) (q : Req) (pl : Bytes)
  | plyDisarm (p : Part) (q : Req) (pl : Bytes)
  | samplerBind (p : Part) (q : Req) (pl : Bytes)
  | outputCfg (p : Part) (q : Req) (pl : Bytes)
  | bobbinTest (p : Part) (q : Req) (pl : Bytes)
  | planCfg (p : Part) (q : Req) (pl : Bytes)
  | reqSubmit (p : Part) (q : Req) (pl : Bytes)
  | reqCancel (p : Part) (q : Req) (pl : Bytes)
  | reqResume (p : Part) (q : Req) (pl : Bytes)
  | reqQuery (p : Part) (q : Req) (pl : Bytes)
  | prefixInsert (p : Part) (q : Req) (pl : Bytes)
  | prefixInsertBulk (p : Part) (q : Req) (pl : Bytes)
  | prefixRemove (p : Part) (q : Req) (pl : Bytes)
  | adapterPublish (p : Part) (q : Req) (pl : Bytes)
  | adapterRebind (p : Part) (q : Req) (pl : Bytes)
  | seedSet (p : Part) (q : Req) (pl : Bytes)
  | digestExpect (p : Part) (q : Req) (pl : Bytes)
  | whorlResume (p : Part) (q : Req) (pl : Bytes)
  -- firmware cores, reset and module events
  | coreWatchdogExpiry (p : Part) (core : Nat)
  | coreException (p : Part) (core : Nat)
  | coreRestartDone (p : Part) (core : Nat)
  | fwActivationNextCore (p : Part)
  | emergencyBegin (p : Part) (cause : EmergencyCause)
  | emergencyClearTimer (p : Part)
  | coldResetRelease (p : Part)
  | coldResetAssert
  | moduleInputLoss
  | perstAssert
  -- DMA and BULK
  | dmaUnitCopy (p : Part) (c : Nat) (ok : Bool)
  | dmaAccessRetry (p : Part) (c : Nat) (ok : Bool)
  | bulkWriteReceived (p : Part) (port : Nat) (m : BulkMsg)
  | bulkAckReceived (p : Part) (c : Nat) (msgNo : Nat) (status : Nat)
  | bulkAckTimeout (p : Part) (c : Nat)
  -- thread link
  | blockSlotSend (p : Part) (port : Nat)
  | blockReceived (p : Part) (port : Nat) (blk : BitVec 640)
  | lcbReceived (p : Part) (port : Nat) (m : LcbMsg)
  | idleReceived (p : Part) (port : Nat) (credits : List Nat)
  | cellSwitch (port : Nat)
  | linkBackoffExpiry (p : Part) (port : Nat)
  | trainMarkersLocked (p : Part) (port : Nat)
  | fecLockAchieved (p : Part) (port : Nat)
  | identifyReceived (p : Part) (port : Nat) (m : Ident)
  | linkStateTimeout (p : Part) (port : Nat)
  | calibrateComplete (p : Part) (port : Nat)
  | linkLockLost (p : Part) (port : Nat)
  | linkAuthBurst (p : Part) (port : Nat)
  | linkDegradedWindow (p : Part) (port : Nat) (symbols : Nat) (corrected : Nat)
  | creditStall (p : Part) (port : Nat) (cls : Nat)
  | bulkSatWindowEnd (p : Part) (port : Nat)
  | portSatReceived (hea : Nat) (part : Nat) (port : Nat) (sat : Bool) (ratio : Nat)
  | rekeyDue (p : Part) (port : Nat)
  | rkInitReceived (p : Part) (port : Nat) (content : Bytes)
  | rkRespReceived (p : Part) (port : Nat) (content : Bytes)
  | oldKeyDiscard (p : Part) (port : Nat)
  | kxInitReceived (p : Part) (port : Nat) (content : Bytes)
  | kxRespReceived (p : Part) (port : Nat) (content : Bytes)
  | kxAuthReceived (p : Part) (port : Nat) (content : Bytes)
  | kxFailReceived (p : Part) (port : Nat) (reason : Nat)
  -- time transfer
  | treqSend (p : Part) (port : Nat)
  | treqReceived (p : Part) (port : Nat) (m : TimeMsg) (stamp : Nat)
  | trespReceived (p : Part) (port : Nat) (m : TimeMsg) (stamp : Option Nat)
  | servoWindowEnd (p : Part) (port : Nat) (u : Unit)
  | leadLostSend
  | leadLostReceived (src : Nat) (lostRoot : Nat) (lostPlane : Nat)
  | leadChangeReceived (p : Part) (port : Nat) (sec : Nat) (plane : Plane)
  | leadChangeBoundary (p : Part)
  | phaseStepReceived (p : Part) (port : Nat) (sec : Nat) (amt : Int) (num : Nat)
  | phaseStepBoundary (p : Part)
  | phaseStepPxReturn (num : Nat)
  | phaseStepAbandon (num : Nat)
  | qwordOriginate
  | qwordReceived (p : Part) (port : Nat) (m : Qword)
  -- time-interval unit and in-band calibration
  | tiInputEdge (src : Nat) (port : Nat) (fine : Nat)
  | tiJobTimeout (tag : Nat)
  | tiArmTimeout (tag : Nat)
  | tiTempCalTrigger (temp : Nat)
  | tiInbandCalCycle (ch : Nat) (hits : List Nat) (delay : Int)
  | tiDelayInjection (n : Nat)
  | inbandPortVisit (port : Nat) (txs : List Int) (rxs : List Int)
  | asymUpdate (p : Part) (port : Nat)
  -- reference unit
  | pfPulseTimeout (n : Nat)
  | freqMeasureWindow (ref : Nat) (ppb : Int) (short : Bool)
  | todMessageReceived (msg : Bytes)
  | ptpAnnounceReceived (eth : Nat) (m : AnnounceMsg)
  | ptpSyncReceived (eth : Nat) (seq : Nat) (origin : Option Int) (stamp : Int)
  | ptpDelayRespReceived (eth : Nat) (seq : Nat) (t4 : Int)
  | ptpMasterSend (eth : Nat)
  | announceReceiptTimeout (eth : Nat)
  | esmcReceived (eth : Nat) (m : EsmcMsg)
  | esmcTimeout (eth : Nat)
  | ethLos (e : EthLoss)
  | refWtrExpiry (ref : Nat)
  | acquireLockTimer
  | holdoverClassTimer (temp : Int)
  | hoLearnedTimer
  | ageingLearnUpdate (v : Word)
  | pulseOutputEdge (m : Nat)
  -- steps, launches and the doff
  | launchSetReceived (l : Nat) (idx : Nat) (c : Nat)
  | withdrawReceived (l : Nat)
  | readinessEvaluation (l : Nat)
  | readyCombine (part : Nat) (port : Nat) (m : ReadyMsg)
  | readyAtRoot (part : Nat) (port : Nat) (m : ReadyMsg)
  | launchDecisionDeadline (part : Nat) (l : Nat)
  | goReceived (l : Nat) (at_ : Nat) (idx : Nat)
  | slipReceived (l : Nat) (l' : Nat) (n : Nat) (hea : Nat) (reason : Nat)
  | doff (m : DoffIn)
  | launch
  | shadowRefill
  | bankWriteReceived (m : BankWriteMsg)
  | bankEndReceived (m : BankEndMsg)
  | launchFaultReceived (part : Nat) (hea : Nat) (l : Nat) (kind : Nat)
  | rootDoff (part : Nat)
  | membershipConfirmReceived (part : Nat) (hea : Nat) (plane : Plane) (mceil : Nat)
  -- clocks and regions
  | regionStretch (c : Nat) (r : RegionCycle)
  | crossingQueueStall (writer : Nat) (reader : Nat) (q : QueueStall)
  | freqSettleConfirm (c : Nat)
  | clockSettleTimeout (c : Nat)
  | policySet (part : Nat) (v : Nat)
  -- synchronisation objects
  | soOpSignal (core : Nat) (op0 op1 : Word64)
  | soOpSignalTo (core : Nat) (op0 op1 : Word64)
  | soOpBroadcast (core : Nat) (op0 op1 : Word64)
  | soOpWaitTake (core : Nat) (op0 op1 : Word64)
  | soOpWait (core : Nat) (op0 op1 : Word64)
  | soOpArriveWait (core : Nat) (op0 op1 : Word64)
  | soOpClear (core : Nat) (op0 op1 : Word64)
  | soOpRead (core : Nat) (op0 op1 : Word64)
  | soOpInit (core : Nat) (op0 op1 : Word64)
  | soOpSeqSet (core : Nat) (op0 op1 : Word64)
  | soOpRemote (core : Nat) (op0 op2 op1 : Word64)
  | soBankApply (bank : Nat)
  | soWaitExpiry (core : Nat)
  | signalCellReceived (m : SignalMsg)
  | fabricSignalWord (w : BitVec 256)
  | fabricTapWord (w : BitVec 256)
  | coreResetInput (core : Nat)
  | countRealignCheck
  -- barriers
  | barArrive (core : Nat) (w : Word)
  | barArriveWait (core : Nat) (w : Word)
  | barWait (core : Nat) (w : Word)
  | barrierWaitExpiry (core : Nat)
  -- ply
  | plyUpReceived (port : Nat) (m : PlyUp)
  | plyCellGapTimeout (part : Nat) (tree : Nat) (port : Nat)
  | plyDownForward (m : PlyDown)
  | plyRelease (m : PlyDown)
  -- output and planner
  | heldOutputWrite (part : Nat)
  | planningPass (part : Nat)
  | stragglerReceived (part : Nat) (hea : Nat) (l : Nat) (reason : Nat) (unit : Nat)
  | moveTimeoutExpiry (idx : Nat)
  | mirrorAckReceived (part : Nat) (c : Nat) (n : Nat)
  | mirrorSilenceTimeout
  | mirrorRebuildStart
  -- Whorl
  | whorlPeriodSpindle
  | rackPeriodResend (port : Nat)
  | hallPowerResult (k : Nat) (u : Unit)
  | whorlRoundMissed (k : Nat)
  | whorlSetReceived (part : Nat) (m : WhorlSet)
  | plantInputChange (n : Nat) (level : Bool)
  | whorlInputReceived (levels : BitVec 8) (k : Nat)
  | plantTripDebounced
  | whorlTripReceived (p : Part) (port : Nat) (trip : Bool) (n : TripNo)
  | tripEnd
  | plantHeartbeatStale
  | coastLaunchCommit (part : Nat)
  | modbusConnect (ip : Word)
  | modbusReadHolding (conn : Nat) (addr : Nat) (n : Nat)
  | modbusReadInput (conn : Nat) (addr : Nat) (n : Nat)
  | modbusWriteSingle (conn : Nat) (addr : Nat) (v : Nat)
  | modbusWriteMultiple (conn : Nat) (addr : Nat) (vs : List Nat)
  | modbusOtherFunction (conn : Nat) (fn : Nat)
  | powerSampleValid (w : Word)
  | stepfailInput
  -- commit votes and recovery
  | commitVoteSend
  | commitVoteCombine (part : Nat) (port : Nat) (m : VoteMsg)
  | commitVoteAtRoot (part : Nat) (port : Nat) (m : VoteMsg)
  | commitDecisionDeadline (part : Nat) (l : Nat)
  | commitReceived (m : CommitMsg)
  | treeBreakReceived (part : Nat) (hea : Nat) (port : Nat)
  | treeRepairDone (part : Nat)
  | rootLostReportReceived (part : Nat) (hea : Nat) (c : Nat)
  | takeoverReceived (plane : Plane) (c : Nat)
  -- power and debug port
  | napEntry (p : Part)
  | creelHoldEntry
  | tapXactRead (p : Part) (space : Nat) (addr : Nat)
  | tapXactWrite (p : Part) (space : Nat) (addr : Nat) (data : Word64)
  | tapXactStatus (p : Part)
  -- rows added at the table's end
  | whorlPeriodStart
  | qwordTimeout
  | todMessageTimeout
  | pf10mNoEdge (n : Nat)
  | slewEnd
  | tiInputSettled (n : Nat)
  | clusterStepEnd (c : Nat)
  | emergencyCleared (p : Part)
  | dmaPaceResume (p : Part) (c : Nat)
  | moduleColdReset
  | perstRelease
  | bar2Write (addr : Nat) (data : Bytes)
  | ptpDelayReqSend (eth : Nat)
  | ptpDelayReqReceived (eth : Nat) (seq : Nat) (stamp : Int)
  | ptpFollowUpReceived (eth : Nat) (seq : Nat) (origin : Int)
  | esmcSend (eth : Nat)
deriving DecidableEq, Repr

end Sys2Proof
end

