-- ==== Sys2Proof/Decode.lean ====
section
/-! DEFINITION. Commands of the block have no words: spec/opcode_table.json gives no row a pattern of bits, so no word
spells a command (log entry 1). Payload bytes of host commands are read by their meanings. -/

namespace Sys2Proof

/-- The command that a word spells by the table's bits: none, for no row gives bits. -/
def decodeTableWord (_nbits _w : Nat) : Option Instr := none

end Sys2Proof
end

