-- ==== Sys2Proof/Config.lean ====
section
/-! DEFINITION. What an implementation fixes and the values the manual leaves free: constants with no body, so that no
proof can rest on a particular value (log entries 5 to 7). -/

namespace Sys2Proof

/-- A free value: what the n-th drawn unspecified value is (log entry 5). -/
opaque Config.freeValue : Nat → BitVec 64
/-- Bytes of the n-th draw of a part's random generator: nonces, challenge numbers and ephemeral secrets (R505, R513). -/
opaque Config.randomByte : (part draw : Nat) → (i : Nat) → BitVec 8
/-- ECDSA P-384 verification of a 48-byte digest (R434, R505): key, digest, signature. -/
opaque Config.ecdsaVerify : (key digest sig : Bytes) → Bool
/-- ML-DSA-87 verification of a 48-byte digest (R434): key, digest, signature. -/
opaque Config.mldsaVerify : (key digest sig : Bytes) → Bool
/-- ECDSA P-384 signature by a part's device identity key (R501): part secret, message. -/
opaque Config.ecdsaSign : (secret msg : Bytes) → Bytes
/-- ML-DSA-87 signature by a part's device identity key (R501). -/
opaque Config.mldsaSign : (secret msg : Bytes) → Bytes
/-- The device identity public keys that a PUF seed gives (R501). -/
opaque Config.identityPublic : (seed : Bytes) → Bytes
/-- The PUF seed of a part (R501). -/
opaque Config.pufSeed : (part : Nat) → Bytes
/-- ECDH P-384 public share of a secret (R505). -/
opaque Config.ecdhPublic : (secret : Bytes) → Bytes
/-- ECDH P-384 shared secret of a secret and the peer's share (R505). -/
opaque Config.ecdhShared : (secret peer : Bytes) → Bytes
/-- ML-KEM-1024 encapsulation key of a secret (R505). -/
opaque Config.kemPublic : (secret : Bytes) → Bytes
/-- ML-KEM-1024 ciphertext and shared secret, from an encapsulation key and randomness (R505). -/
opaque Config.kemEncaps : (pub rnd : Bytes) → Bytes × Bytes
/-- ML-KEM-1024 shared secret, from a secret and a ciphertext (R505). -/
opaque Config.kemDecaps : (secret ct : Bytes) → Bytes
/-- The vendor keys whose digests ROM holds (R435), each an ECDSA key and an ML-DSA key. -/
opaque Config.vendorKeys : List (Bytes × Bytes)
/-- E of an LSE result lane that is NaN, which the manual does not state (R319; log entry 35). -/
opaque Config.lseNanExponent : Nat

/-- The inbound quality of a pulse reference whose DECL_IQ is 5, 6 or 7, which the manual does not state (R132; log entry 20). -/
opaque Config.declIqOther : Nat → BitVec 4
/-- The training pattern of a TRAIN block: its content bytes 1 to 71, which the manual does not state (R51; log entry 123). -/
opaque Config.trainPattern : (i : Nat) → BitVec 8
/-- TYPE and content of the cell with which a member confirms its membership, which the manual does not state (R29; log entry 41). -/
opaque Config.confirmType : Nat
opaque Config.confirmBody : (mceil : Nat) → Bytes
/-- By how much the count that a core reads is late, modulo its range, which the manual bounds only (R45, R46; log entry 139). -/
opaque Config.timeLag : (core : Nat) → Nat
/-- Whether an Ethernet timing port has the master role, which no register of the manual sets (R128; log entry 149). -/
opaque Config.ptpMaster : (eth : Nat) → Bool
/-- What a TRESP carries in place of a stamp that was not taken (R102; log entry 21). -/
opaque Config.noStamp : (n : Nat) → BitVec 64

/-- What an address of the debug port's service space holds (R511, R556): identification, a word of the held challenge, the request for
one, a place in the token, the presentation of the token, the enrolment service of a BLANK part. -/
inductive ServiceItem where
  | ident | devId | states
  | request | challenge (i : Nat) | token (o : Nat) | present
  | enrol
deriving DecidableEq, Repr, Inhabited

/-- The layout of the service space, which the manual does not give (R556; log entry 58). -/
opaque Config.serviceItem : (part addr : Nat) → ServiceItem
/-- The core that an address of the core debug space reaches, which the manual does not give (R556; log entry 58). -/
opaque Config.debugCore : (part addr : Nat) → Nat
/-- What a write there does to its core: 0 halts it, 1 lets it run, 2 writes its DTCSEL, anything else steps it or writes it elsewhere (R45, R511;
log entry 58). -/
opaque Config.debugOp : (part addr data : Nat) → Nat

end Sys2Proof
end

