-- ==== Sys2Proof/Machine/State.lean ====
section
/-! DEFINITION. The state of the two parts as plain data, and the machine right after cold reset. Every field's
default is its value at reset: the spec's where it gives one, else the value a log entry names. -/

namespace Sys2Proof.Machine

/-- A table by number: strictly rising keys, no entry equal to what an unlisted key reads as (Machine/Sparse.lean). -/
abbrev Tbl (α : Type) := List (Nat × α)
/-- Byte memory in the same canonical form; an unlisted byte reads 0 (log entry 2). -/
abbrev Mem := List Host.Cell

/-! ## Thread links and time -/

/-- Port states of R79. -/
inductive LinkState where
  | disabled | down | trainPhy | fecLock | identify | keyExchange | calibrate | up | quarantine
deriving DecidableEq, Repr

/-- A thread-link cell: header fields of R54 the sender fixes and body fields of R55. LSEQ, credit report, CRC and tag
are put on by the port when it sends (R59 to R61, R72). `body` is the payload from body byte 16. -/
structure Cell where
  cls    : Nat
  typ    : Nat
  ts     : Bool := false
  last   : Bool := true
  tree   : Bool := false
  up     : Bool := false
  local_ : Bool := false
  hops   : Nat := 7
  dst    : Nat := 0
  src    : Nat := 0
  part   : Nat := 0xFFFF
  cidx   : Nat := 0
  pepoch : Nat := 0
  body   : Bytes := []
deriving DecidableEq, Repr

/-- A direction's session key and salt (R507). -/
structure LinkKey where
  key  : Bytes
  salt : Bytes
deriving DecidableEq, Repr

/-- Credits of a port (R71, R72), five classes: what the peer granted, cells sent since IDENTIFY, the copy of the peer's
freed counts, and the buffers this end has freed. -/
structure Credits where
  grant : List Nat := [0, 0, 0, 0, 0]
  sent  : List Nat := [0, 0, 0, 0, 0]
  peer  : List Nat := [0, 0, 0, 0, 0]
  freed : List Nat := [0, 0, 0, 0, 0]
deriving DecidableEq, Repr

/-- Keys and key exchange of a port (R60 to R62, R503 to R509). `txNext` is the key that the port sends under from its next cell on,
`txTagged` the tagged cells sent under the present one, which it has had since TICK `keyAt`; `failing` says that the port has rejected
its peer and its KX_FAIL has not left. -/
structure PortKeys where
  tx       : Option LinkKey := none
  txNext   : Option LinkKey := none
  txTagged : Nat := 0
  rx       : Option LinkKey := none
  rxNew    : Option LinkKey := none
  prk      : Bytes := []
  rolls    : Nat := 0
  kpTx     : Bool := false
  kpRx     : Bool := false
  newSeen  : Option Nat := none
  rolling  : Bool := false
  priv     : Bytes := []
  init     : Bytes := []
  resp     : Bytes := []
  sentAuth : Bool := false
  failing  : Bool := false
  keyAt    : Nat := 0
  peerOk   : Bool := false
  peerUntrusted : Bool := false
  peerDev  : Bytes := []
deriving DecidableEq, Repr

/-- What a port has heard of its peer's time (R98, R102, R103). `hbAge` counts windows since the heartbeat moved. -/
structure Heard where
  root     : Nat
  s        : Nat
  tq       : Nat
  lead     : Bool
  rootLost : Bool
  hb       : Nat
  hbAge    : Nat := 0
  stepNo   : Nat := 0
deriving DecidableEq, Repr

/-- A TREQ not yet answered: its number, t1 from when its block has left, and the LP_ASYM, LP_RXLAT and LP_TXLAT that its exchange
uses (R76, R78, R102). -/
structure OpenReq where
  n     : Nat
  t1    : Option Int := none
  asym  : Int
  rxlat : Nat
  txlat : Nat
deriving DecidableEq, Repr

/-- An exchange that waits for its t3 (R104). `corr` is what phase steps that only one end has applied take off theta;
none where this end does not hold such a step. -/
structure Half where
  n    : Nat
  t1   : Int
  t2   : Int
  t4   : Int
  asym : Int
  corr : Option Int
deriving DecidableEq, Repr

/-- Two-way exchange of a port (R101 to R106), offsets in 2^-16 ns. `seen` counts the TREQs of the window, `k` the
accepted exchanges, `done` the completed ones since CALIBRATE; `avgSet` says that d_avg
holds a round trip, `lockedAt` is the TICK since which the peer has shown itself LOCKED (R118); `respLat` is the number and the LP_TXLAT of the TRESP that waits to leave. -/
structure Exch where
  n      : Nat := 0
  open_  : List OpenReq := []
  prev   : Option Half := none
  lastT3 : Option (Nat × Nat) := none
  respLat : Option (Nat × Nat) := none
  acc    : Rat := 0
  k      : Nat := 0
  seen   : Nat := 0
  dAvg   : Rat := 0
  avgSet : Bool := false
  lockedAt : Option Nat := none
  ungated : Nat := 64
  done   : Nat := 0
  th     : Rat := 0
  better : Nat := 0
  heard  : Option Heard := none
  sentAt : Option Nat := none
deriving DecidableEq, Repr

/-- One thread-link port. `goodMarks` and `goodBlocks` count good markers and correctable blocks without a break (R80); `peerMarks` and
`peerLoop` are what the peer's last TRAIN block said, `rxLane` the block last received; `annHea` is the HEA announced, `identOk` says
that the peer's announcement agreed; `paced` holds the TICK at which a class and type last left outside UP, `wasCell` that the last slot
carried a cell (R53); `noCred` counts the slots in which a class waited without credit (R73); `asymHost` is the TICK of the host's
last write of LP_ASYM (R78). -/
structure Port where
  state    : LinkState := .disabled
  attempts : Nat := 0
  since    : Nat := 0
  degraded : Bool := false
  cleanWin : Nat := 0
  asymFw   : Bool := false
  peerHea  : Nat := 0
  peerPort : Nat := 0
  peerPlane : Nat := 0
  peerTier : Nat := 0
  peerMajor : Nat := 0
  peerMinor : Nat := 0
  feat     : Nat := 0
  tx       : List Cell := []
  rx       : List Cell := []
  cred     : Credits := {}
  ccNext   : Nat := 0
  txSeq    : Nat := 0
  rxSeq    : Nat := 0
  rxTagged : Nat := 0
  oldRx    : Nat × Nat := (0, 0)
  keys     : PortKeys := {}
  bad      : Nat := 0
  authFails : List Nat := []
  slot     : Nat := 0
  lcbDue   : Nat := 80
  lcbOwed  : Bool := false
  sigRun   : Nat := 0
  satWin   : Nat := 0
  looped   : Bool := false
  corr     : Nat := 0
  lane     : Option (BitVec 640) := none
  rxLane   : Option (BitVec 640) := none
  goodMarks : Nat := 0
  peerMarks : Bool := false
  peerLoop : Bool := false
  goodBlocks : Nat := 0
  annHea   : Option Nat := none
  identOk  : Bool := false
  paced    : List (Nat × Nat) := []
  wasCell  : Bool := false
  noCred   : List Nat := [0, 0, 0]
  asymHost : Option Nat := none
  exch     : Exch := {}
  heardAt  : Nat := 0
deriving DecidableEq, Repr

/-- Time engine states (R107, R122). -/
inductive EngState where
  | off | acquiring | fine | locked | lost
deriving DecidableEq, Repr

/-- Servo stages (R105). -/
inductive Stage where
  | acq | est | fast | mid | lock
deriving DecidableEq, Repr

/-- A time engine (R105 to R107). `gt` is its GT in units of 2^-16 ns since the PTP epoch; `steer` the slew it spreads
over the next window, `frac` the part of a unit by which an untracked engine's GT has moved against TICK (R106). -/
structure Engine where
  state  : EngState := .off
  stage  : Stage := .acq
  gt     : Int := 0
  port   : Option Nat := none
  y      : Rat := 0
  steer  : Rat := 0
  th     : Rat := 0
  thBuf  : List Rat := []
  starve : Nat := 0
  in1ns  : Nat := 0
  in10ps : Nat := 0
  out100 : Nat := 0
  out1us : Nat := 0
  frac   : Rat := 0
deriving DecidableEq, Repr

/-- A phase step: GT second of its boundary, amount in 2^-16 ns, number (R119). -/
structure PStep where
  sec : Nat
  amt : Int
  num : Nat
deriving DecidableEq, Repr

/-- A capture slot (R39 to R44). `fresh` says that GT stepped since the last capture. -/
structure TCap where
  seq      : Nat := 0
  gtValid  : Bool := false
  dtcValid : Bool := false
  plane    : Plane := .a
  stepped  : Bool := false
  fresh    : Bool := false
  gt       : BitVec 128 := 0
  dtc      : Word64 := 0
  dcor     : Word64 := 0
  part     : Nat := 0
  pepoch   : Nat := 0
  depoch   : Word64 := 0
  at_      : Option Nat := none
deriving DecidableEq, Repr

/-- Time of a part. A Creel uses engine A alone. `stepNo` is the number of the last phase step that the part's GT holds; `reacq` says that
a Spindle has been in HOLD and has not been LOCKED again (R49). -/
structure Time where
  tick      : Nat := 0
  gtValid   : Bool := false
  rootClass : Nat := 0xF
  engA      : Engine := {}
  engB      : Engine := {}
  track     : Plane := .a
  lead      : Plane := .a
  c         : Rat := 0
  ab        : Rat := 0
  abBad     : Nat := 0
  decay     : Bool := false
  held      : Bool := false
  everLocked : Bool := false
  slot0     : TCap := {}
  slot1     : TCap := {}
  slot2     : TCap := {}
  slot3     : TCap := {}
  pendSteps : List PStep := []
  applied   : List PStep := []
  stepNo    : Nat := 0
  reacq     : Bool := false
  leadChange : Option (Nat × Plane) := none
  qword     : Option Qword := none
  leadLostTick : Option Nat := none
deriving DecidableEq, Repr

/-! ## Firmware complex, rings, mailboxes, DMA, security -/

/-- A ring channel (R440 to R446). Bases carry bit 63 for host memory on a Creel. `posts` are the doorbell values whose entries have not
all been taken, with their TICKs (R3). -/
structure Chan where
  isOpen   : Bool := false
  cmdBase  : Nat := 0
  cmdSize  : Nat := 0
  cplBase  : Nat := 0
  cplSize  : Nat := 0
  vector   : Nat := 0
  nextSeq  : Nat := 0
  cmdRead  : Nat := 0
  cmdWrite : Nat := 0
  posts    : List (Nat × Nat) := []
  cplWrite : Nat := 0
  recent   : List (Nat × Nat × Bytes) := []
  store    : List (Bytes × Bool) := []
  lost     : Nat := 0
  lostType : Nat := 0xFF
  full     : Bool := false
  fullAt   : Nat := 0
  closing  : Bool := false
  stale    : Bool := false
deriving DecidableEq, Repr

/-- A dispatched command that has not completed (R446, R447). `taken` says that its core has accepted it, at TICK `acc`;
`posted` is the TICK of the doorbell that posted it (R3). -/
structure Inflight where
  via     : Via
  seq     : Nat
  key     : Nat
  code    : Nat
  core    : Nat
  relaxed : Bool
  notify  : Bool
  payload : Bytes := []
  acc     : Nat := 0
  taken   : Bool := false
  posted  : Option Nat := none
deriving DecidableEq, Repr

/-- A command that waits for others: FENCE for the commands accepted earlier on its channels (R448), or CHAN_CLOSE for its
channel (R441). -/
structure Waiting where
  q     : Req
  code  : Nat
  core  : Nat
  on    : List (Via × Nat)
  close : Option Nat := none
deriving DecidableEq, Repr

/-- A class B command in progress (R449): which work, its arguments, items in all and items done, and what it gathers. -/
structure BJob where
  q      : Req
  code   : Nat
  core   : Nat
  args   : List Nat
  total  : Nat
  done   : Nat := 0
  out    : List Nat := []
  staged : Bytes := []
  aborting : Bool := false
deriving DecidableEq, Repr

/-- A core's mailbox (R483, R484). -/
structure Mbox where
  msg     : Bytes := []
  latched : Bytes := []
  reply   : Bytes := []
  busy    : Bool := false
  rdy     : Bool := false
  overrun : Bool := false
deriving DecidableEq, Repr

/-- A DMA channel (R450 to R453, R492 to R494). -/
structure Dma where
  src     : Nat := 0
  dst     : Nat := 0
  count   : Nat := 0
  pace    : Bool := false
  remote  : Bool := false
  planeB  : Bool := false
  notify  : Bool := false
  retry   : Nat := 3
  busy    : Bool := false
  paused  : Bool := false
  halted  : Bool := false
  done    : Bool := false
  aborted : Bool := false
  abortDue : Bool := false
  fault   : Nat := 0
  paceCh  : Nat := 0
  paceCpl : Bool := false
  low     : Nat := 0
  high    : Nat := 0
  hea     : Nat := 0
  err     : Nat := 0
  tries   : Nat := 0
  failTick : Option Nat := none
  msg     : Option (Nat × Nat × Nat) := none
  msgNo   : Nat := 0
deriving DecidableEq, Repr

/-- A firmware core (R432, R455). `down` is the TICK at which its restart ends. -/
structure FwCore where
  running : Bool := false
  down    : Option Nat := none
  halted  : Bool := false
  activated : Bool := false
  ver     : Nat := 0
  wdHeld  : Bool := false
  restartQ : Option Req := none
deriving DecidableEq, Repr

/-- States of a flash slot (R433). -/
inductive SlotState where
  | empty | active | staged | invalid
deriving DecidableEq, Repr

/-- An image slot of the boot flash (R433). -/
structure FlashSlot where
  kind     : Nat
  coreKind : Nat
  slotB    : Bool
  state    : SlotState
  image    : Bytes
deriving DecidableEq, Repr

/-- A scheduled firmware activation (R458, R459). -/
structure Activation where
  todo     : List Nat
  deferred : Bool := false
  minor    : Bool := false
deriving DecidableEq, Repr

/-- Firmware status of a part (R436, R454, R458, R459, R480). -/
structure Fw where
  bootStep  : Nat := 0
  bootFail  : Bool := false
  failKind  : Nat := 0
  failCore  : Nat := 7
  major     : Nat := 0
  minor     : Nat := 0
  patch     : Nat := 0
  features  : Nat := 0
  inUse     : Option Nat := none
  flash     : List FlashSlot := []
  emergency : List EmergencyCause := []
  clearedAt : Option Nat := none
  act       : Option Activation := none
deriving DecidableEq, Repr

/-- Lifecycle record, identity, debug and power state of a part (R496 to R519). -/
structure Sec where
  lifecycle   : Nat := 0
  debug       : Nat := 0
  power       : Nat := 0
  untrusted   : Bool := false
  zeroizing   : Bool := false
  identity    : Option Bytes := none
  challenge   : Option (Bytes × Nat) := none
  draws       : Nat := 0
  recCounter  : Nat := 0
  devId       : Bytes := []
  revoked     : Nat := 0
  minSec      : List Nat := []
  ownerKeys   : List Bytes := []
  cert        : Bytes := []
  vendorDebug : Bool := false
  gateTick    : Option Nat := none
  downTick    : Option Nat := none
deriving DecidableEq, Repr

/-- One link of the hall topology record as this part's port sees it (R16, R17, R20, R176, R506). -/
structure TopoLink where
  hea     : Nat
  plane   : Nat
  tier    : Nat
  port    : Nat
  alpha   : Int := -0x80000000
  device  : Bytes := []
  noUntrusted : Bool := false
deriving DecidableEq, Repr

/-- The hall topology record as this part holds it. Tier 0 is a Spindle, 1 RACK, 2 ROW, 3 ROOT (R81). -/
structure Topo where
  hea       : Nat := 0xFFFF_FFFF
  tier      : Nat := 0
  plane     : Plane := .a
  row       : Nat := 0
  rack      : Nat := 0
  index     : Nat := 0
  hasRoot   : Bool := false
  registry  : Bool := false
  plant     : Bool := false
  timeRootA : Nat := 0
  timeRootB : Nat := 0
  links     : Tbl TopoLink := []
  portMap   : List (Nat × Nat) := []
  rows      : Nat := 0
  transitRow : Nat := 0
  transitRack : Nat := 0
  twoTier   : Bool := false
  powerKids : List Nat := []
  powerTree : Nat := 0
  powerUp   : Option Nat := none
  hallRank  : Nat := 0
  hallSize  : Nat := 0
  hallBound : Nat := 0
  minSecHall : Nat := 0
  roots     : List Nat := []
  trims     : Tbl (Nat × Nat) := []
  ktrims    : Tbl (Int × Int) := []
  disabledPorts : List Nat := []
deriving DecidableEq, Repr

/-- An error code's reporting on channel 0 (R535): TICK of its last record, raisings since. -/
structure ErrSlot where
  last  : Option Nat := none
  count : Nat := 0
  first : Nat := 0
  dtcv  : Bool := false
deriving DecidableEq, Repr

/-- The debug port's transaction register (R556), and the unlock token as far as it has been written there (R511). -/
structure Tap where
  data   : Word64 := 0
  done   : Bool := false
  denied : Bool := false
  token  : Mem := []
deriving DecidableEq, Repr

/-- Work of a port's training, key exchange or key rollover that needs a firmware core (R432, R455). -/
inductive FwWork where
  | startKx
  | kxInit (content : Bytes)
  | kxResp (content : Bytes)
  | kxAuth (content : Bytes)
  | rekey
  | rkInit (content : Bytes)
  | rkResp (content : Bytes)
  | ident (m : Ident)
deriving DecidableEq, Repr

/-- Such work as it waits for its core to run again (R455). -/
structure HeldWork where
  core : Nat
  port : Nat
  work : FwWork
deriving DecidableEq, Repr

/-- What both parts have. `evNow` holds by offset the W1C bits that hardware has set at TICK `evTick` (R8). -/
structure PartCore where
  regs     : Tbl Word := []
  held     : List HeldWork := []
  evTick   : Nat := 0
  evNow    : Tbl Nat := []
  time     : Time := {}
  ports    : Tbl Port := []
  chans    : Tbl Chan := []
  inflight : List Inflight := []
  waiting  : List Waiting := []
  jobs     : List BJob := []
  mbox     : Tbl Mbox := []
  dma      : Tbl Dma := []
  cores    : Tbl FwCore := []
  fw       : Fw := {}
  sec      : Sec := {}
  topo     : Topo := {}
  errs     : Tbl ErrSlot := []
  errSeq   : Nat := 0
  tap      : Tap := {}
  bus      : Word := 0
  mem      : Mem := []
  hostMem  : Mem := []
  lastTick : Tbl Nat := []
deriving DecidableEq, Repr

/-! ## The Spindle -/

/-- A step descriptor (R182), as its 56 checked bytes' fields. -/
structure Desc where
  kind    : Nat
  flags   : Nat
  prog    : Nat
  clusters : Nat
  nominal : Nat
  guard_  : Nat
  seedIdx : Nat
  digests : Nat
  tag     : Nat
  arg     : Nat
  tableId : Nat
deriving DecidableEq, Repr

/-- A pending launch at a member (R189, R196, R198, R523). `sent` says that its READY went; `retryOf` is the launch count of
the attempt that a retry launch repeats. -/
structure Pend where
  l      : Nat
  idx    : Nat
  c      : Nat
  ready  : Bool := false
  go     : Option (Nat × Nat) := none
  retryOf : Option Nat := none
  attempt : Nat := 0
  sent    : Bool := false
deriving DecidableEq, Repr

/-- The step last launched on the die. -/
structure Cur where
  l       : Nat
  committedL : Nat
  idx     : Nat
  c       : Nat
  stepIdx : Nat
  desc    : Option Desc
  gen     : Nat
  attempt : Nat := 0
deriving DecidableEq, Repr

/-- A launched step that has not been decided (R521 to R524): its bank image, its failures, whether its vote went, and the partition
that launched it. -/
structure Uncommitted where
  l      : Nat
  c      : Nat
  idx    : Nat
  stepIdx : Nat
  image  : Mem
  gen    : Nat
  causes : List Nat := []
  endedAt : Option Nat := none
  voted  : Bool := false
  attempt : Nat := 0
  fold   : Nat := 0
  compute : Bool := false
  noRetry : Bool := false
  /-- No verdict on it will come: the step before it was failed for good and this one fell with it (R522). -/
  dead   : Bool := false
  part   : Nat := 0
  pepoch : Nat := 0
deriving DecidableEq, Repr

/-- A cluster in the current step (R204, R211, R284). `eighths` is the stretch lengthening so far. -/
structure Cluster where
  running : Bool := false
  s       : Nat := 0
  eighths : Nat := 0
  resid   : Nat := 0
deriving DecidableEq, Repr

/-- The launch sequencer (R182 to R211). `lastC` is the highest commit number that came to its doff, `seenC` that of the last step
seen committed; `doffL` is the launch whose doff has passed and which has not launched. -/
structure Launch where
  table    : Tbl Desc := []
  pend     : List Pend := []
  cur      : Option Cur := none
  next_    : Option Cur := none
  past     : List Uncommitted := []
  clusters : Tbl Cluster := []
  fast     : Bool := false
  held     : Bool := false
  trdy     : Nat := 2000
  dn       : Nat := 0
  up       : Nat := 0
  q        : Nat := 5000
  missRun  : Nat := 0
  seq      : Nat := 0
  lastC    : Nat := 0
  rootHea  : Nat := 0
  everLocked : Bool := false
  doffL    : Option Nat := none
  refill   : Bool := false
  seenC    : Nat := 0
deriving DecidableEq, Repr

/-- A die-scope transaction being staged (R192). -/
structure Txn where
  writes   : List (Nat × Byte) := []
  conflict : Bool := false
deriving DecidableEq, Repr

/-- The staging of one firmware core: PAGE and VIEW as its own BEGIN and END writes set them, and its open transaction (R192; log entry
153). -/
structure FwStaging where
  ctl : Nat := 0
  txn : Option Txn := none
deriving DecidableEq, Repr

/-- A partition-scope transaction at a member (R187, R194). -/
structure PTxn where
  tno    : Nat
  target : Nat
  part   : Nat
  pepoch : Nat
  cells  : List (Nat × Bytes) := []
  total  : Option Nat := none
  entered : Bool := false
deriving DecidableEq, Repr

/-- The settings banks (R190 to R194, R210). `confirm` is the membership that waits for its confirmation, partition and epoch, with the planes on which
it is still to be sent (R29). -/
structure Banks where
  active   : Mem := []
  shadow   : Mem := []
  host     : Option Txn := none
  fw       : Tbl FwStaging := []
  heldTxns : List (List (Nat × Byte)) := []
  ptxns    : List PTxn := []
  pending  : Bool := false
  doffs    : Nat := 0
  touched  : List Nat := []
  epochS   : Nat := 0
  dcor     : Int := 0
  plane    : Plane := .a
  confirm  : Option (Nat × Nat × List Plane) := none
deriving DecidableEq, Repr

/-- A region at the clock governor (R218 to R226, R237). `debt` is W at the end of the step's cycle `cyc`, the last that was stretched. -/
structure Region where
  present : Bool := false
  gated   : Bool := true
  stopped : Bool := false
  fsel    : Nat := 0
  debt    : Nat := 0
  warns   : Nat := 0
  excess  : Nat := 0
  slackMin : Nat := 0xFF
  breached : Bool := false
  cyc      : Nat := 0
  regWarns : Nat := 0
  regExcess : Nat := 0
  regSlack : Nat := 0xFF
deriving DecidableEq, Repr

/-- The region clock governor (R216 to R237). `queues` are the entries in each crossing queue, keyed by 32 × writer + reader (R221). -/
structure Clocks where
  regions : Tbl Region := []
  queues  : Tbl Nat := []
  mceil   : Nat := 15
  clean   : Nat := 0
  doffAt  : Option Nat := none
  settleFail : List Nat := []
deriving DecidableEq, Repr

/-- Types of synchronisation objects (R242). -/
inductive ObjType where
  | count | flag | seq | gate
deriving DecidableEq, Repr

/-- A physical object that is not FREE (R238, R245, R261, R265). -/
structure Obj where
  typ      : ObjType
  control  : Bool
  orphaned : Bool := false
  realign  : Bool := false
  mismatch : Bool := false
  ownerCtx : Nat
  owner    : Nat
  value    : Nat
  sigWin   : Nat := 0
  takeWin  : Nat := 0
  base     : Nat := 0
  lastProd : Nat := 0
  lastCons : Nat := 0
  mod      : Nat := 0
deriving DecidableEq, Repr

/-- A valid translation entry (R241, R243). -/
structure Xlat where
  ctx    : Nat
  vid    : Nat
  pid    : Nat
  shared : Bool := false
deriving DecidableEq, Repr

/-- A registered wait on an object (R252, R265). `expiry` is a TICK count. -/
structure Waiter where
  logical : Nat
  ctx     : Nat
  op      : Nat
  vid     : Nat
  pid     : Nat
  arg     : Nat
  operand : Nat
  expiry  : Nat
  regTick : Nat
  regDtc  : Nat
  gen     : Nat := 0
deriving DecidableEq, Repr

/-- A posted or remote operation in a bank queue (R238, R247). `src` is encoded as LAST_PROD (R265); `credit` is the port
whose SIGNAL credit a remote signal holds until it enters the queue. -/
structure QOp where
  pid     : Nat
  ctx     : Nat
  vid     : Nat
  op      : Nat
  arg     : Nat
  operand : Nat
  src     : Nat
  core    : Nat
  timeout : Nat := 0
  sendDtc : Option (Nat × Nat) := none
  cmd     : Option Req := none
  credit  : Option Nat := none
deriving DecidableEq, Repr

/-- A core's sync and barrier ports (R246, R274). `awake` says that a wake wire has fired since the core last slept, `early` that
it was ungated ahead of its release (R288); `op2` is SO_OP2 as last written. -/
structure CorePort where
  status    : Nat := 0
  pending   : Bool := false
  value     : Nat := 0
  barStatus : Nat := 0
  barPending : Bool := false
  barGen    : Nat := 0
  awake     : Bool := false
  early     : Bool := false
  op2       : Nat := 0
deriving DecidableEq, Repr

/-- A saved context's entry for an object that it shares: the object's physical ID, `home` none while the object is resident, else the saved
context whose image holds it under that ID (R264). -/
structure Join where
  ctx  : Nat
  vid  : Nat
  pid  : Nat
  home : Option Nat := none
deriving DecidableEq, Repr

/-- The sync object engine (R238 to R271). `stalled` are a bank's operations that wait at their sync port, or at their receiver, for a place
in its queue (R238). -/
structure SyncEng where
  objs     : Tbl Obj := []
  xlat     : Tbl Xlat := []
  waiters  : Tbl Waiter := []
  queues   : Tbl (List QOp) := []
  stalled  : Tbl (List QOp) := []
  served   : Tbl Nat := []
  coreCtx  : Tbl Nat := []
  ports    : Tbl CorePort := []
  saved    : List Nat := []
  joins    : List Join := []
  frozen   : Bool := false
  dumping  : Bool := false
  slices   : Nat := 0
  recSeq   : Nat := 0
  snaps    : List (Nat × Nat × Nat × Nat) := []
deriving DecidableEq, Repr

/-- A registered barrier wait (R275, R280). -/
structure BarWait where
  chan   : Nat
  gen    : Nat
  expiry : Nat
  regDtc : Nat
deriving DecidableEq, Repr

/-- A barrier channel (R272 to R285). -/
structure BarChan where
  gen       : Nat := 0
  arrived   : List Nat := []
  group     : Option Nat := none
  localDone : Bool := false
deriving DecidableEq, Repr

/-- The barrier and wake network. `lastArr` keys are core × 8 + channel. -/
structure Barrier where
  chans   : Tbl BarChan := []
  waits   : Tbl BarWait := []
  lastArr : Tbl Nat := []
deriving DecidableEq, Repr

/-- The die's side of ply rounds (R304 to R306). IN and OUT of channel n lie at 0x800 n and 0x800 n + 0x400. -/
structure PlyDie where
  area   : Mem := []
  round  : Tbl Nat := []
  held   : Tbl (Nat × Nat) := []
  digRounds : Nat := 0
deriving DecidableEq, Repr

/-- A SEED_SET that waits for its doff (R389). -/
structure SeedPend where
  target : Nat
  pairs  : List (Nat × Nat)
deriving DecidableEq, Repr

/-- The determinism unit (R386 to R403). `ndNow` are the increments of the TICK `ndTick`, `ndStep` and `ndLane` are the increments of the step and since the last digest round 0;
`mism` are mismatches by commit and step index; `late` are the next step's slots so far. -/
structure Determ where
  nd       : Tbl Nat := []
  ndTick   : Nat := 0
  ndNow    : Tbl Nat := []
  ndSnap   : Tbl Nat := []
  ndStep   : Nat := 0
  ndLane   : Nat := 0
  snapSeq  : Nat := 0
  gens     : Tbl (Tbl Nat) := []
  gen      : Nat := 0
  seedPend : List SeedPend := []
  slots    : Tbl Nat := []
  expect   : List (Nat × Nat) := []
  mism     : List (Nat × Nat) := []
  late     : Tbl Nat := []
  commits  : Nat := 0
  stepIdx  : Nat := 0
  recSeq   : Nat := 0
deriving DecidableEq, Repr

/-- The die's side of Whorl (R407, R422, R431). `pulse` is the TICK of the last SPN_DOFF or SPN_PWR_SNAP, `k` the period last begun, `due`
the period whose contribution waits for a sample. -/
structure WhorlDie where
  sample   : Nat := 0
  pulse    : Option Nat := none
  lastD    : Option Nat := none
  k        : Option Nat := none
  due      : Option Nat := none
  tripped  : Bool := false
  trips    : Nat := 0
  lane     : Nat := 0x3F
  ballast  : Nat := 0
  kb       : Nat := 3200
deriving DecidableEq, Repr

/-- The Spindle beyond what both parts have. `absent` are the physical cores that are absent or disabled, `clu` a
physical core's cluster, `disClu` the absent or disabled clusters, `timeBus` the DTC as driven on the cluster time bus (R46). -/
structure Spindle where
  launch  : Launch := {}
  banks   : Banks := {}
  clocks  : Clocks := {}
  sync    : SyncEng := {}
  bar     : Barrier := {}
  ply     : PlyDie := {}
  det     : Determ := {}
  wh      : WhorlDie := {}
  absent  : List Nat := []
  clu     : Tbl Nat := []
  disClu  : List Nat := []
  takenOver : Option Plane := none
  timeBus : Nat := 0
deriving DecidableEq, Repr

/-! ## The Creel -/

/-- Qualification states (R135, R158). -/
inductive QualState where
  | disabled | failed | qualifying | wtr | qualified
deriving DecidableEq, Repr

/-- A reference at the reference unit (R126 to R135). -/
structure Ref where
  state   : QualState := .disabled
  iq      : Nat := 0xF
  fiq     : Nat := 0xF
  ssm     : Nat := 0xF
  cclass  : Nat := 0xFF
  first   : Bool := true
  good    : Nat := 0
  badRun  : Nat := 0
  lastAt  : Option Int := none
  since   : Nat := 0
  fstate  : QualState := .disabled
  ffirst  : Bool := true
  fsince  : Nat := 0
  phase   : Int := 0
  macsec  : Bool := true
  slave   : Bool := false
  lastSync : Option (Nat × Option Int × Int) := none
  delaySeq : Nat := 0
  delayT3  : Option Int := none
  lastAnn : Nat := 0
  lastEsmc : Nat := 0
  sec     : Nat := 0
  master  : Bool := false
  outClass : Nat := 0xFF
  outSsm  : Nat := 0xF
  outResp : Option (Nat × Int) := none
  parent  : Option (Nat × List Nat) := none
  extQl   : Option Nat := none
  syncAt  : Nat := 0
  respAt  : Nat := 0
deriving DecidableEq, Repr

/-- Unit states (R140). -/
inductive UnitState where
  | freeRun | acquire | locked | holdover | follow | monitor
deriving DecidableEq, Repr

/-- What an output drives from an alignment instant on, in 2^-16 ns of GT: its marking edge, whether it rises there, the end of the pulse or
none, and the period of a frequency output (R151, R159). -/
structure OutEdge where
  at_    : Int
  rising : Bool := true
  until_ : Option Int := none
  period : Option Rat := none
deriving DecidableEq, Repr

/-- A pulse output (R151 to R153, R159). -/
structure POut where
  offset  : Int := 0
  pendOff : Option (Nat × Int) := none
  src     : Nat := 0
  pendSrc : Option (Nat × Nat) := none
  fly     : Bool := false
  lastIn  : Option Int := none
  edge    : Option OutEdge := none
deriving DecidableEq, Repr

/-- A phase step at the lead root that waits for its PX copy (R149). -/
structure RootStep where
  step   : PStep
  q      : Option Req := none
  code   : Nat := 0
  issued : Nat := 0
  sentDown : Bool := false
deriving DecidableEq, Repr

/-- The reference and holdover unit (R126 to R159). -/
structure RefUnit where
  refs     : Tbl Ref := []
  state    : UnitState := .monitor
  phaseSel : Option Nat := none
  freqSel  : Option Nat := none
  labelSel : Option Nat := none
  cls      : Nat := 0xF
  err      : Int := 0
  within   : Option Nat := none
  fromFree : Bool := true
  everLock : Bool := false
  learned  : Bool := false
  iq1Since : Option Nat := none
  hoStart  : Option Nat := none
  hoTemp   : Int := 0
  hoHeld   : Nat := 0
  temp     : Int := 0
  slew     : Option Int := none
  step     : Option RootStep := none
  stepNo   : Nat := 0
  hb       : Nat := 0
  lostRows : List Nat := []
  steerLost : Bool := false
  parent   : Option Nat := none
  rootLost : Bool := false
  qwordAt  : Option Nat := none
  todPend  : Tbl Nat := []
  todPf    : Nat := 0
  todBad   : Nat := 0
  gtFromTod : Bool := false
  setStep  : Bool := false
  outs     : Tbl POut := []
  lastAge  : Nat := 0
deriving DecidableEq, Repr

/-- A stop of an interval job (R165, R168): its source specification, DELAY and the TICK instant of its edge in 2^-16 ns. -/
structure TiStop where
  src   : Nat
  delay : Nat
  at_   : Option Nat := none
deriving DecidableEq, Repr

/-- An armed interval job (R165 to R168). `startAt` is the start's TICK instant in 2^-16 ns, its GT and TQ; `cancelled` says that a
`TI_CANCEL` reached the unit at this TICK: the job ends when the TICK does, unless its last stop comes in it (R167). -/
structure TiJob where
  tag     : Nat
  start   : Nat
  stops   : List TiStop
  timeout : Nat
  armTo   : Nat
  armed   : Nat
  startAt : Option (Nat × Int × Nat) := none
  lost    : Bool := false
  cancelled : Bool := false
deriving DecidableEq, Repr

/-- A stamp that waits in its input's buffer (R169, R170). -/
structure TiStamp where
  slope    : Nat
  settling : Bool
  lost     : Bool
  gt       : Int
  tq       : Nat
deriving DecidableEq, Repr

/-- A time-interval input (R160, R161, R169, R173). `lastEdge` is the last edge's instant in TICK time, 2^-16 ns; `recent` are the TICKs of
the edges of the last 600 ms; `lastDtc` is the newest stamp's DTC in each partition the Creel holds D for (R163); `buf` is the buffer of
64 records, whose first may leave at the TICK `outAt`. -/
structure TiInput where
  settleAt : Option Nat := none
  lastEdge : Option Nat := none
  recent   : List Nat := []
  lost     : Bool := false
  seq      : Nat := 0
  last     : Int := 0
  lastDtc  : Tbl Nat := []
  injected : Option Nat := none
  buf      : List TiStamp := []
  outAt    : Nat := 0
deriving DecidableEq, Repr

/-- The time-interval unit (R160 to R181). `tables` are the linearisation tables in use and `spare` each channel's other one (R173);
`calSelf` is a full calibration that the die temperature started, by the channels done (R172). -/
structure TiUnit where
  inputs   : Tbl TiInput := []
  jobs     : List TiJob := []
  tables   : Tbl (List Nat) := []
  spare    : Tbl (List Nat) := []
  delays   : Tbl Int := []
  linValid : Bool := false
  calSelf  : Option Nat := none
  calTemp  : Nat := 0
  temp     : Option Nat := none
  recSeq   : Nat := 0
deriving DecidableEq, Repr

/-- A group's tree as this Creel has it installed (R300, R313): child ports, the up port or the turn here, the
partition's mode (R325) and its root's HEA (R527). -/
structure Tree where
  kids     : List Nat
  up       : Option Nat
  fast     : Bool := false
  root     : Nat := 0
deriving DecidableEq, Repr

/-- A round at the ply engine (R312, R313). `reports` stand in order of arrival; `held` are EMPTY reports kept per child. -/
structure Round where
  c       : Nat := 0
  n       : Nat := 0
  isOpen  : Bool := false
  reports : List (Nat × PlyUp) := []
  held    : List (Nat × PlyUp) := []
  failed  : Option Nat := none
  done    : Option (Nat × Nat) := none
deriving DecidableEq, Repr

/-- The ply engine. Keys are partition × 65,536 + tree ID. `heads` are the PLY_UP headers of messages under way, under
port × 2^32 + that key. -/
structure PlyEng where
  trees  : Tbl Tree := []
  rounds : Tbl Round := []
  heads  : Tbl PlyUp := []
deriving DecidableEq, Repr

/-- A member of a partition at its root (R26, R27, R190). `joinC` and `leaveC` are the commit numbers of the launches at whose doffs
it joins and leaves; `marks` are commit numbers of launches at which it got a straggler mark (R369). -/
structure Member where
  hea    : Nat
  rank   : Nat
  mceil  : Nat := 15
  confA  : Bool := false
  confB  : Bool := false
  joinC  : Option Nat := none
  leaveC : Option Nat := none
  marks  : List Nat := []
deriving DecidableEq, Repr

/-- A slot's state (R336). -/
structure SlotState2 where
  t      : Nat := 0
  think  : Bool := false
  thinkCount : Nat := 0
  hist   : List Nat := []
  done   : Bool := false
  lastTok : Nat := 0
deriving DecidableEq, Repr

/-- A sampler TOPK round of a step (R342 to R346): what it gave its slot, the chosen value's format and bits, and the LSE group's
bias where one is bound. -/
structure Tok where
  slot   : Nat
  token  : Nat
  flags  : Nat
  reason : Nat
  pos    : Nat
  val    : Option (Nat × Nat) := none
  bias   : Option Nat := none
deriving DecidableEq, Repr

/-- A pending launch at the root (R186 to R199, R523). `base` is the count it would have without its own slips, which `slipBy` lists
as (reason, ticks); `image` and `who` are the partition bank and the
members of the step that a retry launch repeats. -/
structure RPend where
  l       : Nat
  idx     : Nat
  c       : Nat
  kind    : Nat := 0
  base    : Nat := 0
  slips   : Nat := 0
  slipBy  : List (Nat × Nat) := []
  decided : Bool := false
  launchAt : Nat := 0
  stepIdx : Nat := 0
  retry   : Bool := false
  attempt : Nat := 0
  mustFail : Option (Nat × Nat) := none
  reports : List (Nat × ReadyMsg) := []
  image   : Mem := []
  who     : List Nat := []
  windUp  : Bool := false
deriving DecidableEq, Repr

/-- A launched step at the root that has not been decided (R521 to R526). `who` are the members that launched it, `mustFail` the
cause and HEA of a failure that no vote undoes, `image` the partition bank at its first doff, `slots` the slot state it advanced provisionally, `dur` the time that the ledger
counts for it, `plyCause` the fail cause of a round of it that turned here. -/
structure RStep where
  l       : Nat
  idx     : Nat
  c       : Nat
  stepIdx : Nat
  kind    : Nat
  attempt : Nat := 0
  who     : List Nat := []
  votes   : List (Nat × VoteMsg) := []
  endD    : Option Nat := none
  mustFail : Option (Nat × Nat) := none
  ignore  : Bool := false
  dig     : List Nat := []
  rounds  : Nat := 0
  counted : Nat := 0
  eff     : Nat := 15
  retries : Nat := 0
  image   : Mem := []
  slots   : Tbl SlotState2 := []
  toks    : List Tok := []
  lse     : Tbl Nat := []
  dur     : Nat := 0
  plyCause : Option Nat := none
  windUp  : Bool := false
  shareBy : Bool := false
deriving DecidableEq, Repr

/-- A ply group armed at the root (R300). -/
structure Group where
  op     : Nat
  fmt    : Nat
  outFmt : Nat
  length : Nat
  rmode  : Nat
  scaled : Bool
  consumer : Nat
  chan   : Nat
  seedIdx : Nat
  bias   : Nat
  qallow : Nat
  list   : Option (List Nat)
  fib    : Nat := 0
  tier   : Nat := 1
  valid  : Bool := true
deriving DecidableEq, Repr

/-- What a transaction of the root changes at the root itself at its doff: the output rings, a group, the adapter epoch of requests, or
a request's join of a slot. -/
inductive RAct where
  | join (idx slot : Nat)
  | rings (step done : Nat)
  | group (g : Nat) (cfg : Option Group)
  | rebind (epoch : Nat) (reqs : List Nat)
deriving DecidableEq, Repr

/-- Whether an act is the join of a request. -/
def RAct.joins (idx : Nat) : RAct → Bool
  | .join i _ => i = idx
  | _ => false

/-- A plan record (R378) but for its partition, time and sequence number; `sub` stands in byte 1. -/
structure PlanRec where
  rtype : Nat
  sub   : Nat := 0
  idx   : Nat := 0
  id    : Nat := 0
  tag   : Nat := 0
  slot  : Nat := 0
  slot2 : Nat := 0
  band  : Nat := 0
  band2 : Nat := 0
  epoch : Nat := 0
  c     : Nat := 0
  val   : Nat := 0
  hea   : Nat := 0
  page  : Nat := 0
  tgt   : Nat := 0
deriving DecidableEq, Repr

/-- A partition-scope transaction at the root (R194): its target launch count, 0 while no launch can take it; its cells, for all
members or for one; what it writes in the partition bank; the commands that complete when it closes, with the result bytes after
TARGET_C, and the plan records posted then; the requests whose join or leave it holds; and whether its cells have been sent. -/
structure RTxn where
  tno    : Nat
  target : Nat := 0
  lead   : Nat := 0
  cells  : List (Option Nat × Nat × Bytes) := []
  bank   : List (Nat × Byte) := []
  acts   : List RAct := []
  cmds   : List (Req × Nat × Bytes) := []
  recs   : List PlanRec := []
  reqs   : List Nat := []
  sent   : Bool := false
deriving DecidableEq, Repr

/-- Planning parameters (R357, R471), DRAINING bands with the launches since a member of theirs was marked, members that became
stragglers since the last planning pass (R370), doffs whose pass has not run, and the `REQ_CANCEL` and `ADAPTER_REBIND` commands that wait
for the next pass, by table index and by adapter. -/
structure PlanCfg where
  quota    : Nat := 0
  admitMax : Nat := 32
  lead     : Nat := 50
  age      : List Nat := []
  bands    : List (Nat × Nat) := [(0, 8192)]
  bandMap  : Nat := 0
  stragN   : Nat := 4
  moveMax  : Nat := 8
  moveTo   : Nat := 100
  ring     : Nat := 0xFFFF
  draining : List (Nat × Nat) := []
  strag    : List Nat := []
  due      : Nat := 0
  cancels  : List (Nat × Req) := []
  rebinds  : List (Nat × Req) := []
deriving DecidableEq, Repr

/-- An adapter of a partition (R372 to R375): current epoch and retiring epochs. -/
structure Adapter where
  id      : Nat
  cur     : Nat
  retiring : List Nat := []
deriving DecidableEq, Repr

/-- The goodput ledger of a partition epoch (R537 to R539), times in ns. `slip` holds reasons 1 to 10; `lastCommit` is the instant of
the last committed verdict. -/
structure Ledger where
  first   : Option Nat := none
  steps   : Nat := 0
  failed  : Nat := 0
  slips   : Nat := 0
  early   : Nat := 0
  useful  : Nat := 0
  retried : Nat := 0
  maint   : Nat := 0
  idle    : Nat := 0
  held    : Nat := 0
  slip    : List Nat := [0, 0, 0, 0, 0, 0, 0, 0, 0, 0]
  windUp  : Nat := 0
  takeover : Nat := 0
  share   : Nat := 0
  lastCommit : Nat := 0
deriving DecidableEq, Repr

/-- Launching and stepping of a partition at its root. `lastL` is the count last launched,
`recent` the commit numbers of the last 64 launches, `withdrawn` those of withdrawn ones, `emptySince` the instant since when no launch pends, `heldAcc` the held time
since `lastL`, `tookOver` the instant from which takeover time runs. -/
structure RLaunch where
  pend    : List RPend := []
  run     : List RStep := []
  commitNo : Nat := 0
  stepIdx : Nat := 0
  lastC   : Nat := 0
  lastIdx : Nat := 0
  lastL   : Nat := 0
  holding : Bool := false
  stagger : Nat := 0
  newStagger : Option Nat := none
  coastC  : Option Nat := none
  emptySince : Option Nat := none
  heldAcc : Nat := 0
  tookOver : Option Nat := none
  recent  : List Nat := []
  withdrawn : List Nat := []
deriving DecidableEq, Repr

/-- Frequency and Whorl figures of a partition at its root (R228, R415 to R420). An override is the value cut, the cutter's rank and
its value; `ended` traces the overrides that ended, with their rank and the DTC (R229; log entry 154). -/
structure RFreq where
  mceilP  : Nat := 15
  policy  : Nat := 15
  host    : Nat := 15
  fstep   : Nat := 15
  fceil   : Nat := 15
  ballast : Nat := 0
  ovHost  : Option (Nat × Nat × Nat) := none
  ovPol   : Option (Nat × Nat × Nat) := none
  ended   : List (Nat × (Nat × Nat × Nat) × Nat) := []
  whSeq   : Option Nat := none
  held    : Bool := false
  windUp  : Bool := false
  windDown : Bool := false
  coastOk : Bool := false
  coast   : Nat := 0
deriving DecidableEq, Repr

/-- Where a piece of output goes: STEP_RING, DONE_RING, PLAN_RING, or a hank ring of a base and size. -/
inductive OKind where
  | step | done | plan
  | hank (base size : Nat)
deriving DecidableEq, Repr

/-- A piece of committed output not yet written: the commit number it belongs to, its bytes without the times of its write, and the
submission numbers of the requests whose tokens or completion it carries, and for a completion the DTC at which the request's last
token was delivered. -/
structure OPiece where
  kind : OKind
  c    : Nat
  body : Bytes
  reqs : List Nat := []
  last : Option Nat := none
deriving DecidableEq, Repr

/-- Output of committed steps (R345 to R349) and mirroring (R376, R377) of a partition. -/
structure ROut where
  stepRing : Option Nat := none
  doneRing : Option Nat := none
  seq     : Nat := 0
  planSeq : Nat := 0
  held    : List OPiece := []
  stalled : Bool := false
  unacked : List Nat := []
  lag     : Bool := false
deriving DecidableEq, Repr

/-- A partition at its root. `lm` is its longest fibre path in m; `dn` and `up` are in hundredths of ns; `waiting` are members whose
set-up transaction has not been sent; `computed` says that a COMPUTE step has been launched; `tearIdle` says that a teardown's IDLE launch that ends the last step has been committed, `tearC` is the commit number of the launch at whose doff every member leaves, `planNew` what `PLAN_CFG` set for the next planning pass. -/
structure PRoot where
  epoch   : Nat
  fast    : Bool := false
  lane    : Nat := 0
  q       : Nat := 5000
  slipMax : Nat := 1000
  digGroup : Nat := 0xFF
  realignK : Nat := 64
  idleIdx : Nat := 0
  maintIdx : Nat := 0
  members : List Member := []
  waiting : List Nat := []
  kids    : List Nat := []
  lm      : Nat := 0
  trdy    : Nat := 2000
  dn      : Nat := 0
  up      : Nat := 0
  inService : Bool := false
  computed : Bool := false
  tearing : Bool := false
  tearC   : Option Nat := none
  tearIdle : Bool := false
  repair  : Bool := false
  broken  : List (Nat × Nat) := []
  lostMembers : List Nat := []
  launch  : RLaunch := {}
  freq    : RFreq := {}
  txns    : List RTxn := []
  tno     : Nat := 0
  groups  : Tbl Group := []
  bank    : Mem := []
  slots   : Tbl SlotState2 := []
  out     : ROut := {}
  plan    : PlanCfg := {}
  planNew : Option PlanCfg := none
  adapters : List Adapter := []
  ledger  : Ledger := {}
  expect  : List (Nat × Nat × Nat) := []
deriving DecidableEq, Repr

/-- Request states (R352). -/
inductive ReqState where
  | queued | joining | running | leaving | moving
deriving DecidableEq, Repr

/-- A request table entry that is not FREE (R351). `started` says that its slot's state is its own, `gone` that its leave doff has passed
while a step with its stop is undecided, `finalC` is the commit number of its last token's step, `mgen` the GEN that the standby root was last sent. -/
structure ReqEnt where
  id       : Nat
  state    : ReqState
  cls      : Nat
  hank     : Bool
  dlrec    : Bool
  cancel   : Bool := false
  cancelLate : Bool := false
  mirrored : Bool := false
  slot     : Nat := 0xFFFF
  part     : Nat
  band     : Nat := 0xFF
  miss     : Nat := 0
  pepoch   : Nat
  adapter  : Nat
  aEpoch   : Nat := 0
  newSlot  : Nat := 0xFFFF
  param    : Nat
  prompt   : Nat
  plen     : Nat
  ns       : Nat
  ttftTgt  : Nat
  tbtTgt   : Nat
  tSubmit  : Nat
  tLast    : Nat := 0
  tokens   : Nat := 0
  ttft     : Nat := 0xFFFF_FFFF
  tbtMiss  : Nat := 0
  tbtMax   : Nat := 0
  hit      : Nat := 0
  moves    : Nat := 0
  hitNode  : Nat := 0xFFFF_FFFF
  targetC  : Nat := 0
  seq      : Nat
  tag      : Nat
  gen      : Nat := 0
  tState   : Nat
  resumed  : Bool := false
  stopped  : Bool := false
  started  : Bool := false
  gone     : Bool := false
  finalC   : Nat := 0
  mgen     : Option Nat := none
  saved    : Option SlotState2 := none
  pins     : List Nat := []
deriving DecidableEq, Repr

/-- A partition as the standby root's mirror holds it, complete up to a commit number, with its request entries (R376, R529). -/
structure Mirror where
  root : PRoot
  cm   : Nat
  reqs : Tbl ReqEnt := []
deriving DecidableEq, Repr

/-- A partition ID in the registry (R25, R28). -/
structure RegEntry where
  lastEpoch : Nat
  live      : Bool
  draining  : Bool := false
  leaving   : Bool := false
  root      : Nat := 0
  members   : List Nat := []
  lane      : Nat := 0
  fast      : Bool := false
deriving DecidableEq, Repr

/-- A valid prefix-index node (R363). -/
structure PNode where
  hash   : Nat
  parent : Nat
  block  : Nat
  kids   : Nat := 0
  hea    : Nat
  page   : Nat
  pins   : Nat := 0
  ns     : Nat
  use    : Nat
deriving DecidableEq, Repr

/-- The step planner's tables (R351, R362). `lru` lists evictable nodes, oldest first. `buckets` holds the node
indices of a bucket's valid entries. -/
structure Planner where
  reqs    : Tbl ReqEnt := []
  nodes   : Tbl PNode := []
  buckets : Tbl (List Nat) := []
  lru     : List Nat := []
  seq     : Nat := 0
  hashers : List Nat := []
  standbyTick : Nat := 0
  solo    : Bool := false
  rebuild : Option Nat := none
deriving DecidableEq, Repr

/-- A lane of the Whorl law (R411, R412). `since` is the period of its last change of `fc`; `trip` says that a trip holds it, `coast`
that `bw` took over the ballast of a coasting partition. -/
structure WLane where
  q     : Int := 0
  bw    : Rat := 0
  fc    : Nat := 15
  held  : Bool := false
  qHold : Int := 0
  since : Nat := 0
  trip  : Bool := false
  coast : Bool := false
deriving DecidableEq, Repr

/-- What Whorl last sent a partition epoch (R415): sequence number and figures; `own` is the partition's ballast in W while it winds up
or down, `windUp` and `extra` the stages of a wind-up (R419, R420). -/
structure WSent where
  epoch : Nat := 0
  seq   : Nat := 0
  fig   : List Nat := []
  own   : Option Rat := none
  windUp : Bool := false
  extra : Bool := false
deriving DecidableEq, Repr

/-- The Whorl master (R405 to R431). `k` is the period last begun, `settled` the one whose round last completed or was missed, `env` holds
the envelope and model registers as the last period start took them, `round` the hall power round last completed here: its key and lanes. -/
structure Whorl where
  master  : Bool := false
  started : Bool := false
  k       : Option Nat := none
  settled : Option Nat := none
  round   : Option (Nat × List Int) := none
  r       : Int := 0
  p       : Int := 0
  lane62  : Int := 0
  lanes   : Tbl WLane := []
  missRun : Nat := 0
  blind   : Bool := false
  tripped : Bool := false
  tripNo  : Nat := 0
  clearAt : Option Nat := none
  tripConf : Bool := false
  envBad  : Nat := 0
  envTool : Nat := 0
  soc     : Bool := false
  chw     : Bool := false
  stale   : Bool := false
  ramp    : Bool := false
  prevE   : Int := 0
  sent    : Tbl WSent := []
  env     : Tbl Nat := []
deriving DecidableEq, Repr

/-- The plant port (R424, R425): debounced inputs, the standby's inputs, Modbus holding registers as written, as COMMIT found them and as
the last period start took them, connections; since when PLANT_TRIP is asserted. -/
structure Plant where
  ins     : BitVec 8 := 0
  tripAt  : Option Nat := none
  standby : BitVec 8 := 0
  hold    : Tbl Nat := []
  commit  : Option (Tbl Nat) := none
  taken   : Option (Tbl Nat) := none
  hbTick  : Nat := 0
  conns   : List Word := []
  reply   : Bytes := []
  recSeq  : Nat := 0
deriving DecidableEq, Repr

/-- The Creel beyond what both parts have. -/
structure Creel where
  epochs   : Tbl Nat := []
  epochsWas : Tbl Nat := []
  epochsAt : Nat := 0
  held     : Tbl (Nat × Int) := []
  ref      : RefUnit := {}
  ti       : TiUnit := {}
  ply      : PlyEng := {}
  parts    : Tbl PRoot := []
  registry : Tbl RegEntry := []
  cache    : List (Nat × List Nat) := []
  combine  : Tbl (List (Nat × ReadyMsg)) := []
  voting   : Tbl (List (Nat × VoteMsg)) := []
  sat      : List (Nat × Nat) := []
  lostRep  : Tbl (List (Nat × Nat)) := []
  mirror   : Tbl Mirror := []
  planner  : Planner := {}
  traceWr  : Nat := 0
  traceWraps : Nat := 0
  traceNew : Bool := false
  traceSeq : Nat := 0
  whorl    : Whorl := {}
  plant    : Plant := {}
  powerRep : Tbl (PlyUp × Nat) := []
  msix     : List Nat := []
  msixPend : List Nat := []
  dtcSel   : Tbl Nat := []
  pcieDown : Bool := false
deriving DecidableEq, Repr

/-! ## The machine -/

/-- The two parts, the commands that wait (first in, first out), and the counter of free values drawn (Config). -/
structure State where
  sc      : PartCore := {}
  cc      : PartCore := {}
  spn     : Spindle := {}
  crl     : Creel := {}
  pending : List Instr := []
  free    : Nat := 0
deriving DecidableEq, Repr

/-- Why a step can stop with a fault. -/
inductive Fault where
  /-- Raised by a meaning whose operand names a unit the part does not have: a port above 1 on a Spindle or above 128
  on a Creel, a core, a DMA channel, a cluster or an input outside the range the spec gives (R89, R162, R212, R238,
  R432, R440, R492). Safe: no such command can arise. -/
  | noSuchUnit
deriving DecidableEq, Repr

/-- Why a step can be refused. -/
inductive Refusal where
  /-- Raised by the arm of a command that has no meaning yet. Safe: nothing can be proved of its effect. -/
  | notModelled (mnemonic : String)
deriving DecidableEq, Repr

/-- The machine right after cold reset: nothing listed, nothing pending. -/
def State.reset : State := {}

end Sys2Proof.Machine
end

