-- ==== Sys2Proof/Machine/Sparse.lean ====
section
/-! DEFINITION. Tables by number in one canonical form: keys strictly rise, and no entry equals what an unlisted key
reads as. Memory is the instance with bytes and 0. -/

namespace Sys2Proof.Machine

/-- The entry listed under key `k`. -/
def tfind {α : Type} : Tbl α → Nat → Option α
  | [], _ => none
  | (k', v) :: t, k => if k' = k then some v else tfind t k

/-- Lists `v` under key `k`, in order, in place of what stood there. -/
def tput {α : Type} : Tbl α → Nat → α → Tbl α
  | [], k, v => [(k, v)]
  | (k', v') :: t, k, v =>
    if k < k' then (k, v) :: (k', v') :: t
    else if k = k' then (k, v) :: t
    else (k', v') :: tput t k v

/-- Takes key `k` off the list. -/
def tdel {α : Type} : Tbl α → Nat → Tbl α
  | [], _ => []
  | (k', v') :: t, k => if k = k' then tdel t k else (k', v') :: tdel t k

/-- What key `k` reads as, `d` where it is not listed. -/
def tget {α : Type} (d : α) (t : Tbl α) (k : Nat) : α := (tfind t k).getD d

/-- Writes `v` under key `k`; a value equal to the unlisted one takes the entry off. -/
def tset {α : Type} [DecidableEq α] (d : α) (t : Tbl α) (k : Nat) (v : α) : Tbl α :=
  if v = d then tdel t k else tput t k v

/-- Changes what key `k` reads as by `f`. -/
def tmod {α : Type} [DecidableEq α] (d : α) (t : Tbl α) (k : Nat) (f : α → α) : Tbl α :=
  tset d t k (f (tget d t k))

/-- Keys strictly rise above `lo`. -/
def tsorted {α : Type} : Option Nat → Tbl α → Bool
  | _, [] => true
  | none, (k, _) :: t => tsorted (some k) t
  | some lo, (k, _) :: t => decide (lo < k) && tsorted (some k) t

/-- The canonical form of a table whose unlisted keys read as `d`. -/
def twf {α : Type} [DecidableEq α] (d : α) (t : Tbl α) : Bool :=
  tsorted none t && t.all (fun e => decide (e.2 ≠ d))

/-- One byte of memory (an unlisted byte reads 0, log entry 2). -/
def memByte (m : Mem) (a : Nat) : Byte := tget 0 m a

/-- Writes one byte of memory. -/
def memPut (m : Mem) (a : Nat) (b : Byte) : Mem := tset 0 m a b

/-- `n` bytes from address `a` on, lowest address first (R4). -/
def memRd (m : Mem) (a : Nat) : Nat → Bytes
  | 0 => []
  | n + 1 => memByte m a :: memRd m (a + 1) n

/-- Writes a byte string from address `a` on. -/
def memWr (m : Mem) (a : Nat) : Bytes → Mem
  | [] => m
  | b :: bs => memWr (memPut m a b) (a + 1) bs

/-- The canonical form of memory. -/
def Mem.wf (m : Mem) : Bool := twf (0 : Byte) m

end Sys2Proof.Machine
end

