-- ==== Sys2Proof/WellFormed.lean ====
section
/-! DEFINITION. Which commands are well formed: every operand that names a unit names one the part has. -/

namespace Sys2Proof

/-- Ports of a part: A and B, or P000 to P127 and PX (R15, R89). -/
def Part.ports : Part → Nat
  | .spn => 2
  | .crl => 129
/-- Ring channels (R440). -/
def Part.chans : Part → Nat
  | .spn => 16
  | .crl => 256
/-- DMA channels (R450). -/
def Part.dmas : Part → Nat
  | .spn => 8
  | .crl => 32
/-- Firmware cores (R432). -/
def Part.cores : Part → Nat
  | .spn => 35
  | .crl => 11

/-- A request names a channel or mailbox of the part, and its sequence number and key fit their fields (R442). -/
def Req.wf (p : Part) (q : Req) : Bool :=
  (match q.via with
    | .ring ch => decide (ch < p.chans)
    | .mbox core => decide (core < p.cores)) && decide (q.seq < 2 ^ 32) && decide (q.key < 2 ^ 64)

/-- The checks, constructor by constructor. -/
def Instr.wellFormed : Instr → Bool
  | .registerWrite _ _ _ _ => true
  | .rcRegisterRead _ _ _ => true
  | .tcapTrigWrite _ _ => true
  | .portEnable p port _ => decide (port < p.ports)
  | .portDisable p port _ => decide (port < p.ports)
  | .portRetrainBit p port _ => decide (port < p.ports)
  | .portClrQuar p port _ => decide (port < p.ports)
  | .bankBegin x => decide (x.core.all (· < 35))
  | .bankEnd x => decide (x.core.all (· < 35))
  | .bankAbort x => decide (x.core.all (· < 35))
  | .bankWindowWrite off x => decide (x.core.all (· < 35)) && decide (0xC000 ≤ off) && decide (off < 0x1_0000) && decide (off % 4 = 0)
  | .ndSnap _ => true
  | .ndClr _ => true
  | .outputOffsetHiWrite m _ => decide (m < 4)
  | .refAgeingWrite _ => true
  | .traceBaseWrite off _ => decide (off = 0x4300 ∨ off = 0x4304 ∨ off = 0x4308)
  | .tiInputConfigWrite n _ => decide (n < 8)
  | .mbDoorbell p core _ => decide (core < p.cores)
  | .ringDoorbell p ch _ => decide (ch < p.chans)
  | .ch0Open _ _ => true
  | .ch0Close _ _ => true
  | .intEoi _ => true
  | .dmaStart p c _ => decide (c < p.dmas)
  | .dmaAbort p c _ => decide (c < p.dmas)
  | .ringEntryDispatch p ch => decide (ch < p.chans)
  | .classBSlice p ch _ _ => decide (ch < p.chans)
  | .completionRoomReturn p ch => decide (ch < p.chans)
  | .mgmtHello p q _ => q.wf p
  | .chanOpen p q _ => q.wf p
  | .chanClose p q _ => q.wf p
  | .fence p q _ => q.wf p
  | .cmdAbort p q _ => q.wf p
  | .coreRestart p q _ => q.wf p
  | .fwStage p q _ => q.wf p
  | .fwActivate p q _ => q.wf p
  | .fwWithdraw p q _ => q.wf p
  | .selfTest p q _ => q.wf p
  | .zeroize p q _ => q.wf p
  | .debugUnlock p q _ => q.wf p
  | .timeSet p q _ => q.wf p
  | .timePhaseStep p q _ => q.wf p
  | .timeLeadSet p q _ => q.wf p
  | .portRetrain p q _ => q.wf p
  | .tiArm p q _ => q.wf p
  | .tiCancel p q _ => q.wf p
  | .tiCal p q _ => q.wf p
  | .partitionCreate p q _ => q.wf p
  | .partitionTeardown p q _ => q.wf p
  | .memberJoin p q _ => q.wf p
  | .memberLeave p q _ => q.wf p
  | .launchCommit p q _ => q.wf p
  | .launchWithdraw p q _ => q.wf p
  | .freqRequest p q _ => q.wf p
  | .ledgerRead p q _ => q.wf p
  | .launchTableLoad p q _ => q.wf p
  | .descWrite p q _ => q.wf p
  | .soMap p q _ => q.wf p
  | .soMapBulk p q _ => q.wf p
  | .soUnmap p q _ => q.wf p
  | .soSignal p q _ => q.wf p
  | .ctxSwitch p q _ => q.wf p
  | .ctxReset p q _ => q.wf p
  | .skeinDump p q _ => q.wf p
  | .plyArm p q _ => q.wf p
  | .plyDisarm p q _ => q.wf p
  | .samplerBind p q _ => q.wf p
  | .outputCfg p q _ => q.wf p
  | .bobbinTest p q _ => q.wf p
  | .planCfg p q _ => q.wf p
  | .reqSubmit p q _ => q.wf p
  | .reqCancel p q _ => q.wf p
  | .reqResume p q _ => q.wf p
  | .reqQuery p q _ => q.wf p
  | .prefixInsert p q _ => q.wf p
  | .prefixInsertBulk p q _ => q.wf p
  | .prefixRemove p q _ => q.wf p
  | .adapterPublish p q _ => q.wf p
  | .adapterRebind p q _ => q.wf p
  | .seedSet p q _ => q.wf p
  | .digestExpect p q _ => q.wf p
  | .whorlResume p q _ => q.wf p
  | .coreWatchdogExpiry p core => decide (core < p.cores)
  | .coreException p core => decide (core < p.cores)
  | .coreRestartDone p core => decide (core < p.cores)
  | .fwActivationNextCore _ => true
  | .emergencyBegin _ _ => true
  | .emergencyClearTimer _ => true
  | .coldResetRelease _ => true
  | .coldResetAssert => true
  | .moduleInputLoss => true
  | .perstAssert => true
  | .dmaUnitCopy p c _ => decide (c < p.dmas)
  | .dmaAccessRetry p c _ => decide (c < p.dmas)
  | .bulkWriteReceived p port _ => decide (port < p.ports)
  | .bulkAckReceived p c _ _ => decide (c < p.dmas)
  | .bulkAckTimeout p c => decide (c < p.dmas)
  | .blockSlotSend p port => decide (port < p.ports)
  | .blockReceived p port _ => decide (port < p.ports)
  | .lcbReceived p port _ => decide (port < p.ports)
  | .idleReceived p port _ => decide (port < p.ports)
  | .cellSwitch port => decide (port < 129)
  | .linkBackoffExpiry p port => decide (port < p.ports)
  | .trainMarkersLocked p port => decide (port < p.ports)
  | .fecLockAchieved p port => decide (port < p.ports)
  | .identifyReceived p port _ => decide (port < p.ports)
  | .linkStateTimeout p port => decide (port < p.ports)
  | .calibrateComplete p port => decide (port < p.ports)
  | .linkLockLost p port => decide (port < p.ports)
  | .linkAuthBurst p port => decide (port < p.ports)
  | .linkDegradedWindow p port _ _ => decide (port < p.ports)
  | .creditStall p port cls => decide (port < p.ports) && decide (cls < 5)
  | .bulkSatWindowEnd p port => decide (port < p.ports)
  | .portSatReceived _ part port _ _ => decide (part < 0x1_0000) && decide (port < 129)
  | .rekeyDue p port => decide (port < p.ports)
  | .rkInitReceived p port _ => decide (port < p.ports)
  | .rkRespReceived p port _ => decide (port < p.ports)
  | .oldKeyDiscard p port => decide (port < p.ports)
  | .kxInitReceived p port _ => decide (port < p.ports)
  | .kxRespReceived p port _ => decide (port < p.ports)
  | .kxAuthReceived p port _ => decide (port < p.ports)
  | .kxFailReceived p port _ => decide (port < p.ports)
  | .treqSend p port => decide (port < p.ports)
  | .treqReceived p port _ _ => decide (port < p.ports)
  | .trespReceived p port _ _ => decide (port < p.ports)
  | .servoWindowEnd p port _ => decide (port < p.ports)
  | .leadLostSend => true
  | .leadLostReceived _ _ _ => true
  | .leadChangeReceived p port _ _ => decide (port < p.ports)
  | .leadChangeBoundary _ => true
  | .phaseStepReceived p port _ _ _ => decide (port < p.ports)
  | .phaseStepBoundary _ => true
  | .phaseStepPxReturn _ => true
  | .phaseStepAbandon _ => true
  | .qwordOriginate => true
  | .qwordReceived p port _ => decide (port < p.ports)
  | .tiInputEdge src port _ => decide (src ≤ 0x10) && decide (port < 129)
  | .tiJobTimeout _ => true
  | .tiArmTimeout _ => true
  | .tiTempCalTrigger _ => true
  | .tiInbandCalCycle ch hits _ => decide (ch < 17) && decide (hits.length = 256) && decide (hits.sum = 2 ^ 20)
  | .tiDelayInjection n => decide (n < 8)
  | .inbandPortVisit port txs rxs => decide (port < 129) && decide (txs.length = 64) && decide (rxs.length = 64)
  | .asymUpdate p port => decide (port < p.ports)
  | .pfPulseTimeout n => decide (n < 2)
  | .freqMeasureWindow ref _ _ => decide (ref < 8)
  | .todMessageReceived _ => true
  | .ptpAnnounceReceived eth _ => decide (eth < 4)
  | .ptpSyncReceived eth _ _ _ => decide (eth < 4)
  | .ptpDelayRespReceived eth _ _ => decide (eth < 4)
  | .ptpMasterSend eth => decide (eth < 4)
  | .announceReceiptTimeout eth => decide (eth < 4)
  | .esmcReceived eth _ => decide (eth < 4)
  | .esmcTimeout eth => decide (eth < 4)
  | .ethLos e => decide (e.port < 4)
  | .refWtrExpiry ref => decide (ref < 8)
  | .acquireLockTimer => true
  | .holdoverClassTimer _ => true
  | .hoLearnedTimer => true
  | .ageingLearnUpdate _ => true
  | .pulseOutputEdge m => decide (m < 4)
  | .launchSetReceived _ _ _ => true
  | .withdrawReceived _ => true
  | .readinessEvaluation _ => true
  | .readyCombine part port _ => decide (part < 0x1_0000) && decide (port < 129)
  | .readyAtRoot part port _ => decide (part < 0x1_0000) && decide (port < 129)
  | .launchDecisionDeadline part _ => decide (part < 0x1_0000)
  | .goReceived _ _ _ => true
  | .slipReceived _ _ n hea reason => decide (n < 2 ^ 32) && decide (hea < 2 ^ 32) && decide (reason < 256)
  | .doff _ => true
  | .launch => true
  | .shadowRefill => true
  | .bankWriteReceived _ => true
  | .bankEndReceived _ => true
  | .launchFaultReceived part _ _ kind => decide (part < 0x1_0000) && decide (kind < 256)
  | .rootDoff part => decide (part < 0x1_0000)
  | .membershipConfirmReceived part _ _ mceil => decide (part < 0x1_0000) && decide (mceil < 16)
  | .regionStretch c r => decide (c < 32) && r.pushes.all (· < 32) && r.pops.all (· < 32)
  | .crossingQueueStall writer reader _ => decide (writer < 32) && decide (reader < 32)
  | .freqSettleConfirm c => decide (c < 32)
  | .clockSettleTimeout c => decide (c < 32)
  | .policySet part v => decide (part < 0x1_0000) && decide (v < 16)
  | .soOpSignal core _ _ => decide (core < 2048)
  | .soOpSignalTo core _ _ => decide (core < 2048)
  | .soOpBroadcast core _ _ => decide (core < 2048)
  | .soOpWaitTake core _ _ => decide (core < 2048)
  | .soOpWait core _ _ => decide (core < 2048)
  | .soOpArriveWait core _ _ => decide (core < 2048)
  | .soOpClear core _ _ => decide (core < 2048)
  | .soOpRead core _ _ => decide (core < 2048)
  | .soOpInit core _ _ => decide (core < 2048)
  | .soOpSeqSet core _ _ => decide (core < 2048)
  | .soOpRemote core _ _ _ => decide (core < 2048)
  | .soBankApply bank => decide (bank < 16)
  | .soWaitExpiry core => decide (core < 2048)
  | .signalCellReceived m => decide (m.port < 2)
  | .fabricSignalWord _ => true
  | .fabricTapWord _ => true
  | .coreResetInput core => decide (core < 2048)
  | .countRealignCheck => true
  | .barArrive core _ => decide (core < 2048)
  | .barArriveWait core _ => decide (core < 2048)
  | .barWait core _ => decide (core < 2048)
  | .barrierWaitExpiry core => decide (core < 2048)
  | .plyUpReceived port _ => decide (port < 129)
  | .plyCellGapTimeout part _ port => decide (part < 0x1_0000) && decide (port < 129)
  | .plyDownForward _ => true
  | .plyRelease _ => true
  | .heldOutputWrite part => decide (part < 0x1_0000)
  | .planningPass part => decide (part < 0x1_0000)
  | .stragglerReceived part _ _ _ unit => decide (part < 0x1_0000) && decide (unit < 256)
  | .moveTimeoutExpiry idx => decide (idx < 524_288)
  | .mirrorAckReceived part _ n => decide (part < 0x1_0000) && decide (n < 2 ^ 32)
  | .mirrorSilenceTimeout => true
  | .mirrorRebuildStart => true
  | .whorlPeriodSpindle => true
  | .rackPeriodResend port => decide (port < 129)
  | .hallPowerResult _ _ => true
  | .whorlRoundMissed _ => true
  | .whorlSetReceived part _ => decide (part < 0x1_0000)
  | .plantInputChange n _ => decide (n < 8)
  | .whorlInputReceived _ k => decide (k < 2 ^ 64)
  | .plantTripDebounced => true
  | .whorlTripReceived p port _ _ => decide (port < p.ports)
  | .tripEnd => true
  | .plantHeartbeatStale => true
  | .coastLaunchCommit part => decide (part < 0x1_0000)
  | .modbusConnect _ => true
  | .modbusReadHolding _ _ _ => true
  | .modbusReadInput _ _ _ => true
  | .modbusWriteSingle _ _ _ => true
  | .modbusWriteMultiple _ _ _ => true
  | .modbusOtherFunction _ _ => true
  | .powerSampleValid _ => true
  | .stepfailInput => true
  | .commitVoteSend => true
  | .commitVoteCombine part port _ => decide (part < 0x1_0000) && decide (port < 129)
  | .commitVoteAtRoot part port _ => decide (part < 0x1_0000) && decide (port < 129)
  | .commitDecisionDeadline part _ => decide (part < 0x1_0000)
  | .commitReceived _ => true
  | .treeBreakReceived part _ port => decide (part < 0x1_0000) && decide (port < 129)
  | .treeRepairDone part => decide (part < 0x1_0000)
  | .rootLostReportReceived part hea _ => decide (part < 0x1_0000) && decide (hea < 2 ^ 32)
  | .takeoverReceived _ _ => true
  | .napEntry _ => true
  | .creelHoldEntry => true
  | .tapXactRead _ space addr => decide (space < 4) && decide (addr < 2 ^ 56)
  | .tapXactWrite _ space addr _ => decide (space < 4) && decide (addr < 2 ^ 56)
  | .tapXactStatus _ => true
  | .whorlPeriodStart => true
  | .qwordTimeout => true
  | .todMessageTimeout => true
  | .pf10mNoEdge n => decide (n < 2)
  | .slewEnd => true
  | .tiInputSettled n => decide (n < 8)
  | .clusterStepEnd c => decide (c < 32)
  | .emergencyCleared _ => true
  | .dmaPaceResume p c => decide (c < p.dmas)
  | .moduleColdReset => true
  | .perstRelease => true
  | .bar2Write addr data => decide (addr + data.length ≤ 0x10_0000_0000)
  | .ptpDelayReqSend eth => decide (eth < 4)
  | .ptpDelayReqReceived eth _ _ => decide (eth < 4)
  | .ptpFollowUpReceived eth _ _ => decide (eth < 4)
  | .esmcSend eth => decide (eth < 4)

end Sys2Proof
end

