-- ==== Sys2Proof/Machine/Ops.lean ====
section
/-! DEFINITION. The named operations over the two parts that every family uses: byte strings, access to a part and its
memory, counts and addresses, event bits and counters, records in completion rings, error records, interrupts, and the
acceptance and completion of host commands. -/

namespace Sys2Proof.Machine

abbrev Out := Host.Outcome State Fault Refusal

/-! ## Byte strings (R4) -/

/-- `n` bytes of `v`, least significant first. -/
def le : Nat → Nat → Bytes
  | 0, _ => []
  | n + 1, v => BitVec.ofNat 8 v :: le n (v / 256)

/-- The number a byte string spells, first byte least significant. -/
def leNat : Bytes → Nat
  | [] => 0
  | b :: bs => b.toNat + 256 * leNat bs

/-- Bytes `o` to `o + n - 1` of a structure as a number; bytes past its end count as 0. -/
def rdLe (b : Bytes) (o n : Nat) : Nat := leNat ((b.drop o).take n)

/-- Fields given as (width in bytes, value), laid out one after another. -/
def lay (fs : List (Nat × Nat)) : Bytes := fs.flatMap (fun f => le f.1 f.2)

/-- `b` cut or filled with zeros to `n` bytes. -/
def padTo (n : Nat) (b : Bytes) : Bytes := (b ++ List.replicate (n - b.length) 0).take n

/-- Bits `[lo + n - 1 : lo]` of a number. -/
def bits (v lo n : Nat) : Nat := v / 2 ^ lo % 2 ^ n

/-- A Boolean as a bit at place `i`. -/
def bitAt (b : Bool) (i : Nat) : Nat := if b then 2 ^ i else 0

/-- An `n`-bit number read as two's complement. -/
def toSigned (n v : Nat) : Int := if v < 2 ^ (n - 1) then (v : Int) else (v : Int) - 2 ^ n

/-- An integer as an `n`-bit two's complement number, wrapping. -/
def toUnsigned (n : Nat) (i : Int) : Nat := (i % 2 ^ n).toNat

/-- An integer held to the range of `n`-bit two's complement. -/
def satSigned (n : Nat) (i : Int) : Int := max (-(2 ^ (n - 1))) (min i (2 ^ (n - 1) - 1))

/-- `a / b` rounded up. -/
def ceilDiv (a b : Nat) : Nat := (a + b - 1) / b

/-- The least multiple of `b` at or above `a`. -/
def ceilTo (a b : Nat) : Nat := ceilDiv a b * b

/-- Fails with `e` unless `b`. -/
def guardE {ε : Type} (b : Bool) (e : ε) : Except ε Unit := if b then .ok () else .error e

/-! ## Parts and their memory -/

def State.core (s : State) : Part → PartCore
  | .spn => s.sc
  | .crl => s.cc

/-- Changes what both parts have, at part `p`. -/
def State.modCore (p : Part) (f : PartCore → PartCore) (s : State) : State :=
  match p with
  | .spn => { s with sc := f s.sc }
  | .crl => { s with cc := f s.cc }

def State.port (p : Part) (n : Nat) (s : State) : Port := tget {} (s.core p).ports n
def State.modPort (p : Part) (n : Nat) (f : Port → Port) (s : State) : State :=
  s.modCore p (fun c => { c with ports := tmod {} c.ports n f })
def State.chan (p : Part) (n : Nat) (s : State) : Chan := tget {} (s.core p).chans n
def State.modChan (p : Part) (n : Nat) (f : Chan → Chan) (s : State) : State :=
  s.modCore p (fun c => { c with chans := tmod {} c.chans n f })
def State.dmaCh (p : Part) (n : Nat) (s : State) : Dma := tget {} (s.core p).dma n
def State.modDma (p : Part) (n : Nat) (f : Dma → Dma) (s : State) : State :=
  s.modCore p (fun c => { c with dma := tmod {} c.dma n f })
def State.mboxOf (p : Part) (n : Nat) (s : State) : Mbox := tget {} (s.core p).mbox n
def State.modMbox (p : Part) (n : Nat) (f : Mbox → Mbox) (s : State) : State :=
  s.modCore p (fun c => { c with mbox := tmod {} c.mbox n f })
def State.fwCore (p : Part) (n : Nat) (s : State) : FwCore := tget {} (s.core p).cores n
def State.modFwCore (p : Part) (n : Nat) (f : FwCore → FwCore) (s : State) : State :=
  s.modCore p (fun c => { c with cores := tmod {} c.cores n f })
def State.modTime (p : Part) (f : Time → Time) (s : State) : State :=
  s.modCore p (fun c => { c with time := f c.time })
def State.tick (p : Part) (s : State) : Nat := (s.core p).time.tick
def State.hea (p : Part) (s : State) : Nat := (s.core p).topo.hea

/-- Bit [63] of an address names host memory on a Creel (R442). -/
def hostBit : Nat := 2 ^ 63
/-- First stack address of the host region (R438). -/
def hostRegion : Nat := 0xA000_0000
/-- End of the stack (R438). -/
def stackEnd : Nat := 0x10_0000_0000

/-- An address that does not exist: above 48 bits on a Spindle (R541), above the stack on a Creel. -/
def badAddr (p : Part) (a : Nat) : Bool :=
  match p with
  | .spn => 2 ^ 48 ≤ a
  | .crl => a < hostBit && stackEnd ≤ a

/-- An address range that does not lie where host data may (R438, R541). -/
def badHostRange (p : Part) (a n : Nat) : Bool :=
  match p with
  | .spn => 2 ^ 48 < a + n
  | .crl => a < hostBit && (a < hostRegion || stackEnd < a + n)

/-- Reads `n` bytes at `a`: die memory, or the stack or host memory (R442, R462). -/
def State.rd (p : Part) (a n : Nat) (s : State) : Bytes :=
  match p with
  | .spn => memRd s.sc.mem a n
  | .crl => if hostBit ≤ a then memRd s.cc.hostMem (a - hostBit) n else memRd s.cc.mem a n

/-- Writes a byte string at `a`. -/
def State.wr (p : Part) (a : Nat) (b : Bytes) (s : State) : State :=
  match p with
  | .spn => { s with sc.mem := memWr s.sc.mem a b }
  | .crl =>
    if hostBit ≤ a then { s with cc.hostMem := memWr s.cc.hostMem (a - hostBit) b }
    else { s with cc.mem := memWr s.cc.mem a b }

/-- Draws a free value (log entry 5). -/
def State.draw (s : State) : Nat × State := ((Config.freeValue s.free).toNat, { s with free := s.free + 1 })

/-- Draws `n` free bytes. -/
def State.drawBytes (n : Nat) (s : State) : Bytes × State :=
  ((List.range n).map (fun i => ((Config.freeValue (s.free + i / 8)) >>> (8 * (i % 8))).setWidth 8), { s with free := s.free + ceilDiv n 8 })

/-! ## Settings banks (R190) -/

def bankPart : Nat := 0x0000
def bankPepoch : Nat := 0x0004
def bankRank : Nat := 0x0008
def bankMembers : Nat := 0x000C
def bankFstep : Nat := 0x0010
def bankFceil : Nat := 0x0011
def bankBallast : Nat := 0x0012
def bankFence : Nat := 0x0020
def bankMask : Nat := 0x0120
def bankGroups : Nat := 0x1000
def bankSlotMap : Nat := 0x2000
def bankAdapters : Nat := 0xA000

/-- `n` bytes of a bank image as a number. -/
def bankNat (m : Mem) (o n : Nat) : Nat := leNat (memRd m o n)
/-- Bit `i` of a bit map that starts at byte `o`. -/
def bankBit (m : Mem) (o i : Nat) : Bool := (memByte m (o + i / 8)).toNat.testBit (i % 8)

/-- The die's active partition ID and epoch. -/
def State.spnPart (s : State) : Nat := bankNat s.spn.banks.active bankPart 2
def State.spnPepoch (s : State) : Nat := bankNat s.spn.banks.active bankPepoch 4

/-! ## Counts (R31, R35 to R38) -/

/-- Units of 2^-16 ns in a second. -/
def unitsPerSec : Int := 65_536_000_000_000

/-- The engine a Spindle tracks. -/
def Time.tracked (t : Time) : Engine :=
  match t.track with
  | .a => t.engA
  | .b => t.engB

/-- GT as the part reports it, in 2^-16 ns: the tracked engine's, less c on a Spindle (R111). -/
def State.gt (p : Part) (s : State) : Int :=
  match p with
  | .spn => s.sc.time.tracked.gt + (-s.sc.time.c).floor
  | .crl => s.cc.time.engA.gt

/-- The last tick at or before a GT position (R37); none before the domain epoch or above 2^64 - 1 (R38). -/
def dtcOf (gt : Int) (epochS : Nat) (d : Int) : Option Nat :=
  let x := gt - epochS * unitsPerSec - d
  if x < 0 || 2 ^ 64 * 65536 ≤ x then none else some (x / 65536).toNat
/-- The GT position of a DTC count: that of its TICK edge (R37). -/
def gtOf (dtc epochS : Nat) (d : Int) : Int := epochS * unitsPerSec + dtc * 65536 + d

/-- The die's DTC, 0 where it has none (R45, R47). -/
def State.dtc (s : State) : Nat :=
  if s.spnPart = 0 then 0 else (dtcOf (s.gt .spn) s.spn.banks.epochS s.spn.banks.dcor).getD 0

/-- The partition and epoch that the die serves: of its active bank, or for a die that joins, of its shadow bank (R202). -/
def State.serves (s : State) : Nat × Nat :=
  if s.spnPart ≠ 0 then (s.spnPart, s.spnPepoch)
  else (bankNat s.spn.banks.shadow bankPart 2, bankNat s.spn.banks.shadow bankPepoch 4)

/-- The die's DTC of the partition it serves. -/
def State.ldtc (s : State) : Nat :=
  if s.spnPart ≠ 0 then s.dtc
  else if s.serves.1 = 0 then 0
  else (dtcOf (s.gt .spn) s.spn.banks.epochS s.spn.banks.dcor).getD 0

/-- A partition's DTC at the Creel, where the Creel holds its epoch and D (R44). -/
def State.crlDtc? (part : Nat) (s : State) : Option Nat :=
  if part = 0 ∨ part = 0xFFFF then none
  else (tfind s.crl.held part).bind (fun h => dtcOf s.cc.time.engA.gt h.1 h.2)
def State.crlDtc (part : Nat) (s : State) : Nat := (s.crlDtc? part).getD 0

/-- What a firmware core reads through `time` and `timeh` (R45): the die's DTC; on a Creel that of the partition its DTCSEL names, else
TICK; 2 to 4 counts late, by the core's own lag (log entry 139). -/
def State.coreTime (p : Part) (core : Nat) (s : State) : Nat :=
  let n := match p with
    | .spn => s.dtc
    | .crl => (s.crlDtc? (tget 0 s.crl.dtcSel core)).getD s.cc.time.tick
  n - (2 + Config.timeLag core % 3)

/-- The epoch table's entry of a partition is written, or cleared. A read in the same cycle returns the value before it (R495). -/
def setEpoch (part : Nat) (v : Option Nat) (s : State) : State :=
  let now := s.cc.time.tick
  { s with crl := { s.crl with
    epochsWas := if s.crl.epochsAt = now then s.crl.epochsWas else s.crl.epochs
    epochsAt := now
    epochs := match v with
      | some n => tput s.crl.epochs part n
      | none => tdel s.crl.epochs part } }

/-- The partition epoch table as a read in this cycle sees it (R495). -/
def State.epochView (s : State) : Tbl Nat := if s.crl.epochsAt = s.cc.time.tick then s.crl.epochsWas else s.crl.epochs

/-- The DTC that a record of partition `part` carries, or the TICK count where none applies, with its valid bit. -/
def State.stampOf (p : Part) (part : Nat) (s : State) : Nat × Bool :=
  match p with
  | .spn => if s.spnPart = 0 then (s.sc.time.tick, false) else (s.dtc, true)
  | .crl =>
    match s.crlDtc? part with
    | some d => (d, true)
    | none => (s.cc.time.tick, false)

/-! ## Registers held as words -/

/-- A register's fields that hold what was written or latched: RW, W1C, RC and held RO bits, and the reset value of those. -/
structure RegDef where
  ro    : Nat := 0
  rw    : Nat := 0
  w1c   : Nat := 0
  rc    : Nat := 0
  reset : Nat := 0
deriving DecidableEq, Repr

def rwAll : RegDef := { rw := 0xFFFF_FFFF }
def rcAll : RegDef := { rc := 0xFFFF_FFFF }
def roAll : RegDef := { ro := 0xFFFF_FFFF }

/-- Thread-link port block (R89 to R94); TXLAT, RXLAT and ASYM are RW. -/
def portRegDef : Nat → RegDef
  | 0x00 => { rw := 0xFF09, reset := 0xE600 }
  | 0x08 => rwAll
  | 0x0C => rwAll
  | 0x10 => rwAll
  | 0x20 => rcAll
  | 0x24 => rcAll
  | 0x28 => rcAll
  | 0x2C => rcAll
  | 0x30 => rcAll
  | 0x34 => { ro := 0x1FFFF }
  | 0x38 => rcAll
  | 0x3C => { w1c := 0x1FF }
  | _ => {}

/-- Channel 0 block (R485); VEC_S on a Spindle, VEC_C on a Creel. OPEN is the channel's own state. -/
def ch0RegDef (p : Part) : Nat → RegDef
  | 0x00 => match p with
    | .spn => { rw := 0xFF00 }
    | .crl => { rw := 0x1FF_0000 }
  | 0x1C => {}
  | _ => rwAll

/-- Reset frequencies of SPN_RC_FTABk in MHz (R236). -/
def ftabReset : List Nat :=
  [1000, 1100, 1200, 1300, 1400, 1500, 1600, 1700, 1800, 1900, 2000, 2100, 2200, 2300, 2450, 2600]

/-- Spindle registers with held fields at fixed offsets (R478 to R495 and the unit chapters' tables). -/
def spnRegDefs : List (Nat × RegDef) :=
  [ (0x0030, { w1c := 0x7F }), (0x0044, rwAll), (0x004C, { w1c := 0xFFFF }),
    (0x0050, rwAll), (0x0054, rwAll), (0x0058, rwAll), (0x005C, rwAll),
    (0x0084, { w1c := 0x3F }), (0x0214, { w1c := 0xEF }),
    (0x081C, { w1c := 0xFF }), (0x0820, { rw := 0x70 }), (0x0824, { w1c := 0x0E }),
    (0x0A04, { w1c := 0xFF }), (0x0A08, { rw := 0xFFFF_FFFF, reset := 0x0040_0C06 }),
    (0x0A10, { ro := 0x0003_FFFF, w1c := 0x8000_0000, reset := 0xFFFF }), (0x0A14, roAll), (0x0A18, roAll),
    (0x0A1C, rcAll),
    (0x0C00, { rw := 0x00FF_FF0F, reset := 0x4000 }), (0x0C08, { w1c := 0xFF }), (0x0C0C, rcAll), (0x0C10, rcAll),
    (0x0D04, { rw := 0x0F, reset := 0x0A }), (0x0D08, { w1c := 0x0F }), (0x0D0C, rcAll), (0x0D10, rcAll),
    (0x0D14, rcAll),
    (0x0F00, { w1c := 0x0F }), (0x0F04, rcAll), (0x0F08, rcAll), (0x0F0C, { ro := 0x3F_FFFF }),
    (0x1000, { rw := 0x000F_7F1F, reset := 0x0003_0000 }), (0x1010, { w1c := 0x7F }), (0x1014, rcAll),
    (0x1018, rcAll) ]

/-- Creel registers with held fields at fixed offsets. -/
def crlRegDefs : List (Nat × RegDef) :=
  [ (0x004C, { w1c := 0x7F }), (0x0050, rcAll), (0x0084, { w1c := 0x3F }), (0x0104, rwAll),
    (0x220C, { w1c := 0x77 }),
    (0x3000, { rw := 0x7FFF_FF3F, reset := 0x0A01_1E30 }), (0x300C, rwAll), (0x3010, { ro := 0x000F_FFFF }),
    (0x3014, { w1c := 0xFF }),
    (0x3400, { rw := 0xFF01, reset := 0x01 }), (0x3404, { w1c := 0x1F }), (0x3408, rcAll), (0x340C, rcAll),
    (0x4004, { w1c := 0x0F }), (0x4008, rcAll), (0x400C, rcAll), (0x4010, rcAll), (0x4014, rcAll),
    (0x4100, { w1c := 0x0F }), (0x4104, rcAll), (0x4108, rcAll), (0x410C, rcAll),
    (0x4204, { w1c := 0xFF }), (0x420C, rcAll), (0x4210, rcAll), (0x4214, rcAll), (0x4218, rcAll), (0x421C, rcAll),
    (0x4220, rcAll), (0x4224, rcAll),
    (0x4300, rwAll), (0x4304, rwAll), (0x4308, rwAll), (0x4314, { w1c := 0x07 }), (0x4318, rcAll),
    (0x4400, { rw := 0xFFFF_FF07, reset := 0x000A_0A00 }), (0x4404, { rw := 0x00FF_0000 }), (0x4408, rwAll),
    (0x440C, rwAll), (0x4410, rwAll), (0x4414, rwAll), (0x4418, { rw := 0xFFFF_FFFF, reset := 0x0C80 }),
    (0x441C, { rw := 0xFFFF_03FF, reset := 0x0708_00C8 }), (0x4420, { rw := 0x03FF_FFFF, reset := 0x0010_0000 }),
    (0x4424, rwAll), (0x4434, { w1c := 0x3F }), (0x4438, rcAll), (0x443C, { rw := 0x1000 }),
    (0x4440, rwAll), (0x4444, rwAll), (0x4448, rwAll), (0x444C, rwAll) ]

/-- Held fields of a reference's CFG, those that apply to it: PF0, PF1, ETH0 to ETH3, TOD, PX (R126, R158). -/
def refCfgDef (n : Nat) : RegDef :=
  if n < 2 then { rw := 0x77F, reset := 0x400 }
  else if n < 6 then { rw := 0x03F }
  else if n = 6 then { rw := 0x00F }
  else {}

/-- The held fields of the register at an offset; none for an unassigned one (R10). -/
def regDef (p : Part) (off : Nat) : RegDef :=
  match p with
  | .spn =>
    if 0x00A0 ≤ off ∧ off < 0x00C0 then ch0RegDef .spn (off - 0x00A0)
    else if 0x0400 ≤ off ∧ off < 0x0480 then portRegDef ((off - 0x0400) % 0x40)
    else if 0x0A40 ≤ off ∧ off < 0x0A80 then
      { rw := 0xFFF, reset := ftabReset.getD ((off - 0x0A40) / 4) 0 }
    else tget {} spnRegDefs off
  | .crl =>
    if 0x0140 ≤ off ∧ off < 0x0180 then { rw := 0x01FF_01FF }
    else if 0x0180 ≤ off ∧ off < 0x01A0 then { w1c := 0xFFFF_FFFF }
    else if 0x01C0 ≤ off ∧ off < 0x01E0 then ch0RegDef .crl (off - 0x01C0)
    else if 0x3040 ≤ off ∧ off < 0x30C0 then
      match off % 0x10 with
      | 0 => refCfgDef ((off - 0x3040) / 0x10)
      | 8 => if (off - 0x3040) / 0x10 = 6 then {} else rwAll
      | _ => {}
    else if 0x3100 ≤ off ∧ off < 0x3140 then
      match off % 0x10 with
      | 0 => match (off - 0x3100) / 0x10 with
        | 0 => { rw := 0x0000_FF3F, reset := 0x6400 }
        | 1 => { rw := 0xFFFF_FF3F, reset := 0x6400 }
        | _ => { rw := 0x0000_001F }
      | 4 => rwAll
      | 8 => rwAll
      | _ => {}
    else if 0x3440 ≤ off ∧ off < 0x3460 then { rw := 0xFFFF_3FFF, reset := 0x2064 }
    else if 0x1_0000 ≤ off ∧ off < 0x1_2040 then portRegDef ((off - 0x1_0000) % 0x40)
    else if 0x38_0000 ≤ off ∧ off < 0x38_2000 then
      if off % 16 = 12 then { rw := 1, reset := 1 } else rwAll
    else tget {} crlRegDefs off

/-- The held word of a register. -/
def State.reg (p : Part) (off : Nat) (s : State) : Nat :=
  (tget (BitVec.ofNat 32 (regDef p off).reset) (s.core p).regs off).toNat

/-- Writes the held word of a register. -/
def State.setReg (p : Part) (off v : Nat) (s : State) : State :=
  s.modCore p (fun c => { c with regs := tset (BitVec.ofNat 32 (regDef p off).reset) c.regs off (BitVec.ofNat 32 v) })

/-- Writes bits `[lo + n - 1 : lo]` of the held word. -/
def State.setField (p : Part) (off lo n v : Nat) (s : State) : State :=
  let w := s.reg p off
  s.setReg p off (w - bits w lo n * 2 ^ lo + v % 2 ^ n * 2 ^ lo)

/-- Notes that hardware sets W1C bits of a register at this TICK, so that a write in the same cycle does not clear them (R8). -/
def State.noteEv (p : Part) (off mask : Nat) (s : State) : State :=
  s.modCore p (fun c =>
    let l := if c.evTick = c.time.tick then c.evNow else []
    { c with evTick := c.time.tick, evNow := tmod 0 l off (· ||| mask) })

/-- The W1C bits of a register that hardware has set at this TICK, which stands for the cycle of R8 (log entry 133). -/
def State.justSet (p : Part) (off : Nat) (s : State) : Nat :=
  let c := s.core p
  if c.evTick = c.time.tick then tget 0 c.evNow off else 0

/-- A written word without the bits that a W1C field keeps because hardware has just set them (R8). -/
def State.clearing (p : Part) (off v : Nat) (s : State) : Nat := v - (v &&& s.justSet p off)

/-- Sets an event bit. -/
def State.setEv (p : Part) (off bit : Nat) (s : State) : State := (s.setReg p off (s.reg p off ||| 2 ^ bit)).noteEv p off (2 ^ bit)

/-- Adds to a counter that stops at 0xFFFF_FFFF. -/
def State.bump (p : Part) (off n : Nat) (s : State) : State := s.setReg p off (min (s.reg p off + n) 0xFFFF_FFFF)

/-- Offsets of registers that both parts have. -/
def fwEvents : Part → Nat
  | .spn => 0x0030
  | .crl => 0x004C
def secEvents : Part → Nat := fun _ => 0x0084
def teAlarm : Part → Nat
  | .spn => 0x0214
  | .crl => 0x220C
def ch0Base : Part → Nat
  | .spn => 0x00A0
  | .crl => 0x01C0
def portBase (p : Part) (n : Nat) : Nat :=
  match p with
  | .spn => 0x0400 + 0x40 * n
  | .crl => 0x1_0000 + 0x40 * n
/-- Ring interrupt register of a channel (R490, R491). -/
def ringIrqOff (p : Part) (ch : Nat) : Nat :=
  match p with
  | .spn => 0x004C
  | .crl => 0x0180 + 4 * (ch / 32 % 8)
/-- A mailbox's flag register, and a DMA channel's status register (R483, R492). -/
def mbFlagsOff (p : Part) (core : Nat) : Nat :=
  match p with
  | .spn => 0x6884 + 0x100 * core
  | .crl => 0x9084 + 0x100 * core
def dmaStatOff (p : Part) (c : Nat) : Nat :=
  match p with
  | .spn => 0x0518 + 0x40 * c
  | .crl => 0xA018 + 0x40 * c
/-- A bit of a port's LP_EVENTS. -/
def State.portEv (p : Part) (n bit : Nat) (s : State) : State := s.setEv p (portBase p n + 0x3C) bit
/-- Counts one in a port's counter at block offset `o`. -/
def State.portCount (p : Part) (n o k : Nat) (s : State) : State := s.bump p (portBase p n + o) k

/-! ## Interrupts (R487 to R491) -/

/-- DMA channels that are pending: DONE with NOTIFY, or HALTED. -/
def State.dmaPend (p : Part) (s : State) : Nat :=
  (s.core p).dma.foldl (fun a e => if (e.2.done && e.2.notify) || e.2.halted then a ||| 2 ^ e.1 else a) 0
/-- Mailboxes that hold a reply. -/
def State.mbPend (p : Part) (s : State) : Nat :=
  (s.core p).mbox.foldl (fun a e => if e.2.rdy then a ||| 2 ^ e.1 else a) 0
/-- Ports with an event bit. -/
def State.portPend (s : State) : List Nat :=
  s.cc.regs.filterMap (fun e =>
    if 0x1_0000 ≤ e.1 && e.1 < 0x1_2040 && e.1 % 0x40 = 0x3C && e.2 ≠ 0 then some ((e.1 - 0x1_0000) / 0x40) else none)

/-- Sources with an EVENTS register: source, offset, bits counted (R488, R489). -/
def sourceRegs : Part → List (Nat × Nat × Nat)
  | .spn => [(0, 0x0214, 0xFF), (1, 0x043C, 0x1FF), (2, 0x047C, 0x1FF), (3, 0x081C, 0xFF), (4, 0x0824, 0x0E),
      (5, 0x0A04, 0xFF), (6, 0x0C08, 0xFF), (7, 0x0D08, 0x0F), (8, 0x0F00, 0x0F), (9, 0x1010, 0x7F), (10, 0x0030, 0x7F),
      (13, 0x0084, 0x3F)]
  | .crl => [(0, 0x220C, 0xFF), (1, 0x3014, 0xFF), (2, 0x3404, 0x1F), (3, 0x4004, 0x0F), (4, 0x4100, 0x0F),
      (5, 0x4204, 0xFF), (6, 0x4314, 0x07), (7, 0x4434, 0x3F), (9, 0x004C, 0x7F), (12, 0x0084, 0x3F)]

/-- INT_SRC: which sources are pending, enabled or not. -/
def State.sources (p : Part) (s : State) : Nat :=
  let a := (sourceRegs p).foldl (fun a r => if s.reg p r.2.1 &&& r.2.2 ≠ 0 then a ||| 2 ^ r.1 else a) 0
  match p with
  | .spn => a ||| bitAt (s.dmaPend .spn ≠ 0) 11 ||| bitAt (s.mbPend .spn ≠ 0) 12
  | .crl => a ||| bitAt (!s.portPend.isEmpty) 8 ||| bitAt (s.dmaPend .crl ≠ 0) 10 ||| bitAt (s.mbPend .crl ≠ 0) 11

/-- The vector that a source's route names. -/
def State.route (p : Part) (src : Nat) (s : State) : Nat :=
  match p with
  | .spn => bits (s.reg .spn (0x0050 + 4 * (src / 8))) (4 * (src % 8)) 4
  | .crl => bits (s.reg .crl (0x0140 + 4 * (src / 2))) (16 * (src % 2)) 9

/-- The vector of a ring channel: that of CHAN_OPEN, or VEC_S or VEC_C for channel 0. -/
def State.chanVec (p : Part) (ch : Nat) (s : State) : Nat :=
  if ch = 0 then
    match p with
    | .spn => min (bits (s.reg .spn 0x00A0) 8 8) 15
    | .crl => bits (s.reg .crl 0x01C0) 16 9
  else (s.chan p ch).vector

/-- Every vector that is asserted, each once. -/
def State.vectors (p : Part) (s : State) : List Nat :=
  let en := s.sources p &&& (match p with | .spn => s.reg .spn 0x0044 | .crl => s.reg .crl 0x0104)
  let a := if en = 0 then [] else (List.range 16).filterMap (fun i => if en.testBit i then some (s.route p i) else none)
  let words := match p with | .spn => [0] | .crl => List.range 8
  let b := words.flatMap (fun w =>
    let r := s.reg p (ringIrqOff p (32 * w))
    if r = 0 then []
    else (List.range 32).filterMap (fun i => if r.testBit i then some (s.chanVec p (32 * w + i)) else none))
  (a ++ b).eraseDups

/-- Whether the host masks an MSI-X vector, by bit 0 of its table entry's last word (R491). -/
def State.masked (v : Nat) (s : State) : Bool := (s.reg .crl (0x38_000C + 16 * v)).testBit 0

/-- The Creel's messages for newly asserted vectors `vs`: a masked vector sets its pending bit and sends nothing, and a
pending vector that is masked no longer is sent (R491). -/
def sendMsi (vs : List Nat) (s : State) : State :=
  let want := if s.crl.pcieDown then [] else (s.crl.msixPend ++ vs).eraseDups
  { s with crl.msix := s.crl.msix ++ want.filter (fun v => !s.masked v)
           crl.msixPend := want.filter (fun v => s.masked v) }

/-- One message for each Creel vector that became asserted (R491); none while PERST_N holds the PCIe function in reset. The
queue of waiting commands is not a command's to change. -/
def settle (s s' : State) : State :=
  let old := s.vectors .crl
  { sendMsi ((s'.vectors .crl).filter (fun v => !old.contains v)) s' with pending := s.pending }

/-! ## Firmware cores that are down (R455) -/

/-- A core that restarts, or that the debug port holds halted, is down (R455, R511). -/
def coreDown (p : Part) (core : Nat) (s : State) : Bool := (s.fwCore p core).down.isSome || (s.fwCore p core).halted

/-- Work of a port that core `core` does now, or that waits until the core runs again (R455). -/
def byCore (p : Part) (core port : Nat) (w : FwWork) (f : State → State) (s : State) : State :=
  if coreDown p core s then s.modCore p (fun c => { c with held := c.held ++ [{ core := core, port := port, work := w }] }) else f s

/-! ## Completion rings (R440, R443, R444) -/

/-- READ of a channel's completion ring, as its consumer last wrote it. -/
def Chan.cplRead (c : Chan) (p : Part) (s : State) : Nat := leNat (s.rd p (c.cplBase + 8) 4)

/-- Slots that a record of `n` slots takes now, a PAD before the ring's end included. -/
def Chan.need (c : Chan) (n : Nat) : Nat :=
  let left := c.cplSize - c.cplWrite % c.cplSize
  if n ≤ left then n else left + n

/-- Whether the completion ring has room for `n` slots. -/
def Chan.room (c : Chan) (p : Part) (n : Nat) (s : State) : Bool :=
  let used := (c.cplWrite + 2 ^ 32 - c.cplRead p s) % 2 ^ 32
  used + c.need n ≤ c.cplSize

/-- Writes a record of whole slots into a ring that has room and advances WRITE. -/
def ringWrite (p : Part) (ch : Nat) (rec : Bytes) (irq : Bool) (s : State) : State :=
  let c := s.chan p ch
  let n := rec.length / 64
  let at_ := c.cplWrite % c.cplSize
  let left := c.cplSize - at_
  let base := c.cplBase + 64
  let s := if n ≤ left then s.wr p (base + 64 * at_) rec
    else (s.wr p (base + 64 * at_) (padTo 64 (lay [(4, 0), (4, left)]))).wr p base rec
  let w := (c.cplWrite + c.need n) % 2 ^ 32
  let s := (s.wr p c.cplBase (le 4 w)).modChan p ch (fun c => { c with cplWrite := w })
  if irq then s.setEv p (ringIrqOff p ch) (match p with | .spn => ch | .crl => ch % 32) else s

/-- A channel whose completion ring lacks room, since TICK `now` where the episode begins (R444). -/
def Chan.noRoom (now : Nat) (c : Chan) : Chan := if c.full then c else { c with full := true, fullAt := now }

/-- Puts a record away that the ring cannot take: in the channel's store of 256, or counted as lost (R444). -/
def storeRec (p : Part) (ch : Nat) (rec : Bytes) (irq : Bool) (s : State) : State :=
  s.modChan p ch (fun c =>
    let c := c.noRoom (s.tick p)
    if c.store.length < 256 then { c with store := c.store ++ [(rec, irq)] }
    else { c with lost := c.lost + 1, lostType := min c.lostType (rdLe rec 0 1) })

/-- Puts a record on a channel. The flag says that a RING_FULL episode began. -/
def putRec (p : Part) (ch : Nat) (rec : Bytes) (irq : Bool) (s : State) : State × Bool :=
  let c := s.chan p ch
  if c.isOpen && !c.full && c.room p (rec.length / 64) s then (ringWrite p ch rec irq s, false)
  else (storeRec p ch rec irq s, !c.full)

/-- An error code's record may be posted: none was within the last ms (R535). -/
def errDue (e : ErrSlot) (now : Nat) : Bool :=
  match e.last with
  | none => true
  | some l => decide (l + 1_000_000 ≤ now)

/-- Notes an error code's reporting and that `n` ERROR records more have been made. -/
def setErr (p : Part) (code : Nat) (e : ErrSlot) (n : Nat) (s : State) : State :=
  s.modCore p (fun c => { c with errs := tset {} c.errs code e, errSeq := c.errSeq + n })

/-- Counts a raising of an error and, at most once per code and ms, posts its ERROR record on channel 0 (R535). -/
def errorRec (p : Part) (code part : Nat) (detail : Bytes) (s : State) : State × Bool :=
  let now := s.tick p
  let st := s.stampOf p part
  let e := tget {} (s.core p).errs code
  let e := if e.count = 0 then { e with first := st.1, dtcv := st.2 } else e
  if errDue e now then
    let rec_ := lay [(1, 0x73), (1, 0), (2, code), (4, s.hea p), (8, e.first), (4, e.count + 1), (4, part)]
      ++ padTo 32 detail ++ lay [(3, 0), (1, bitAt e.dtcv 0), (4, (s.core p).errSeq)]
    putRec p 0 rec_ true (setErr p code { last := some now } 1 s)
  else (setErr p code { e with count := e.count + 1 } 0 s, false)

/-- RING_FULL, once per episode: the event bit and the error, which itself may find channel 0 full (R444). -/
def ringFull (p : Part) (ch : Nat) (s : State) : State :=
  let r := errorRec p 0x1B03 0 (le 8 ch) (s.setEv p (fwEvents p) 3)
  if r.2 then (errorRec p 0x1B03 0 (le 8 0) r.1).1 else r.1

/-- Raises an error of R536. `detail` are the names the raising rule gives, 8 bytes each, or 4 where there are more than four (log entry 14). -/
def State.raise (p : Part) (code part : Nat) (detail : List Nat) (s : State) : State :=
  let r := errorRec p code part (detail.flatMap (le (if detail.length ≤ 4 then 8 else 4))) s
  if r.2 then ringFull p 0 r.1 else r.1

/-- Posts a record, or a completion with NOTIFY where `irq`, on a channel, filled to whole slots (R443). -/
def postOn (p : Part) (ch : Nat) (rec : Bytes) (irq : Bool) (s : State) : State :=
  let n := ceilDiv rec.length 64
  let c := s.chan p ch
  if c.isOpen && c.cplSize < n then (s.setEv p (fwEvents p) 4).raise p 0x1B04 0 [ch]
  else
    let r := putRec p ch (padTo (64 * n) rec) irq s
    if r.2 then ringFull p ch r.1 else r.1

/-- Posts a record other than a completion. -/
def State.post (p : Part) (ch : Nat) (rec : Bytes) (s : State) : State := postOn p ch rec true s

/-- Whether a channel's ring would take a record of `n` bytes now. -/
def State.canPost (p : Part) (ch n : Nat) (s : State) : Bool :=
  let c := s.chan p ch
  c.isOpen && !c.full && c.room p (ceilDiv n 64) s

/-! ## Host commands (R442 to R447) -/

/-- A refusal: status and detail. -/
abbrev Refuse := Nat × Nat

/-- `INVALID_FIELD` naming a structure and a byte offset (R10, R473). -/
def invalidField (structure_ off : Nat) : Refuse := (0x0101, structure_ + 256 * off)
/-- `WRONG_TARGET` (R464). -/
def wrongTarget : Refuse := (0x0105, 0)

/-- The dispatched entry that a request is, if the ring engine has dispatched it. -/
def State.inflightOf (p : Part) (q : Req) (s : State) : Option Inflight :=
  (s.core p).inflight.find? (fun i => i.via = q.via && i.seq = q.seq)

/-- The payload a command is judged by: the one dispatched, or the row's own (log entry 12). -/
def State.payload (p : Part) (q : Req) (code : Nat) (pl : Bytes) (s : State) : Bytes :=
  match s.inflightOf p q with
  | some i => if i.code = code then i.payload else pl
  | none => pl

/-- The TICK count that a completion of a core carries, no two of one core the same (R466). -/
def acceptTick (p : Part) (core : Nat) (s : State) : Nat × State :=
  let acc := max (s.tick p) (tget 0 (s.core p).lastTick core)
  (acc, s.modCore p (fun c => { c with lastTick := tset 0 c.lastTick core (acc + 1) }))

/-- The owning core takes a command: it stands in flight with its acceptance TICK; no two of one core share a TICK
(R445, R466). -/
def takeCmd (p : Part) (q : Req) (code core : Nat) (pl : Bytes) (s : State) : State :=
  let a := acceptTick p core s
  a.2.modCore p (fun c =>
    let acc := a.1
    let i : Inflight := { via := q.via, seq := q.seq, key := q.key, code := code, core := core, relaxed := q.relaxed,
                          notify := q.notify, payload := pl, acc := acc, taken := true,
                          posted := (c.inflight.find? (fun j => j.via = q.via && j.seq = q.seq)).bind (·.posted) }
    { c with inflight := c.inflight.filter (fun j => !(j.via = q.via && j.seq = q.seq)) ++ [i] })

/-- A completion entry (R442). -/
def completion (q : Req) (code core acc status detail : Nat) (result : Bytes) : Bytes :=
  lay [(1, 0x70), (1, bitAt q.relaxed 1), (2, status), (4, q.seq), (8, q.key), (2, code), (2, core), (4, detail), (8, acc)]
    ++ padTo 32 result

/-- Writes a completion where its command came from: the channel's ring, or the mailbox reply (R439, R484). -/
def putCompletion (p : Part) (q : Req) (entry : Bytes) (s : State) : State :=
  match q.via with
  | .ring ch => postOn p ch entry q.notify s
  | .mbox core => (s.modMbox p core (fun m => { m with reply := entry, busy := false, rdy := true })).noteEv p (mbFlagsOff p core) 2

/-- The statuses of a command that reached its commit point (R446, R447). -/
def committedStatus (status : Nat) : Bool := status = 0 || status = 3 || status = 5 || status = 6

/-- Completes a command: its entry leaves flight, its completion is written and, if it committed, its key is
remembered among the channel's last 1,024 (R446, R447). -/
def complete (p : Part) (q : Req) (code core status detail : Nat) (result : Bytes) (s : State) : State :=
  let a := match (s.inflightOf p q).filter (·.taken) with
    | some i => (i.acc, s)
    | none => acceptTick p core s
  let s := a.2
  let entry := completion q code core a.1 status detail result
  let s := s.modCore p (fun c => { c with inflight := c.inflight.filter (fun j => !(j.via = q.via && j.seq = q.seq)) })
  let s := match q.via with
    | .ring ch =>
      if committedStatus status then
        s.modChan p ch (fun c => { c with recent := (c.recent ++ [(q.key, code, entry)]).drop (c.recent.length + 1 - 1024) })
      else s
    | .mbox _ => s
  putCompletion p q entry s

/-- What a command does once accepted: a new state, with the status, detail and result to complete with at once, or
none where it completes later. -/
abbrev Effect := State × Option (Nat × Nat × Bytes)

/-- Completed at once with `OK` and a result. -/
def okWith (s : State) (result : Bytes := []) : Effect := (s, some (0, 0, result))
/-- Accepted; the completion follows. -/
def later (s : State) : Effect := (s, none)

/-- The restart time left in µs, the detail of a refusal (R456); free for a halted core, which nothing bounds (log entry 54). -/
def downLeft (p : Part) (core : Nat) (s : State) : Nat × State :=
  match (s.fwCore p core).down with
  | some t => (ceilDiv (t - s.tick p) 1000, s)
  | none => let d := s.draw; (d.1 % 2 ^ 32, d.2)

/-- Delivery bound of a command in ns, from its doorbell (R3, R465); none where it is bounded by its slices or by another event. -/
def boundOf (code : Nat) : Option Nat :=
  match code with
  | 0x0003 | 0x0004 | 0x0007 | 0x000A | 0x000B | 0x0203 | 0x0300 | 0x0301 | 0x0308 | 0x0401 | 0x0404 | 0x0406 | 0x0606 | 0x0701 => none
  | 0x0304 | 0x0305 | 0x0403 => some 5_000
  | 0x0006 => some 3_100_000
  | 0x000C | 0x0309 => some 3_000_000
  | 0x0100 | 0x0101 => some 1_100_000
  | _ => some 100_000

/-- Nanoseconds in which, since TICK `t`, the completion ring of a command's channel has lacked room in an episode that still lasts;
episodes that are over have moved the doorbell's TICK on (R444). -/
def noRoomSince (p : Part) (t : Nat) (s : State) : Via → Nat
  | .ring ch => if (s.chan p ch).full then s.tick p - max t (s.chan p ch).fullAt else 0
  | .mbox _ => 0

/-- Nanoseconds by which a command misses its bound: those that have passed since its doorbell, in which it waited for the earlier
commands that it must follow, above the bound (R445; log entry 75). -/
def missedBy (p : Part) (q : Req) (code : Nat) (s : State) : Nat :=
  match (s.inflightOf p q).bind (·.posted), boundOf code with
  | some t, some b => s.tick p - (t + b + noRoomSince p t s q.via)
  | _, _ => 0

/-- A judgement that would accept a command refuses it with `REFUSED_LATE` where its bound can no longer be met (R2, R445). -/
def inTime (p : Part) (q : Req) (code : Nat) (s : State) (v : Except Refuse (State → Effect)) : Except Refuse (State → Effect) :=
  match v with
  | .error r => .error r
  | .ok f => if missedBy p q code s = 0 then .ok f else .error (0x0100, missedBy p q code s)

/-- A host command from its acceptance on: the core takes it, unless it restarts (R456); a refusal completes it and changes
nothing else; an acceptance has its effect and completes (R445). -/
def runCmd (p : Part) (q : Req) (code core : Nat) (pl : Bytes)
    (judge : State → Bytes → Except Refuse (State → Effect)) (s : State) : State :=
  let pl := s.payload p q code pl
  let s := takeCmd p q code core pl s
  if coreDown p core s then
    let d := downLeft p core s
    complete p q code core 0x0100 d.1 [] d.2
  else
    match inTime p q code s (judge s pl) with
    | .error r => complete p q code core r.1 r.2 [] s
    | .ok f =>
      let r := f s
      match r.2 with
      | none => r.1
      | some (st, det, res) => complete p q code core st det res r.1

/-- The first payload byte outside a layout's bytes that is not zero (R462, R10). `lens` lists the layout's byte
ranges (offset, length); the payload ends at its last byte rounded up to a multiple of 8. -/
def strayByte (ranges : List (Nat × Nat)) (pl : Bytes) : Option Nat :=
  (pl.zipIdx.find? (fun e => e.1 ≠ 0 && !(ranges.any (fun r => r.1 ≤ e.2 && e.2 < r.1 + r.2)))).map (·.2)

/-- `INVALID_FIELD` at payload byte `off` unless `b`. -/
def field (b : Bool) (off : Nat) : Except Refuse Unit := guardE b (invalidField 2 off)

/-- Features in use: the AND of the host's and the part's bitmaps, the part's own before `MGMT_HELLO` (R454). -/
def State.featureOn (p : Part) (bit : Nat) (s : State) : Bool :=
  let f := (s.core p).fw
  (f.inUse.getD f.features).testBit bit

/-- The field checks of a payload (R10, R445): `INVALID_FIELD` at the first offending byte, be it a reserved byte that is not
zero or a field whose check fails. -/
def checkPl (ranges : List (Nat × Nat)) (fields : List (Nat × Bool)) (pl : Bytes) : Except Refuse Unit :=
  match ((fields.filter (fun f => !f.2)).map (·.1) ++ (strayByte ranges pl).toList).min? with
  | some o => .error (invalidField 2 o)
  | none => .ok ()

/-! ## What every command ends with -/

/-- A command's `(via, seq)` is still in flight. -/
def State.inFlight (p : Part) (e : Via × Nat) (s : State) : Bool := (s.core p).inflight.any (fun i => i.via = e.1 && i.seq = e.2)

/-- A channel has no command left but those that wait to close it, and no entry to fetch. -/
def State.chanIdle (p : Part) (ch : Nat) (s : State) : Bool :=
  (s.core p).inflight.all (fun i => i.via ≠ .ring ch || i.code = 0x0003) && (s.chan p ch).cmdRead = (s.chan p ch).cmdWrite

/-- Whether what a waiting command waits for is over. -/
def Waiting.ready (p : Part) (w : Waiting) (s : State) : Bool :=
  w.on.all (fun e => !s.inFlight p e) && (match w.close with
    | some ch => s.chanIdle p ch
    | none => true)

/-- A channel is closed: its rings are forgotten, its records wait as for a full ring (R441, R444). -/
def closeChan (p : Part) (ch : Nat) (s : State) : State :=
  s.modChan p ch (fun c => { store := c.store, lost := c.lost, lostType := c.lostType, full := c.full, fullAt := c.fullAt })

/-- Completes the waiting commands whose wait is over, at most `n` of them one after another. -/
def flushWaiting (p : Part) : Nat → State → State
  | 0, s => s
  | n + 1, s =>
    match (s.core p).waiting.find? (fun w => w.ready p s) with
    | none => s
    | some w =>
      let s := s.modCore p (fun c => { c with waiting := c.waiting.filter (fun v => !(v.q.via = w.q.via && v.q.seq = w.q.seq)) })
      let s := complete p w.q w.code w.core 0 0 [] s
      let s := match w.close with
        | some ch => closeChan p ch s
        | none => s
      flushWaiting p n s

/-- Channel 0 closes once its commands have completed (R485). -/
def flushClosing (p : Part) (s : State) : State :=
  if (s.chan p 0).closing && s.chanIdle p 0 then closeChan p 0 s else s

/-- The waits of both parts that this command ended. -/
def flushAll (s : State) : State :=
  let s := flushClosing .spn (flushWaiting .spn s.sc.waiting.length s)
  flushClosing .crl (flushWaiting .crl s.cc.waiting.length s)

/-- A change of SEC_STAT.POWER and its event (R482, R517). -/
def setPower (p : Part) (v : Nat) (s : State) : State :=
  if (s.core p).sec.power = v then s
  else (s.modCore p (fun c => { c with sec := { c.sec with power := v } })).setEv p (secEvents p) 2

/-- Whether a part has nothing for which its work domains must be clocked (R516). -/
def State.workless (p : Part) (s : State) : Bool :=
  match p with
  | .spn => s.spn.clocks.regions.all (fun e => !e.2.present || e.2.gated) && s.spn.launch.clusters.all (fun e => !e.2.running)
      && s.spn.sync.ports.all (fun e => !e.2.awake && !e.2.early)
  | .crl => s.crl.epochs.isEmpty && s.crl.ply.trees.isEmpty && s.cc.topo.powerKids.isEmpty

/-- Notes since when a part is workless, and leaves NAP when it is so no more (R516). -/
def notePower (p : Part) (s : State) : State :=
  let idle := s.workless p
  let s := s.modCore p (fun c => { c with sec := { c.sec with
    gateTick := if idle then c.sec.gateTick.orElse (fun _ => some c.time.tick) else none } })
  if !idle && (s.core p).sec.power = 1 then setPower p 0 s else s

/-- The outcome of a command that leaves `s'`: waits that it ended complete, power states follow, and interrupts are sent. -/
def done (s s' : State) : Out := .next (settle s (notePower .crl (notePower .spn (flushAll s'))))

/-- A command whose unit operands must name units the part has: its effect, or the fault. -/
def run (ok : Bool) (f : State → State) (s : State) : Out := if ok then done s (f s) else .fault .noSuchUnit

/-! ## The frequency table (R216) -/

/-- CFG_DENIED (R233). -/
def cfgDenied (s : State) : State := s.setEv .spn 0x0A04 7

/-- Strictly increasing. -/
def rising : List Nat → Bool
  | a :: b :: l => decide (a < b) && rising (b :: l)
  | _ => true

/-- A table that R216 allows. -/
def ftabOk (t : List Nat) : Bool := rising t && 1000 ≤ t.getD 0 0 && t.getD 15 0 ≤ 2600

end Sys2Proof.Machine
end

