-- ==== Sys2Proof/Machine/Crypto.lean ====
section
/-! DEFINITION. The algorithms the manual names by standard: SHA-384 and HKDF, AES-256 and GMAC, the CRC-16 and the
Reed-Solomon code of the thread link. -/

namespace Sys2Proof.Machine

/-! ## SHA-384 (FIPS 180-4) and HKDF (RFC 5869) -/

/-- Round constants: fractional parts of the cube roots of the first 80 primes. -/
def shaK : List (BitVec 64) :=
  [0x428A2F98D728AE22, 0x7137449123EF65CD, 0xB5C0FBCFEC4D3B2F, 0xE9B5DBA58189DBBC] ++
  [0x3956C25BF348B538, 0x59F111F1B605D019, 0x923F82A4AF194F9B, 0xAB1C5ED5DA6D8118] ++
  [0xD807AA98A3030242, 0x12835B0145706FBE, 0x243185BE4EE4B28C, 0x550C7DC3D5FFB4E2] ++
  [0x72BE5D74F27B896F, 0x80DEB1FE3B1696B1, 0x9BDC06A725C71235, 0xC19BF174CF692694] ++
  [0xE49B69C19EF14AD2, 0xEFBE4786384F25E3, 0x0FC19DC68B8CD5B5, 0x240CA1CC77AC9C65] ++
  [0x2DE92C6F592B0275, 0x4A7484AA6EA6E483, 0x5CB0A9DCBD41FBD4, 0x76F988DA831153B5] ++
  [0x983E5152EE66DFAB, 0xA831C66D2DB43210, 0xB00327C898FB213F, 0xBF597FC7BEEF0EE4] ++
  [0xC6E00BF33DA88FC2, 0xD5A79147930AA725, 0x06CA6351E003826F, 0x142929670A0E6E70] ++
  [0x27B70A8546D22FFC, 0x2E1B21385C26C926, 0x4D2C6DFC5AC42AED, 0x53380D139D95B3DF] ++
  [0x650A73548BAF63DE, 0x766A0ABB3C77B2A8, 0x81C2C92E47EDAEE6, 0x92722C851482353B] ++
  [0xA2BFE8A14CF10364, 0xA81A664BBC423001, 0xC24B8B70D0F89791, 0xC76C51A30654BE30] ++
  [0xD192E819D6EF5218, 0xD69906245565A910, 0xF40E35855771202A, 0x106AA07032BBD1B8] ++
  [0x19A4C116B8D2D0C8, 0x1E376C085141AB53, 0x2748774CDF8EEB99, 0x34B0BCB5E19B48A8] ++
  [0x391C0CB3C5C95A63, 0x4ED8AA4AE3418ACB, 0x5B9CCA4F7763E373, 0x682E6FF3D6B2B8A3] ++
  [0x748F82EE5DEFB2FC, 0x78A5636F43172F60, 0x84C87814A1F0AB72, 0x8CC702081A6439EC] ++
  [0x90BEFFFA23631E28, 0xA4506CEBDE82BDE9, 0xBEF9A3F7B2C67915, 0xC67178F2E372532B] ++
  [0xCA273ECEEA26619C, 0xD186B8C721C0C207, 0xEADA7DD6CDE0EB1E, 0xF57D4F7FEE6ED178] ++
  [0x06F067AA72176FBA, 0x0A637DC5A2C898A6, 0x113F9804BEF90DAE, 0x1B710B35131C471B] ++
  [0x28DB77F523047D84, 0x32CAAB7B40C72493, 0x3C9EBE0A15C9BEBC, 0x431D67C49C100D4C] ++
  [0x4CC5D4BECB3E42B6, 0x597F299CFC657E2A, 0x5FCB6FAB3AD6FAEC, 0x6C44198C4A475817]

/-- Initial hash value of SHA-384. -/
def shaInit : List (BitVec 64) :=
  [0xCBBB9D5DC1059ED8, 0x629A292A367CD507, 0x9159015A3070DD17, 0x152FECD8F70E5939] ++
  [0x67332667FFC00B31, 0x8EB44A8768581511, 0xDB0C2E0D64F98FA7, 0x47B5481DBEFA4FA4]

/-- A round's working state a to h and the 16 schedule words from the round's own on. -/
structure ShaRound where
  a : BitVec 64
  b : BitVec 64
  c : BitVec 64
  d : BitVec 64
  e : BitVec 64
  f : BitVec 64
  g : BitVec 64
  h : BitVec 64
  w : List (BitVec 64)
deriving DecidableEq, Repr

/-- One round, and the schedule moved on by a word. -/
def shaStep (r : ShaRound) (k : BitVec 64) : ShaRound :=
  let w0 := r.w.getD 0 0
  let s0 := fun (x : BitVec 64) => x.rotateRight 1 ^^^ x.rotateRight 8 ^^^ (x >>> 7)
  let s1 := fun (x : BitVec 64) => x.rotateRight 19 ^^^ x.rotateRight 61 ^^^ (x >>> 6)
  let wn := s1 (r.w.getD 14 0) + r.w.getD 9 0 + s0 (r.w.getD 1 0) + w0
  let t1 := r.h + (r.e.rotateRight 14 ^^^ r.e.rotateRight 18 ^^^ r.e.rotateRight 41)
    + ((r.e &&& r.f) ^^^ (~~~r.e &&& r.g)) + k + w0
  let t2 := (r.a.rotateRight 28 ^^^ r.a.rotateRight 34 ^^^ r.a.rotateRight 39)
    + ((r.a &&& r.b) ^^^ (r.a &&& r.c) ^^^ (r.b &&& r.c))
  { a := t1 + t2, b := r.a, c := r.b, d := r.c, e := r.d + t1, f := r.e, g := r.f, h := r.g, w := r.w.drop 1 ++ [wn] }

/-- A number's `n` bytes, most significant first. -/
def be (n v : Nat) : Bytes := (le n v).reverse
/-- The number a byte string spells, first byte most significant. -/
def beNat (b : Bytes) : Nat := leNat b.reverse

/-- The 64-bit words of a block. -/
def shaWords : Nat → Bytes → List (BitVec 64)
  | 0, _ => []
  | n + 1, b => BitVec.ofNat 64 (beNat (b.take 8)) :: shaWords n (b.drop 8)

/-- Compresses one 128-byte block. -/
def shaBlock (h : List (BitVec 64)) (b : Bytes) : List (BitVec 64) :=
  let x := fun i => h.getD i 0
  let r := shaK.foldl shaStep
    { a := x 0, b := x 1, c := x 2, d := x 3, e := x 4, f := x 5, g := x 6, h := x 7, w := shaWords 16 b }
  [x 0 + r.a, x 1 + r.b, x 2 + r.c, x 3 + r.d, x 4 + r.e, x 5 + r.f, x 6 + r.g, x 7 + r.h]

/-- Compresses `n` blocks. -/
def shaBlocks : Nat → List (BitVec 64) → Bytes → List (BitVec 64)
  | 0, h, _ => h
  | n + 1, h, b => shaBlocks n (shaBlock h (b.take 128)) (b.drop 128)

/-- The SHA-384 digest, 48 bytes. -/
def sha384 (m : Bytes) : Bytes :=
  let n := (m.length + 17 + 127) / 128
  let padded := m ++ [0x80] ++ List.replicate (128 * n - m.length - 17) 0 ++ be 16 (8 * m.length)
  ((shaBlocks n shaInit padded).flatMap (fun w => be 8 w.toNat)).take 48

/-- HMAC-SHA-384. -/
def hmac384 (key m : Bytes) : Bytes :=
  let k := padTo 128 (if key.length ≤ 128 then key else sha384 key)
  sha384 (k.map (· ^^^ 0x5C) ++ sha384 (k.map (· ^^^ 0x36) ++ m))

/-- HKDF-Extract. -/
def hkdfExtract (salt ikm : Bytes) : Bytes := hmac384 salt ikm

/-- Rounds of HKDF-Expand. -/
def hkdfRounds (prk info : Bytes) : Nat → Nat → Bytes → Bytes
  | 0, _, _ => []
  | n + 1, i, t =>
    let t' := hmac384 prk (t ++ info ++ [BitVec.ofNat 8 i])
    t' ++ hkdfRounds prk info n (i + 1) t'

/-- HKDF-Expand to `n` bytes. -/
def hkdfExpand (prk info : Bytes) (n : Nat) : Bytes := (hkdfRounds prk info ((n + 47) / 48) 1 []).take n

/-! ## AES-256 (FIPS 197) and GMAC (SP 800-38D) -/

/-- The S-box. -/
def aesSbox : List (BitVec 8) :=
  [0x63, 0x7C, 0x77, 0x7B, 0xF2, 0x6B, 0x6F, 0xC5, 0x30, 0x01, 0x67, 0x2B, 0xFE, 0xD7, 0xAB, 0x76] ++
  [0xCA, 0x82, 0xC9, 0x7D, 0xFA, 0x59, 0x47, 0xF0, 0xAD, 0xD4, 0xA2, 0xAF, 0x9C, 0xA4, 0x72, 0xC0] ++
  [0xB7, 0xFD, 0x93, 0x26, 0x36, 0x3F, 0xF7, 0xCC, 0x34, 0xA5, 0xE5, 0xF1, 0x71, 0xD8, 0x31, 0x15] ++
  [0x04, 0xC7, 0x23, 0xC3, 0x18, 0x96, 0x05, 0x9A, 0x07, 0x12, 0x80, 0xE2, 0xEB, 0x27, 0xB2, 0x75] ++
  [0x09, 0x83, 0x2C, 0x1A, 0x1B, 0x6E, 0x5A, 0xA0, 0x52, 0x3B, 0xD6, 0xB3, 0x29, 0xE3, 0x2F, 0x84] ++
  [0x53, 0xD1, 0x00, 0xED, 0x20, 0xFC, 0xB1, 0x5B, 0x6A, 0xCB, 0xBE, 0x39, 0x4A, 0x4C, 0x58, 0xCF] ++
  [0xD0, 0xEF, 0xAA, 0xFB, 0x43, 0x4D, 0x33, 0x85, 0x45, 0xF9, 0x02, 0x7F, 0x50, 0x3C, 0x9F, 0xA8] ++
  [0x51, 0xA3, 0x40, 0x8F, 0x92, 0x9D, 0x38, 0xF5, 0xBC, 0xB6, 0xDA, 0x21, 0x10, 0xFF, 0xF3, 0xD2] ++
  [0xCD, 0x0C, 0x13, 0xEC, 0x5F, 0x97, 0x44, 0x17, 0xC4, 0xA7, 0x7E, 0x3D, 0x64, 0x5D, 0x19, 0x73] ++
  [0x60, 0x81, 0x4F, 0xDC, 0x22, 0x2A, 0x90, 0x88, 0x46, 0xEE, 0xB8, 0x14, 0xDE, 0x5E, 0x0B, 0xDB] ++
  [0xE0, 0x32, 0x3A, 0x0A, 0x49, 0x06, 0x24, 0x5C, 0xC2, 0xD3, 0xAC, 0x62, 0x91, 0x95, 0xE4, 0x79] ++
  [0xE7, 0xC8, 0x37, 0x6D, 0x8D, 0xD5, 0x4E, 0xA9, 0x6C, 0x56, 0xF4, 0xEA, 0x65, 0x7A, 0xAE, 0x08] ++
  [0xBA, 0x78, 0x25, 0x2E, 0x1C, 0xA6, 0xB4, 0xC6, 0xE8, 0xDD, 0x74, 0x1F, 0x4B, 0xBD, 0x8B, 0x8A] ++
  [0x70, 0x3E, 0xB5, 0x66, 0x48, 0x03, 0xF6, 0x0E, 0x61, 0x35, 0x57, 0xB9, 0x86, 0xC1, 0x1D, 0x9E] ++
  [0xE1, 0xF8, 0x98, 0x11, 0x69, 0xD9, 0x8E, 0x94, 0x9B, 0x1E, 0x87, 0xE9, 0xCE, 0x55, 0x28, 0xDF] ++
  [0x8C, 0xA1, 0x89, 0x0D, 0xBF, 0xE6, 0x42, 0x68, 0x41, 0x99, 0x2D, 0x0F, 0xB0, 0x54, 0xBB, 0x16]

def aesSub (b : BitVec 8) : BitVec 8 := aesSbox.getD b.toNat 0

/-- Multiplication by x in the field of AES. -/
def aesXtime (b : BitVec 8) : BitVec 8 := (b <<< 1) ^^^ (if b.getLsbD 7 then 0x1B else 0)

def xorB (a b : Bytes) : Bytes := List.zipWith (· ^^^ ·) a b

/-- Expands the key: `n` further groups of 4 bytes; `ks` holds the last 8 groups, `i` numbers the next. -/
def aesExpand : Nat → Nat → BitVec 8 → List Bytes → List Bytes
  | 0, _, _, _ => []
  | n + 1, i, rc, ks =>
    let t := ks.getD 7 []
    let t' := if i % 8 = 0 then xorB ((t.drop 1 ++ t.take 1).map aesSub) [rc, 0, 0, 0]
      else if i % 8 = 4 then t.map aesSub else t
    let w := xorB (ks.getD 0 []) t'
    w :: aesExpand n (i + 1) (if i % 8 = 0 then aesXtime rc else rc) (ks.drop 1 ++ [w])

/-- A byte string cut into `n` pieces of `k`. -/
def pieces (k : Nat) : Nat → Bytes → List Bytes
  | 0, _ => []
  | n + 1, b => b.take k :: pieces k n (b.drop k)

/-- The 15 round keys of 16 bytes. -/
def aesKeys (key : Bytes) : List Bytes :=
  let ws := pieces 4 8 (padTo 32 key)
  pieces 16 15 (ws ++ aesExpand 52 8 1 ws).flatten

def aesShiftRows (s : Bytes) : Bytes :=
  (List.range 16).map (fun i => s.getD ((i + 4 * (i % 4)) % 16) 0)

def aesMixCol : Bytes → Bytes
  | [a, b, c, d] =>
    let m2 := aesXtime
    let m3 := fun x => aesXtime x ^^^ x
    [m2 a ^^^ m3 b ^^^ c ^^^ d, a ^^^ m2 b ^^^ m3 c ^^^ d, a ^^^ b ^^^ m2 c ^^^ m3 d, m3 a ^^^ b ^^^ c ^^^ m2 d]
  | x => x

/-- AES-256 encryption of one 16-byte block. -/
def aes256 (key blk : Bytes) : Bytes :=
  let ks := aesKeys key
  let s := xorB blk (ks.getD 0 [])
  let s := ((ks.drop 1).take 13).foldl
    (fun s k => xorB ((pieces 4 4 (aesShiftRows (s.map aesSub))).flatMap aesMixCol) k) s
  xorB (aesShiftRows (s.map aesSub)) (ks.getD 14 [])

/-- Multiplication in the field of GCM, numbers with their first bit most significant. -/
def gcmMul : Nat → Nat → Nat → Nat → Nat
  | 0, _, _, z => z
  | n + 1, x, v, z =>
    let z := if x.testBit n then z ^^^ v else z
    let v := if v.testBit 0 then (v / 2) ^^^ 0xE1000000000000000000000000000000 else v / 2
    gcmMul n x v z

/-- GHASH over 16-byte blocks. -/
def ghash (h : Nat) : Nat → Bytes → Nat → Nat
  | 0, _, y => y
  | n + 1, b, y => ghash h n (b.drop 16) (gcmMul 128 (y ^^^ beNat (padTo 16 (b.take 16))) h 0)

/-- The first 8 bytes of the GMAC tag of additional data `aad` (R60). -/
def gmac8 (key nonce aad : Bytes) : Bytes :=
  let h := beNat (aes256 key (List.replicate 16 0))
  let n := (aad.length + 15) / 16
  let y := ghash h 1 (be 8 (8 * aad.length) ++ be 8 0) (ghash h n aad 0)
  (xorB (be 16 y) (aes256 key (nonce ++ [0, 0, 0, 1]))).take 8

/-! ## CRC-16 (R59) -/

/-- `n` bits of a byte into the CRC, most significant first. -/
def crcBits : Nat → BitVec 8 → BitVec 16 → BitVec 16
  | 0, _, c => c
  | n + 1, b, c =>
    let top := (c.getLsbD 15).xor (b.getLsbD n)
    crcBits n b ((c <<< 1) ^^^ (if top then 0x1021 else 0))

/-- CRC-16: polynomial 0x1021, initial value 0xFFFF, no reflection, no final XOR. -/
def crc16 (m : Bytes) : BitVec 16 := m.foldl (fun c b => crcBits 8 b c) 0xFFFF

/-! ## RS(80,74) (R52) -/

/-- Multiplication in GF(2^8) with x^8 + x^4 + x^3 + x^2 + 1. -/
def gfMulGo : Nat → Nat → Nat → Nat → Nat
  | 0, _, _, z => z
  | n + 1, a, b, z =>
    let z := if b.testBit 0 then z ^^^ a else z
    let a := if a.testBit 7 then (2 * a) ^^^ 0x11D else 2 * a
    gfMulGo n a (b / 2) z

def gfMul (a b : Nat) : Nat := gfMulGo 8 a b 0

/-- `a` to the power `n` in GF(2^8). -/
def gfPow (a : Nat) : Nat → Nat
  | 0 => 1
  | n + 1 => gfMul a (gfPow a n)

/-- The inverse in GF(2^8). -/
def gfInv (a : Nat) : Nat := gfPow a 254

/-- Coefficients below the leading one of g(x) = (x − 1)(x − α)…(x − α^5), highest degree first. -/
def rsGen : List Nat :=
  (List.range 6).foldl (fun g i =>
    let r := gfPow 2 i
    List.zipWith (· ^^^ ·) (g ++ [0]) (0 :: g.map (gfMul r))) [1] |>.drop 1

/-- The 6 parity bytes of a block's 74 data bytes, coefficient of highest degree first (R52). -/
def rsParity (data : Bytes) : Bytes :=
  (data.foldl (fun reg b =>
    let f := reg.getD 0 0 ^^^ b.toNat
    List.zipWith (fun x g => x ^^^ gfMul f g) (reg.drop 1 ++ [0]) rsGen) (List.replicate 6 0)).map (BitVec.ofNat 8)

/-- The syndrome at α^j: the block as a polynomial at that point. -/
def rsSyndrome (blk : Bytes) (j : Nat) : Nat := blk.foldl (fun a b => gfMul a (gfPow 2 j) ^^^ b.toNat) 0

/-- Solves a linear system in `n` unknowns over GF(2^8), rows with their right side last; none if singular. -/
def gfSolve : Nat → List (List Nat) → Option (List Nat)
  | 0, _ => some []
  | n + 1, rows => do
    let p ← rows.find? (fun r => r.headD 0 ≠ 0)
    let k := gfInv (p.headD 0)
    let p := p.map (gfMul k)
    let rest := (rows.erase (p.map (gfMul (gfInv k)))).map (fun r =>
      (List.zipWith (fun x y => x ^^^ gfMul (r.headD 0) y) r p).drop 1)
    let xs ← gfSolve n rest
    let p' := p.drop 1
    let v := (List.zipWith gfMul p' xs).foldl (· ^^^ ·) (p'.getLastD 0)
    some (v :: xs)

/-- Tries to read the syndromes as those of `v` byte errors: positions (byte index) and values. -/
def rsTry (syn : List Nat) (v : Nat) : Option (List (Nat × Nat)) := do
  let s := fun i => syn.getD i 0
  let loc ← gfSolve v ((List.range v).map (fun j => (List.range v).map (fun k => s (j + v - 1 - k)) ++ [s (j + v)]))
  let roots := (List.range 80).filter (fun d =>
    let x := gfPow 2 d
    (loc.foldl (fun a c => gfMul a x ^^^ c) 1) = 0)
  if roots.length ≠ v then none
  else
    let xs := roots.map (gfPow 2)
    let vals ← gfSolve v ((List.range v).map (fun j => xs.map (fun x => gfPow x j) ++ [s j]))
    let ok := (List.range 6).all (fun j =>
      (List.zipWith (fun x e => gfMul (gfPow x j) e) xs vals).foldl (· ^^^ ·) 0 = s j)
    if ok && vals.all (· ≠ 0) then some (List.zip (roots.map (79 - ·)) vals) else none

/-- FEC decoding: the block with at most 3 byte errors corrected and how many there were; none beyond correction. -/
def rsDecode (blk : Bytes) : Option (Bytes × Nat) :=
  let syn := (List.range 6).map (rsSyndrome blk)
  if syn.all (· = 0) then some (blk, 0)
  else
    match (rsTry syn 1).orElse (fun _ => (rsTry syn 2).orElse (fun _ => rsTry syn 3)) with
    | none => none
    | some es =>
      some (es.foldl (fun b e => b.set e.1 (b.getD e.1 0 ^^^ BitVec.ofNat 8 e.2)) blk, es.length)

end Sys2Proof.Machine
end

