-- ==== Sys2Proof/Machine/Cells.lean ====
section
/-! DEFINITION. Places and cells: HEA fields, roles, time quality, the block and cell layouts, routing, and queueing a
cell on a port. -/

namespace Sys2Proof.Machine

/-! ## Addresses and roles (R16 to R22) -/

def heaHall (h : Nat) : Nat := bits h 27 4
def heaRow (h : Nat) : Nat := bits h 19 8
def heaRack (h : Nat) : Nat := bits h 11 8
def heaSled (h : Nat) : Nat := bits h 5 6
def heaDie (h : Nat) : Nat := bits h 0 5

/-- The address of no part. -/
def noHea : Nat := 0xFFFF_FFFF

/-- An HEA of a Spindle: legal fields of R21. -/
def spnHea (h : Nat) : Bool :=
  h < 2 ^ 31 && heaRow h < 64 && heaRack h < 64 && heaSled h < 63

/-- An HEA of a Creel of some tier. -/
def crlHea (h : Nat) : Bool :=
  h < 2 ^ 31 && heaSled h = 63 &&
    ((heaRow h < 64 && heaRack h < 64 && heaDie h % 16 = 0)
      || (heaRow h < 64 && 64 ≤ heaRack h && heaRack h < 68)
      || (64 ≤ heaRow h && heaRow h < 72 && heaRack h < 16))

/-- An HEA that R21 allows. -/
def heaLegal (h : Nat) : Bool := spnHea h || crlHea h

/-- The root index that a root Creel's HEA names (R65). -/
def heaRoot (h : Nat) : Nat := (heaRow h - 64) * 256 + heaRack h * 16 + heaDie h % 16

/-- The index j of a row Creel's HEA. -/
def heaRowIdx (h : Nat) : Nat := (heaRack h - 64) * 16 + heaDie h % 16

def planeNat : Plane → Nat
  | .a => 0
  | .b => 1
def planeOf (n : Nat) : Plane := if n = 0 then .a else .b
def otherPlane : Plane → Plane
  | .a => .b
  | .b => .a

/-- The time root of a plane as the topology record names it (R95). -/
def Topo.timeRoot (t : Topo) : Plane → Nat
  | .a => t.timeRootA
  | .b => t.timeRootB

/-- Whether this Creel is its plane's time root (R95). -/
def State.isTimeRoot (s : State) : Bool :=
  s.cc.topo.hasRoot && s.cc.topo.hea = s.cc.topo.timeRoot s.cc.topo.plane

/-- Whether this Creel is the lead plane's time root (R96). -/
def State.isLeadRoot (s : State) : Bool := s.isTimeRoot && s.cc.time.lead = s.cc.topo.plane

/-- Port PX (R15). -/
def pxPort : Nat := 128

/-- A Creel port that points up in its tier (R16). -/
def Topo.upPort (t : Topo) (port : Nat) : Bool := (t.tier = 1 || t.tier = 2) && !t.hasRoot && 64 ≤ port && port < 128

/-- The end of a link that counts as its lower-tier end (R77); on PX the plane-B end (R96). -/
def State.lowerEnd (p : Part) (port : Nat) (s : State) : Bool :=
  match p with
  | .spn => true
  | .crl => if port = pxPort then s.cc.topo.plane = .b else s.cc.topo.upPort port

/-- Bytes 16 to 19 of a GT position: seconds, nanoseconds and fraction (R31). -/
def gtSec (gt : Int) : Nat := (gt / unitsPerSec).toNat
def gtNs (gt : Int) : Nat := ((gt % unitsPerSec) / 65536).toNat
def gtFrac (gt : Int) : Nat := (gt % 65536).toNat

/-! ## Time quality (R33, R47, R115) -/

def EngState.code : EngState → Nat
  | .off => 0
  | .acquiring => 1
  | .fine => 2
  | .locked => 3
  | .lost => 4

/-- The local state nibble of a part's TQ (R33, R99, R115). A tracked engine that acquires shows ACQUIRING, in HOLD too, since
re-acquisition passes through it (R47, R49). -/
def State.localState (p : Part) (s : State) : Nat :=
  let c := s.core p
  if c.sec.untrusted then 0x5
  else if c.sec.power = 2 && (p = .crl || c.time.tracked.state = .off || c.time.tracked.state = .lost) then 0x4
  else
    match p with
    | .spn =>
      if !c.time.gtValid then 0xF
      else if c.time.tracked.state = .acquiring then 0x2
      else if c.time.track ≠ c.time.lead then 0x1
      else
        match c.time.tracked.state with
        | .locked => if c.time.track = .a then 0x0 else 0x3
        | .fine => 0x1
        | _ => 0x2
    | .crl =>
      if s.isTimeRoot && s.crl.ref.state ≠ .follow then 0x0
      else if !c.time.gtValid then 0xF
      else
        match c.time.engA.state with
        | .locked => 0x0
        | .fine => 0x1
        | _ => 0x2

/-- The root class a part reports: the reference unit's at a time root, else the class heard (R33). -/
def State.rootClass (p : Part) (s : State) : Nat :=
  match p with
  | .spn => s.sc.time.rootClass
  | .crl => if s.isTimeRoot then s.crl.ref.cls else s.cc.time.rootClass

/-- TQ (R33). -/
def State.tq (p : Part) (s : State) : Nat := 16 * s.rootClass p + s.localState p

/-- What the parent, or the tracked plane's rack Creel, was last heard to say. -/
def State.parentHeard (p : Part) (s : State) : Option Heard :=
  match p with
  | .spn => (s.port .spn (planeNat s.sc.time.track)).exch.heard
  | .crl => s.cc.time.engA.port.bind (fun n => (s.port .crl n).exch.heard)

/-- Steps removed: 0 at a time root, the parent's plus 1, 0xF for none (R97, R99). -/
def State.stepsRemoved (p : Part) (s : State) : Nat :=
  match p with
  | .spn => match s.parentHeard .spn with
    | some h => min (h.s + 1) 0xF
    | none => 0xF
  | .crl =>
    if s.isTimeRoot then 0
    else if s.crl.ref.rootLost || s.cc.time.engA.state = .lost then 0xF
    else match s.parentHeard .crl with
      | some h => min (h.s + 1) 0xF
      | none => 0xF

/-! ## Cells and blocks (R51, R54, R55) -/

/-- Classes of a cell. -/
def clsTime : Nat := 0
def clsPly : Nat := 1
def clsCtl : Nat := 2
def clsSignal : Nat := 3
def clsBulk : Nat := 4

/-- Link-management types of LAUNCH/CONTROL (R57). -/
def typPortSat : Nat := 0x1B
def typIdentify : Nat := 0x1C
def typKeyEx : Nat := 0x1D
def typRekey : Nat := 0x1E

def Cell.isMgmt (c : Cell) : Bool := c.cls = clsCtl && typIdentify ≤ c.typ && c.typ ≤ typRekey

/-- Whether a cell carries a tag (R56). -/
def Cell.tagged (c : Cell) : Bool :=
  c.cls < 3 && !(c.cls = clsCtl && (c.typ = typIdentify || c.typ = typKeyEx))

/-- The states in which a port sends and admits a cell (R58, R79). -/
def Cell.admitted (c : Cell) (st : LinkState) : Bool :=
  if c.cls = clsCtl && c.typ = typIdentify then st = .identify
  else if c.cls = clsCtl && c.typ = typKeyEx then st = .keyExchange
  else if c.cls = clsTime || (c.cls = clsCtl && c.typ = typRekey) then st = .calibrate || st = .up
  else st = .up

/-- The cells that PX carries (R15). -/
def Cell.onPx (c : Cell) : Bool :=
  c.cls = clsTime || c.cls = clsBulk || c.isMgmt
    || (c.cls = clsCtl && (c.typ = 0x09 || c.typ = 0x0A || c.typ = 0x0B || c.typ = 0x12))

/-- Header bytes 0 to 5 of a cell as the port sends it. -/
def cellHeader (c : Cell) (kp : Bool) (lseq cclass ccount hops : Nat) : Bytes :=
  lay [(1, c.cls + 8 * c.typ),
       (1, bitAt c.tagged 0 + bitAt c.ts 1 + bitAt c.last 2 + bitAt c.tree 3 + bitAt c.up 4 + bitAt kp 5 + bitAt c.local_ 6),
       (2, lseq), (1, cclass + 8 * (ccount % 32)), (1, hops % 16)]

/-- Body bytes 0 to 15. -/
def cellBody (c : Cell) : Bytes := lay [(4, c.dst), (4, c.src), (2, c.part), (2, c.cidx), (4, c.pepoch)]

/-- The 72 bytes of a cell under a key: tag before CRC (R59, R60). -/
def cellBytes (c : Cell) (key : Option LinkKey) (kp : Bool) (ext cclass ccount : Nat) : Bytes :=
  let h := cellHeader c kp (ext % 65536) cclass ccount c.hops
  let body :=
    if c.tagged then
      let b := cellBody c ++ padTo 40 c.body
      match key with
      | some k => b ++ gmac8 k.key (k.salt ++ be 8 ext) (h ++ b)
      | none => b ++ List.replicate 8 0
    else cellBody c ++ padTo 48 c.body
  h ++ le 2 (crc16 (h ++ body)).toNat ++ body

/-- An 80-byte block of a type and content, with its marker and parity (R51, R52). -/
def blockOf (btype : Nat) (content : Bytes) : BitVec 640 :=
  let d := le 2 (btype + 16 * 0x9E3) ++ padTo 72 content
  BitVec.ofNat 640 (leNat (d ++ rsParity d))

/-! ## Queueing (R64 to R69) -/

/-- The peer named by a port is UNTRUSTED and gets only TIME and link-management cells (R510). -/
def Port.refuses (q : Port) (c : Cell) : Bool := q.keys.peerUntrusted && !(c.cls = clsTime || c.isMgmt)

/-- PORT_SAT on a link whose ends do not both have feature bit 0 (R82). -/
def Port.noSat (q : Port) (c : Cell) : Bool := c.cls = clsCtl && c.typ = typPortSat && !q.feat.testBit 0

/-- Queues a cell on a port that admits it, with its addresses (R55); otherwise the cell is lost (R63, R79, R82, R510). DESIGN CHOICE: a
cell routed to a port in a state that does not carry it is lost without any count (log entry 124). A Spindle that holds no HEA yet
gives the one it announced as SRC. -/
def sendCell (p : Part) (port : Nat) (c : Cell) (s : State) : State :=
  let q := s.port p port
  if c.admitted q.state && !q.refuses c && !q.noSat c then
    let known := q.state ≠ .identify
    let src := if known then (if s.hea p = noHea then q.annHea.getD 0 else s.hea p) else 0
    let dst := if c.local_ then (if known then q.peerHea else 0) else c.dst
    s.modPort p port (fun q => { q with tx := q.tx ++ [{ c with dst := dst, src := if c.src = 0 then src else c.src }] })
  else s

/-- The window of a stamp: 65,536 s in 2^-16 ns. -/
def stampWindow : Int := 65536 * unitsPerSec

/-- Queues a cell on each of several ports. -/
def sendOn (p : Part) (ports : List Nat) (c : Cell) (s : State) : State := ports.foldl (fun s n => sendCell p n c s) s

/-- Ports of a part that are in UP. -/
def State.upPorts (p : Part) (s : State) : List Nat :=
  ((s.core p).ports.filter (fun e => e.2.state = .up)).map (·.1)

/-- The egress port of a TREE = 0 cell for `dst` that ends elsewhere (R65). Port PX carries what R15 sends there. -/
def routePort (t : Topo) (dst : Nat) : Option Nat :=
  let row := heaRow dst
  let rack := heaRack dst
  let isSpn := spnHea dst
  let own := heaDie dst / 16 = planeNat t.plane
  let isRoot := crlHea dst && 64 ≤ row && own
  let isRowC := crlHea dst && row < 64 && 64 ≤ rack && own
  let n := heaRoot dst
  let hash := (rack + heaSled dst + heaDie dst) % 64
  match t.tier with
  | 1 =>
    if isSpn && row = t.row && rack = t.rack then (t.portMap.find? (fun e => e.2 = dst)).map (·.1)
    else if t.hasRoot then none
    else if isSpn then some (64 + hash)
    else if isRoot then some (64 + n / 32)
    else if isRowC && t.twoTier && row = t.row then some (64 + heaRowIdx dst)
    else none
  | 2 =>
    if isSpn && row = t.row then some rack
    else if t.twoTier && isRowC && row = t.row && t.hasRoot then some t.transitRack
    else if t.hasRoot then none
    else if isSpn then some (64 + 2 * ((rack + heaDie dst) % 32) + heaSled dst % 2)
    else if isRoot then
      if n / 32 = t.index then some (64 + 2 * (n % 32)) else some t.transitRack
    else none
  | 3 => if isSpn then some (2 * row + heaSled dst % 2) else if isRoot then some (2 * t.transitRow) else none
  | _ => none

/-- A neighbour of the plane directly linked, for cells to rack and row Creels (R65). -/
def neighbourPort (t : Topo) (dst : Nat) : Option Nat := (t.links.find? (fun e => e.1 ≠ pxPort && e.2.hea = dst)).map (·.1)

/-- Sends a TREE = 0 cell toward its DST: a Spindle on the port of the plane chosen, a Creel by its routing rules. -/
def sendTo (p : Part) (plane : Plane) (c : Cell) (s : State) : State :=
  match p with
  | .spn => sendCell .spn (planeNat plane) c s
  | .crl =>
    match (routePort s.cc.topo c.dst).orElse (fun _ => neighbourPort s.cc.topo c.dst) with
    | some n => sendCell .crl n c s
    | none => s

/-- The number of the hall power tree's group among the trees (R299). -/
def Topo.hallKey (t : Topo) : Nat := 0xFFFF * 65536 + t.powerTree

/-- A group's tree: as installed, or for hall scope the hall power tree of the topology record (R299, R406). -/
def State.plyTree (k : Nat) (s : State) : Option Tree :=
  let t := s.cc.topo
  if k = t.hallKey && !t.powerKids.isEmpty then some { kids := t.powerKids, up := t.powerUp } else tfind s.crl.ply.trees k

/-- A LAUNCH/CONTROL cell of a partition. -/
def ctlCell (typ part pepoch : Nat) (body : Bytes) : Cell :=
  { cls := clsCtl, typ := typ, part := part, pepoch := pepoch, body := body }

/-- A TIME cell (R56). -/
def timeCell (typ : Nat) (ts : Bool) (body : Bytes) : Cell :=
  { cls := clsTime, typ := typ, ts := ts, local_ := true, body := body }

/-- A membership that waits for its confirmation is confirmed to the partition's root in each plane whose port is in UP, while the die is LOCKED or
PLANE_B (R29, R34). The root's partner has its place in the other plane (log entry 41). -/
def sendConfirm (s : State) : State :=
  let l := s.localState .spn
  match s.spn.banks.confirm with
  | none => s
  | some (part, pepoch, planes) =>
    if l ≠ 0 && l ≠ 3 then s
    else
      let up := fun (pl : Plane) => (s.port .spn (planeNat pl)).state = LinkState.up
      let cell := fun (pl : Plane) =>
        { ctlCell (Config.confirmType % 32) part pepoch (Config.confirmBody s.spn.clocks.mceil) with
          dst := if pl = s.spn.banks.plane then s.spn.launch.rootHea else s.spn.launch.rootHea ^^^ 16 }
      let left := planes.filter (fun pl => !up pl)
      let s := (planes.filter up).foldl (fun s pl => sendCell .spn (planeNat pl) (cell pl) s) s
      { s with spn.banks.confirm := if left.isEmpty then none else some (part, pepoch, left) }

/-- A message of several cells: `first` payload bytes in the first, `rest` in each later one, LAST on the final. -/
def cellsOf (c : Cell) (first rest : Nat) (content : Bytes) : List Cell :=
  let n := 1 + ceilDiv (content.length - first) rest
  (List.range n).map (fun i =>
    let b := if i = 0 then content.take first else (content.drop (first + rest * (i - 1))).take rest
    { c with cidx := i, last := i + 1 = n, body := b })

end Sys2Proof.Machine
end

