-- ==== Sys2Proof/Machine/Refs.lean ====
section
/-! DEFINITION. What the reference and holdover unit does on every change: internal quality, selection of references,
the unit's state and the root class (R126 to R146). -/

namespace Sys2Proof.Machine

/-! ## References and their settings (R126, R130 to R132, R158) -/

/-- Offset of a reference's CFG. -/
def refOff (n : Nat) : Nat := 0x3040 + 0x10 * n

def State.ref (n : Nat) (s : State) : Ref := tget {} s.crl.ref.refs n
def State.modRef (n : Nat) (f : Ref → Ref) (s : State) : State := { s with crl.ref.refs := tmod {} s.crl.ref.refs n f }
def State.refPrio (n : Nat) (s : State) : Nat := bits (s.reg .crl (refOff n)) 0 4
def State.phaseUse (n : Nat) (s : State) : Bool := n < 6 && (s.reg .crl (refOff n)).testBit 4
def State.freqUse (n : Nat) (s : State) : Bool := n < 6 && (s.reg .crl (refOff n)).testBit 5
def State.todPair (n : Nat) (s : State) : Bool := n < 2 && (s.reg .crl (refOff n)).testBit 6

/-- DECL_IQ of a PF input (R132): 0 acts as 4; what 5 to 7 declare the manual does not state, so it is free (log entry 20). -/
def State.declIq (n : Nat) (s : State) : Nat :=
  let d := bits (s.reg .crl (refOff n)) 8 3
  if d = 0 then 4 else if d ≤ 4 then d else (Config.declIqOther d).toNat

/-- IQ of a received clockClass (R130). -/
def iqOfClockClass (c : Nat) : Nat :=
  if c = 6 then 1
  else if c = 7 || c = 135 then 2
  else if c = 140 || c = 150 || c = 160 || c = 165 then 3
  else if c = 248 then 4
  else 0xF

/-- IQ of a root class, for PX (R130). -/
def iqOfClass (c : Nat) : Nat := if c < 4 then c + 1 else 0xF

/-- FIQ of an ESMC SSM code (R131). -/
def fiqOfSsm (c : Nat) : Nat :=
  if c = 0x2 then 1 else if c = 0x4 then 2 else if c = 0x8 then 3 else if c = 0xB then 4 else 0xF

/-- The IQ of a reference as selection compares it (R130, R132). -/
def State.iqOf (n : Nat) (s : State) : Nat :=
  if n < 2 then
    if s.todPair n then (s.ref n).iq
    else
      let tod := (s.ref 6).state = .qualified && s.crl.ref.phaseSel.any (fun k => s.todPair k)
      let label := tod || (List.range 4).any (fun e => (s.ref (2 + e)).state = .qualified)
      if label then s.declIq n else max (s.declIq n) 4
  else (s.ref n).iq

/-- The FIQ of a reference (R131). -/
def State.fiqOf (n : Nat) (s : State) : Nat := if n < 2 then s.iqOf n else (s.ref n).fiq

/-- Whether a reference's PRIORITY, or a PF's pairing for the TOD line, enables it (R135, R158). -/
def State.refEnabled (n : Nat) (s : State) : Bool :=
  if n = 7 then true
  else if n = 6 then s.refPrio 6 ≠ 0 || s.todPair 0 || s.todPair 1
  else s.refPrio n ≠ 0 || s.todPair n

/-! ## Selection (R136 to R138) -/

/-- The better of two candidates: lowest quality, then lowest PRIORITY, then lower ID. -/
def better (q : Nat → Nat) (s : State) (a b : Nat) : Bool :=
  q a < q b || (q a = q b && (s.refPrio a < s.refPrio b || (s.refPrio a = s.refPrio b && a < b)))

/-- The best of some candidates. -/
def bestOf (q : Nat → Nat) (s : State) : List Nat → Option Nat
  | [] => none
  | a :: l => match bestOf q s l with
    | some b => if better q s b a then some b else some a
    | none => some a

/-- A Creel's own references that may be selected: QUALIFIED, of a quality to use (R130, R131, R136). -/
def State.ownPhase (s : State) : List Nat :=
  (List.range 6).filter (fun (n : Nat) => s.phaseUse n && (s.ref n).state = .qualified && s.iqOf n ≠ 0xF)
def State.ownFreq (s : State) : List Nat :=
  (List.range 6).filter (fun (n : Nat) => s.freqUse n && (s.ref n).fstate = .qualified && s.fiqOf n ≠ 0xF)

/-- Candidates for a phase reference. -/
def State.phaseCands (s : State) : List Nat :=
  if !s.isTimeRoot then []
  else if !s.isLeadRoot && (s.ref 7).state = .qualified then [7]
  else s.ownPhase

/-- Candidates for a frequency reference. -/
def State.freqCands (s : State) : List Nat :=
  if !s.isTimeRoot then []
  else if !s.isLeadRoot && (s.ref 7).state = .qualified then [7]
  else s.ownFreq

/-- A selection from candidates, given the current one: better quality takes over at once, better priority only with
REVERTIVE (R138). -/
def pick (q : Nat → Nat) (cands : List Nat) (cur : Option Nat) (s : State) : Option Nat :=
  match bestOf q s cands, cur with
  | none, _ => none
  | some b, none => some b
  | some b, some c =>
    if !cands.contains c then some b
    else if q b < q c then some b
    else if (s.reg .crl 0x3000).testBit 3 && s.refPrio b < s.refPrio c then some b
    else some c

/-- The label reference (R136). -/
def State.pickLabel (phase : Option Nat) (s : State) : Option Nat :=
  let tod := match phase with
    | some n => s.todPair n && (s.ref 6).state = QualState.qualified
    | none => false
  if !s.isTimeRoot then none
  else if tod then some 6
  else bestOf (fun n => s.iqOf n) s ((List.range 6).filter (fun (n : Nat) => 2 ≤ n && (s.ref n).state = .qualified && s.iqOf n ≠ 0xF))

/-- The REF_SWITCH record of a change: kind, old and new reference, both IQs (R138). -/
def refSwitch (kind : Nat) (old new : Option Nat) (q : Nat → Nat) (s : State) : State :=
  if old = new then s
  else (s.setEv .crl 0x3014 0).raise .crl 0x1301 0
    [kind, old.getD 0xF, new.getD 0xF, (old.map q).getD 0xF, (new.map q).getD 0xF]

/-! ## The unit's state (R140, R144, R146) -/

/-- Seconds in holdover so far, in ns. -/
def RefUnit.hoElapsed (r : RefUnit) (now : Nat) : Nat :=
  match r.hoStart with
  | some t => if r.state = .holdover then r.hoHeld + (now - t) else r.hoHeld
  | none => 0

/-- Enters HOLDOVER (R144). A unit that had left it and not reached LOCKED returns with its class and elapsed time. With class UNKNOWN, from
FOLLOW, it takes FREE_RUN (log entry 147). -/
def enterHoldover (s : State) : State :=
  let r := s.crl.ref
  let now := s.cc.time.tick
  let r' := match r.hoStart with
    | some _ => { r with state := .holdover, phaseSel := none, hoStart := some now }
    | none =>
      let prim := r.state = UnitState.locked && r.cls = 0
      let cls := if prim && r.learned then 1 else if r.cls ≤ 2 then 2 else 3
      { r with
        state := .holdover, phaseSel := none, cls := cls, hoStart := some now, hoHeld := 0, hoTemp := r.temp }
  let s' := { s with crl.ref := { r' with within := none, iq1Since := none } } |>.setEv .crl 0x3014 1
  if r.cls = 1 && r'.cls = 2 then (s'.setEv .crl 0x3014 2).raise .crl 0x1302 0 [s.cc.topo.hea] else s'

/-- Enters ACQUIRE on a phase reference, with the class held before (R140). -/
def enterAcquire (ph : Nat) (s : State) : State :=
  let r := s.crl.ref
  { s with
      crl.ref := { r with
      state := .acquire, phaseSel := some ph, fromFree := r.state = .freeRun, within := none, iq1Since := none,
      hoHeld := r.hoElapsed s.cc.time.tick } }

/-- Enters LOCKED (R140). -/
def enterLocked (s : State) : State :=
  let r := s.crl.ref
  let iq := (r.phaseSel.map (fun n => s.iqOf n)).getD 4
  { s with
      crl.ref := { r with
      state := .locked, cls := min (iq - 1) 3, everLock := true, learned := false, setStep := false, hoStart := none, hoHeld := 0,
      iq1Since := if iq = 1 then some s.cc.time.tick else none } } |>.setEv .crl 0x3014 3

/-- Enters FOLLOW at the non-lead time root (R140). -/
def enterFollow (s : State) : State :=
  let r := s.crl.ref
  if r.state = .follow then s
  else
    let cls := (s.cc.time.qword.map (·.rclass)).getD r.cls
    let s := refSwitch 0 r.phaseSel (some 7) (fun n => s.iqOf n) s
    let s := refSwitch 1 r.freqSel (some 7) (fun n => s.fiqOf n) s
    { s with
        crl.ref := { r with
        state := .follow, phaseSel := some 7, freqSel := some 7, cls := cls, hoStart := none, hoHeld := 0, within := none,
        steerLost := false } }

/-- FOLLOW ends: LOCKED if its own phase reference is QUALIFIED and within 20 ns, else HOLDOVER, which a reference that is selected leaves at
once for ACQUIRE (R116, R140). -/
def leaveFollow (s : State) : State :=
  if s.crl.ref.state ≠ .follow then s
  else
    let ph := bestOf (fun n => s.iqOf n) s s.ownPhase
    let fr := bestOf (fun n => s.fiqOf n) s s.ownFreq
    let s := refSwitch 0 (some 7) ph (fun n => s.iqOf n) s
    let s := { refSwitch 1 (some 7) fr (fun n => s.fiqOf n) s with crl.ref.freqSel := fr }
    match ph with
    | some n =>
      if (s.ref n).phase.natAbs ≤ 20 * 65536 then enterLocked { s with crl.ref.phaseSel := some n } else enterAcquire n (enterHoldover s)
    | none => enterHoldover s

/-- The unit's reaction to its phase selection (R140). -/
def unitFollows (old new : Option Nat) (s : State) : State :=
  let r := s.crl.ref
  match r.state, new with
  | .monitor, _ => s
  | .follow, _ => s
  | .freeRun, some n => if n = 7 then enterFollow s else enterAcquire n s
  | .freeRun, none => s
  | .holdover, some n => if n = 7 then enterFollow s else enterAcquire n s
  | .holdover, none => s
  | .acquire, some n =>
    if n = 7 then enterFollow s
    else if old = some n then s else { s with crl.ref := { r with phaseSel := some n, within := none } }
  | .acquire, none =>
    if r.fromFree then { s with crl.ref := { r with state := .freeRun, phaseSel := none, within := none } } else enterHoldover s
  | .locked, some n =>
    if n = 7 then enterFollow s
    else if old = some n then
      let iq := s.iqOf n
      { s with
          crl.ref := { r with
          cls := min (iq - 1) 3, iq1Since := if iq = 1 then r.iq1Since.orElse (fun _ => some s.cc.time.tick) else none,
          learned := r.learned && iq = 1 } }
    else enterAcquire n s
  | .locked, none => enterHoldover s

/-- One selection from the state of all references, with what follows from it (R136 to R140; log entry 146). -/
def reselect (s : State) : State :=
  let r := s.crl.ref
  let qp := fun n => s.iqOf n
  let qf := fun n => s.fiqOf n
  let ph := pick qp s.phaseCands r.phaseSel s
  let fr := pick qf s.freqCands r.freqSel s
  let lb := s.pickLabel ph
  let s := refSwitch 0 r.phaseSel ph qp s
  let s := refSwitch 1 r.freqSel fr qf s
  let s := refSwitch 2 r.labelSel lb qp s
  let s := { s with crl.ref.freqSel := fr, crl.ref.labelSel := lb }
  unitFollows r.phaseSel ph s

/-! ## Qualification (R135) -/

/-- A test is met: QUALIFIED the first time since reset, WTR after. -/
def meets (n : Nat) (s : State) : State :=
  let r := s.ref n
  if r.state ≠ .qualifying then s
  else if r.first then reselect (s.modRef n (fun r => { r with state := .qualified, first := false }))
  else s.modRef n (fun r => { r with state := .wtr, since := s.cc.time.tick })

/-- The same for a frequency input. -/
def meetsFreq (n : Nat) (s : State) : State :=
  let r := s.ref n
  if r.fstate ≠ .qualifying then s
  else if r.ffirst then reselect (s.modRef n (fun r => { r with fstate := .qualified, ffirst := false }))
  else s.modRef n (fun r => { r with fstate := .wtr, fsince := s.cc.time.tick })

/-- A failure in QUALIFYING, WTR or QUALIFIED. -/
def failsRef (n : Nat) (s : State) : State :=
  let r := s.ref n
  if r.state = .disabled || r.state = .failed then s
  else reselect ((s.modRef n (fun r => { r with state := .failed, good := 0, badRun := 0 })).setEv .crl 0x3014 4)

def failsFreq (n : Nat) (s : State) : State :=
  let r := s.ref n
  if r.fstate = .disabled || r.fstate = .failed then s
  else reselect ((s.modRef n (fun r => { r with fstate := .failed })).setEv .crl 0x3014 4)

/-- A FAILED reference whose fault is gone qualifies anew. -/
def healsRef (n : Nat) (s : State) : State :=
  if (s.ref n).state = .failed then s.modRef n (fun r => { r with state := .qualifying, good := 0, badRun := 0 }) else s
def healsFreq (n : Nat) (s : State) : State :=
  if (s.ref n).fstate = .failed then s.modRef n (fun r => { r with fstate := .qualifying }) else s

/-- The states after a change of a CFG: a disabled reference is DISABLED, an enabled one leaves DISABLED for QUALIFYING. -/
def refreshRef (n : Nat) (s : State) : State :=
  let on := s.refEnabled n
  s.modRef n (fun r =>
    let to_ := fun (st : QualState) => if !on then QualState.disabled else if st = .disabled then .qualifying else st
    { r with state := to_ r.state, fstate := if n < 6 then to_ r.fstate else r.fstate })

/-- Every reference's state, and a selection, after a change of settings. -/
def refreshRefs (s : State) : State := reselect ((List.range 8).foldl (fun s n => refreshRef n s) s)

/-- The time root's unit when the topology record or the lead changes (R140). From MONITOR to HOLDOVER it takes the worse of the class it has
and HOLDOVER_OUT (log entry 148). -/
def takeUnitRole (s : State) : State :=
  if !s.isTimeRoot then { s with crl.ref.state := .monitor }
  else
    let s := if s.crl.ref.state = .monitor then
      if s.crl.ref.everLock then enterHoldover { s with crl.ref.cls := max s.crl.ref.cls 2 }
      else { s with crl.ref := { s.crl.ref with state := .freeRun, cls := 3 } }
    else s
    if s.isLeadRoot then reselect (leaveFollow s) else enterFollow s

end Sys2Proof.Machine
end

