-- ==== Sys2Proof/Machine/Engine.lean ====
section
/-! DEFINITION. Time engines: which leader a part may follow, the tracked plane of a Spindle, the parent of a Creel, and
what the loss of a port or root does (R97 to R99, R107, R108, R111 to R117, R120). -/

namespace Sys2Proof.Machine

/-- Nanoseconds in units of 2^-16 ns. -/
def ns16 (n : Rat) : Rat := n * 65536

def Time.eng (t : Time) : Plane → Engine
  | .a => t.engA
  | .b => t.engB
def Time.modEng (pl : Plane) (f : Engine → Engine) (t : Time) : Time :=
  match pl with
  | .a => { t with engA := f t.engA }
  | .b => { t with engB := f t.engB }

/-- The engine that a port's exchanges may drive: A on a Creel, that of the port's plane on a Spindle. -/
def engineOf (p : Part) (port : Nat) : Plane :=
  match p with
  | .spn => planeOf port
  | .crl => .a

/-- The plane of a port (R13, R15). -/
def State.portPlane (p : Part) (port : Nat) (s : State) : Plane :=
  match p with
  | .spn => planeOf port
  | .crl => s.cc.topo.plane

/-- Whether a port drives its engine: both ports of a Spindle, the parent port of a Creel (R97); the lead root follows its unit (R96). No
untrusted peer moves time (R510). -/
def State.drives (p : Part) (port : Nat) (s : State) : Bool :=
  !(s.port p port).keys.peerUntrusted &&
    match p with
    | .spn => true
    | .crl => s.cc.time.engA.port = some port && !s.isLeadRoot

/-- A time alarm names the part's HEA, the plane and the port, and sets its bit (R121). -/
def timeAlarm (p : Part) (code bit : Nat) (names : List Nat) (s : State) : State :=
  (s.setEv p (teAlarm p) bit).raise p code 0 (s.hea p :: names)

/-! ## Capture slots (R39 to R44) -/

def Time.slot (t : Time) : Nat → TCap
  | 0 => t.slot0
  | 1 => t.slot1
  | 2 => t.slot2
  | _ => t.slot3
def Time.setSlot (t : Time) (n : Nat) (c : TCap) : Time :=
  match n with
  | 0 => { t with slot0 := c }
  | 1 => { t with slot1 := c }
  | 2 => { t with slot2 := c }
  | _ => { t with slot3 := c }

/-- GT as its 128-bit value with TQ (R31). -/
def gtWord (gt : Int) (tq : Nat) : BitVec 128 :=
  BitVec.ofNat 128 (gtSec gt * 2 ^ 64 + gtNs gt * 2 ^ 32 + gtFrac gt * 2 ^ 16 + tq * 2 ^ 8)

/-- What a slot holds of the partition named: DTC, D, epoch and domain epoch, with GT at the TICK edge of that DTC (R37, log entry 135);
zeros where the part holds no such partition (R44). An instant that has no DTC leaves DTC_VALID at 0 (R38, R43; log entry 134). -/
def capturePart (p : Part) (part : Nat) (gt : Int) (s : State) (c : TCap) : TCap :=
  let of := fun (epochS : Nat) (d : Int) (pepoch : Nat) =>
    let n := dtcOf gt epochS d
    { c with
      gt := gtWord ((n.map (fun k => gtOf k epochS d)).getD gt) (s.tq p), dtcValid := n.isSome, dtc := BitVec.ofNat 64 (n.getD 0)
      dcor := BitVec.ofInt 64 d, part := part, pepoch := pepoch, depoch := BitVec.ofNat 64 epochS }
  let none_ := { c with gt := gtWord gt (s.tq p), dtcValid := false, dtc := 0, dcor := 0, part := part, pepoch := 0, depoch := 0 }
  match p with
  | .spn => if part = 0 then none_ else of s.spn.banks.epochS s.spn.banks.dcor s.spnPepoch
  | .crl =>
    if part = 0 || part = 0xFFFF then none_
    else match tfind s.crl.held part with
      | some h => of h.1 h.2 (tget 0 s.crl.epochs part)
      | none => none_

/-- A slot takes the values of TICK edge `edge`, for the partition named. A time root's GT always counts as valid (log entry 134). -/
def slotTake (p : Part) (part edge : Nat) (s : State) (c : TCap) : TCap :=
  let gt := s.gt p + (edge - s.tick p : Nat) * 65536
  let plane := match p with
    | .spn => s.sc.time.track
    | .crl => s.cc.topo.plane
  capturePart p part gt s { c with
    gtValid := (s.core p).time.gtValid || (p = Part.crl && s.isTimeRoot), plane := plane, at_ := some edge }

/-- GT has stepped or the tracked plane has changed at this TICK: a slot captured at this edge or a later one shows what stands after it
(R40), and where GT stepped, that capture or the next one shows STEPPED (R43). -/
def noteStep (p : Part) (stepped : Bool) (s : State) : State :=
  s.modTime p (fun t => (List.range 4).foldl (fun t n =>
    let c := t.slot n
    t.setSlot n (match c.at_ with
      | some a => if s.tick p ≤ a then slotTake p c.part a s { c with stepped := c.stepped || stepped } else { c with fresh := c.fresh || stepped }
      | none => { c with fresh := c.fresh || stepped })) t)

/-- The time root that a port's peer must name (R98, R108): that of the plane; over PX the lead root's. -/
def State.wantedRoot (p : Part) (port : Nat) (s : State) : Nat :=
  let t := (s.core p).topo
  if p = .crl && port = pxPort then t.timeRoot (otherPlane t.plane) else t.timeRoot (s.portPlane p port)

/-- A leader whose advertised S lies in a range and that is otherwise fit to follow (R98, R108); never an untrusted one (R510). -/
def State.leaderFit (p : Part) (port lo hi : Nat) (s : State) : Bool :=
  let q := s.port p port
  q.state = LinkState.up && !q.keys.peerUntrusted &&
    match q.exch.heard with
    | none => false
    | some h => h.root = s.wantedRoot p port && !h.rootLost && lo ≤ h.s && h.s ≤ hi && h.tq % 16 ≤ 1 && h.hbAge < 16

/-! ## The tracked plane of a Spindle (R108, R111 to R115, R120) -/

/-- A plane's engine serves with its rack Creel at S in a range. -/
def State.engineServes (lo hi : Nat) (pl : Plane) (s : State) : Bool :=
  let e := s.sc.time.eng pl
  (e.state = EngState.fine || e.state = EngState.locked) && s.leaderFit .spn (planeNat pl) lo hi

/-- Usable under R108; a long path only when the other plane has no usable engine, where two long paths both count (log entry 136). -/
def State.usable (pl : Plane) (s : State) : Bool :=
  s.engineServes 0 2 pl || (s.engineServes 3 6 pl && !s.engineServes 0 2 (otherPlane pl))

/-- A switch to plane `pl`: c takes up the filtered offset; GT, DTC move together (R113). -/
def switchTo (pl : Plane) (s : State) : State :=
  let t := s.sc.time
  if t.track = pl then s
  else
    let old := s.gt .spn
    let c := if pl = .b then t.c + t.ab else t.c - t.ab
    let s' := s.modTime .spn (fun t => { t with track := pl, c := c })
    let step := s'.gt .spn - old
    let s' := noteStep .spn (step ≠ 0) s'
    timeAlarm .spn 0x1106 5 [planeNat t.track, planeNat pl, toUnsigned 64 step] s'

/-- The tracked plane at a window end: the lead plane if its engine is usable, else the other, else HOLD (R112, R115,
R120). HOLD ends when the tracked engine is usable again (R517). -/
def choosePlane (s : State) : State :=
  let lead := s.sc.time.lead
  let other := otherPlane lead
  if s.usable lead then setPower .spn (if s.sc.sec.power = 2 then 0 else s.sc.sec.power)
    ((switchTo lead s).modTime .spn (fun t => { t with held := true }))
  else if s.usable other then setPower .spn (if s.sc.sec.power = 2 then 0 else s.sc.sec.power)
    ((switchTo other s).modTime .spn (fun t => { t with held := true }))
  else if s.sc.time.held && s.sc.sec.power ≠ 2 then
    setPower .spn 2 (timeAlarm .spn 0x110A 7 [planeNat s.sc.time.track, planeNat s.sc.time.track]
      (s.modTime .spn (fun t => { t with reacq := true })))
  else s

/-! ## The parent of a Creel (R98, R99, R116) -/

/-- Cost of a parent candidate; none where R98 does not allow it. The lead root follows nothing, the other root PX. -/
def State.parentCost (port : Nat) (s : State) : Option Nat :=
  if s.isLeadRoot || (s.isTimeRoot && port ≠ pxPort) || (!s.isTimeRoot && port = pxPort) then none
  else if s.leaderFit .crl port 0 6 then
    let q := s.port .crl port
    (q.exch.heard.map (fun h => h.s + if q.degraded then 2 else 0))
  else none

/-- Whether candidate (cost, port) is better than another: lower cost, then an up port, then the lower number. -/
def parentBetter (t : Topo) (a b : Nat × Nat) : Bool :=
  let ua := t.upPort a.2
  let ub := t.upPort b.2
  a.1 < b.1 || (a.1 = b.1 && ((ua && !ub) || (ua = ub && a.2 < b.2)))

/-- The best parent candidate. -/
def State.bestParent (s : State) : Option (Nat × Nat) :=
  s.cc.ports.foldl (fun (best : Option (Nat × Nat)) (e : Nat × Port) =>
    match s.parentCost e.1, best with
    | none, b => b
    | some c, none => some (c, e.1)
    | some c, some b => if parentBetter s.cc.topo (c, e.1) b then some (c, e.1) else some b) none

/-- ROOT_LOST as a Creel advertises it: no valid candidate (R99, R116). -/
def State.noParent (s : State) : Bool := !s.isTimeRoot && (s.crl.ref.rootLost || s.bestParent.isNone)

/-- S as a Creel advertises it (R99). -/
def State.crlS (s : State) : Nat := if s.noParent then 0xF else s.stepsRemoved .crl

/-- A change of parent: no step, the servo goes on (R99). -/
def changeParent (new : Nat) (s : State) : State :=
  match s.cc.time.engA.port with
  | some old =>
    if old = new then s
    else timeAlarm .crl 0x1107 5 [planeNat s.cc.topo.plane, old, new]
      (s.modTime .crl (fun t => { t with engA := { t.engA with port := some new } }))
  | none => s.modTime .crl (fun t => { t with engA := { t.engA with port := some new } })

/-- The engine that follows nothing valid is LOST and keeps its last y (R107). -/
def Engine.lose (e : Engine) : Engine := if e.state = .off then e else { e with state := .lost, steer := e.y }

/-- An engine that acquires anew (R107). -/
def Engine.acquire (e : Engine) : Engine :=
  { e with state := .acquiring, stage := .acq, starve := 0, in1ns := 0, in10ps := 0, out100 := 0, out1us := 0, thBuf := [],
           steer := 0 }

/-- The engine that a port drives acquires anew, and the port's next 64 exchanges pass ungated (R105, R107). A time root that has plane
time does not step: it begins with the frequency estimate and slews the difference off (R116, R118). -/
def startAcquire (p : Part) (port : Nat) (s : State) : State :=
  let keep := p = .crl && s.isTimeRoot && s.cc.time.gtValid
  (s.modPort p port (fun q => { q with exch := { q.exch with ungated := 64 } })).modTime p
    (Time.modEng (engineOf p port) (fun e => { e.acquire with stage := if keep then .est else .acq }))

/-- Whether this is the non-lead time root (R96). -/
def State.isFollowRoot (s : State) : Bool := s.isTimeRoot && s.cc.time.lead ≠ s.cc.topo.plane

/-- A time root leads from now on: its engine follows no port (R96). -/
def leadFromUnit (s : State) : State :=
  s.modTime .crl (fun t => { t with lead := s.cc.topo.plane, engA := { t.engA with state := .off, port := none, steer := 0 } })

/-- A time root follows the other plane's over PX from now on, with no step (R96, R118). -/
def followOverPx (s : State) : State :=
  let s := s.modTime .crl (fun t => { t with lead := otherPlane s.cc.topo.plane, engA := { t.engA with port := some pxPort } })
  if (s.port .crl pxPort).state = .up then startAcquire .crl pxPort s
  else s.modTime .crl (fun t => { t with engA := { t.engA with state := .lost } })

/-- The non-lead time root takes the lead: `PLANE_STEER_LOST` stands and LEAD_LOST came from more than half of the rows
that the topology record populates (R117). -/
def tryTakeLead (s : State) : State :=
  let r := s.crl.ref
  if s.isFollowRoot && r.steerLost && s.cc.topo.rows < 2 * r.lostRows.length then
    timeAlarm .crl 0x1105 4 [planeNat s.cc.topo.plane, pxPort, s.cc.topo.timeRoot s.cc.time.lead]
      (leadFromUnit s)
  else s

/-- PLANE_STEER_LOST at the non-lead time root, once per loss; its unit leaves FOLLOW (R116, R121). -/
def steerLost (s : State) : State :=
  if s.isFollowRoot && !s.crl.ref.steerLost then
    tryTakeLead (leaveFollow (timeAlarm .crl 0x1109 6 [planeNat s.cc.topo.plane, pxPort] { s with crl.ref.steerLost := true }))
  else s

/-- The plane's root is lost: TIME_ROOT_LOST once, ROOT_LOST and S = 0xF advertised (R99, R116). -/
def rootLost (s : State) : State :=
  if s.crl.ref.rootLost then s
  else timeAlarm .crl 0x1105 4 [planeNat s.cc.topo.plane, s.cc.time.engA.port.getD 0xFF] { s with crl.ref.rootLost := true }

/-- Whether PX has failed the non-lead time root: out of UP, or no TIME cell of the lead root for 16 windows (R116). -/
def State.pxFailed (s : State) : Bool :=
  let q := s.port .crl pxPort
  (q.state ≠ .up && q.state ≠ .calibrate) || q.exch.heard.any (fun h => 16 ≤ h.hbAge)

/-- The Creel's engine and parent after anything that bears on them: a valid parent is kept and, after LOST, acquired
anew; an invalid one gives way to the best candidate, or the engine is LOST and the root lost (R99, R107, R116). -/
def checkParent (s : State) : State :=
  let e := s.cc.time.engA
  let anew := fun (n : Nat) (s : State) => if e.state = EngState.lost || e.state = EngState.off then startAcquire .crl n s else s
  if s.isLeadRoot then s
  else if e.port.any (fun n => (s.parentCost n).isSome) then
    let s := { s with crl.ref.rootLost := false }
    if e.state = EngState.lost then startAcquire .crl (e.port.getD 0) s else s
  else match s.bestParent with
    | some b => anew b.2 { changeParent b.2 s with crl.ref.rootLost := false }
    | none =>
      let cal := e.port.any (fun n => (s.port .crl n).state = LinkState.calibrate)
      let s' := if cal then s else s.modTime .crl (fun t => { t with engA := t.engA.lose })
      if !s.isFollowRoot then rootLost s' else if s.pxFailed then steerLost s' else s'

/-- A Spindle's engine whose leader is no longer valid is LOST, and one whose leader is valid again acquires (R107). -/
def checkEngine (pl : Plane) (s : State) : State :=
  let e := s.sc.time.eng pl
  let port := planeNat pl
  let up := (s.port .spn port).state = LinkState.up
  if e.state = EngState.off then s
  else if s.leaderFit .spn port 0 6 then
    if e.state = EngState.lost then startAcquire .spn port s else s
  else if up && e.state ≠ EngState.lost then s.modTime .spn (Time.modEng pl Engine.lose)
  else s

/-- Every port of the Creel is out of UP: HOLD once it has held plane time and 1 ms has passed (R516, R517). The 1 ms
runs from the last port's loss; CREEL_HOLD_ENTRY is its end. -/
def noteAllDown (s : State) : State :=
  if (s.upPorts .crl).isEmpty then { s with cc.sec.downTick := some s.cc.time.tick } else s

/-- What an engine does when its port leaves UP or CALIBRATE (R99, R107, R116, R120). -/
def loseEngine (p : Part) (port : Nat) (s : State) : State :=
  match p with
  | .spn =>
    let s := s.modTime .spn (Time.modEng (planeOf port) Engine.lose)
    if !s.usable .a && !s.usable .b then choosePlane s else s
  | .crl => if s.cc.time.engA.port = some port then checkParent s else s

end Sys2Proof.Machine
end

