-- ==== Sys2Proof/Machine/Link.lean ====
section
/-! DEFINITION. The thread link: blocks and slots, the checks of a received cell, credits, switching, training, keys
and the events of a port (R50 to R94, R503 to R510). -/

namespace Sys2Proof.Machine

/-! ## Leaving UP -/

/-- A member whose port in its active root's plane leaves UP reports the root lost on its other port (R528). -/
def rootLostReport (s : State) : State :=
  let pl := s.spn.banks.plane
  let part := s.spnPart
  if part = 0 then s
  else
    let c : Cell := { ctlCell 0x0E part s.spnPepoch (lay [(4, s.spn.launch.seenC)]) with dst := s.spn.launch.rootHea ^^^ 16 }
    sendTo .spn (otherPlane pl) c s

/-- What the units do when a port of theirs leaves UP (R107, R116, R527, R528, R533). -/
def portLost (p : Part) (port : Nat) (s : State) : State :=
  let s := loseEngine p port s
  match p with
  | .spn => if port = planeNat s.spn.banks.plane then rootLostReport s else s
  | .crl =>
    let s := if port = pxPort then failsRef 7 (steerLost s) else s
    let s := noteAllDown s
    let s := { s with crl.cache := s.crl.cache.filter (fun (e : Nat × List Nat) => !e.2.contains port) }
    let broke := lay [(4, s.hea .crl), (2, port)]
    let s := { s with
      crl.parts := s.crl.parts.map (fun (e : Nat × PRoot) =>
      if e.2.kids.contains port then (e.1, { e.2 with repair := true, broken := (e.2.broken ++ [(s.hea .crl, port)]).eraseDups })
      else e) }
    let far := (s.crl.ply.trees.filter (fun (e : Nat × Tree) => (tfind s.crl.parts (e.1 / 65536)).isNone
      && (e.2.kids.contains port || e.2.up = some port))).map (fun (e : Nat × Tree) => (e.1 / 65536, e.2.root))
    far.eraseDups.foldl (fun s (d : Nat × Nat) =>
      sendTo .crl .a { ctlCell 0x10 d.1 (tget 0 s.crl.epochs d.1) broke with dst := d.2 } s) s

/-- Erases a port's session keys and what a key exchange gathered (R507, R509). -/
def eraseKeys (p : Part) (port : Nat) (s : State) : State := s.modPort p port (fun q => { q with keys := {} })

/-- A port goes to a state that is not UP; leaving UP drops its queue, erases its keys and tells the units (R83). DESIGN CHOICE: with the
keys the key phase of both directions restarts at 0, as the first keys of a new exchange find it (R61, R62, R507 name none; log entry 125). -/
def goState (p : Part) (port : Nat) (st : LinkState) (s : State) : State :=
  let q := s.port p port
  let now := s.tick p
  let s' := (s.modCore p (fun c => { c with held := c.held.filter (fun w => w.port ≠ port) })).modPort p port
    (fun q => { q with state := st, since := now, tx := [], keys := {} })
  if q.state = .up then
    portLost p port ((s'.portCount p port 0x38 q.tx.length).portEv p port 0)
  else loseEngine p port s'

/-- A failed training attempt: DOWN, or QUARANTINE at the eighth (R80). -/
def failAttempt (p : Part) (port : Nat) (s : State) : State :=
  let n := (s.port p port).attempts + 1
  let s := s.modPort p port (fun q => { q with attempts := n })
  if 8 ≤ n then ((goState p port .quarantine s).portEv p port 6).raise p 0x1204 0 [s.hea p, port]
  else goState p port .down s

/-- `PORT_RETRAIN` and RETRAIN: DOWN with attempts 0 from any state but DISABLED (R80). -/
def retrainPort (p : Part) (port : Nat) (s : State) : State :=
  if (s.port p port).state = .disabled then s
  else (goState p port .down s).modPort p port (fun q => { q with attempts := 0 })

/-- CLR_QUAR: QUARANTINE to DOWN; ignored elsewhere (R80). -/
def clearQuarantine (p : Part) (port : Nat) (s : State) : State :=
  if (s.port p port).state = .quarantine then
    (goState p port .down s).modPort p port (fun q => { q with attempts := 0 })
  else s

/-- ENABLE written 1 or 0 (R80); a port that the disabled-unit map names stays DISABLED (R548). -/
def enablePort (p : Part) (port : Nat) (on : Bool) (s : State) : State :=
  if on then
    if (s.port p port).state = .disabled && !(s.core p).topo.disabledPorts.contains port then goState p port .down s else s
  else goState p port .disabled s

/-- A write of LP_CTRL: its RW fields, then ENABLE, RETRAIN and CLR_QUAR; ENABLE 0 wins over RETRAIN (R80, R90). -/
def writeLpCtrl (p : Part) (port v : Nat) (s : State) : State :=
  let s := s.setReg p (portBase p port) (v &&& 0xFF09)
  let s := enablePort p port (v.testBit 0) s
  let s := if v.testBit 1 then retrainPort p port s else s
  if v.testBit 2 then clearQuarantine p port s else s

def execPortEnable (p : Part) (port : Nat) (v : Word) (s : State) : Out :=
  run (port < p.ports) (writeLpCtrl p port (v.toNat ||| 1)) s
def execPortDisable (p : Part) (port : Nat) (v : Word) (s : State) : Out :=
  run (port < p.ports) (writeLpCtrl p port (v.toNat &&& 0xFFFF_FFFE)) s
def execPortRetrainBit (p : Part) (port : Nat) (v : Word) (s : State) : Out :=
  run (port < p.ports) (writeLpCtrl p port (v.toNat ||| 2)) s
def execPortClrQuar (p : Part) (port : Nat) (v : Word) (s : State) : Out :=
  run (port < p.ports) (writeLpCtrl p port (v.toNat ||| 4)) s

/-- `PORT_RETRAIN` (0x0200), owned by the PCC core that serves the port on a Creel, by SCH on a Spindle (R464). -/
def pccOf (port : Nat) : Nat := min (3 + port / 16) 10
def judgePortRetrain (p : Part) (_ : State) (pl : Bytes) : Except Refuse (State → Effect) := do
  let port := rdLe pl 0 2
  checkPl [(0, 2)] [(0, port < p.ports)] pl
  pure (fun s => okWith (retrainPort p port s))
def execPortRetrain (p : Part) (q : Req) (pl : Bytes) (s : State) : Out :=
  let core := match p with
    | .spn => 2
    | .crl => pccOf (rdLe pl 0 2)
  run (q.wf p) (runCmd p q 0x0200 core pl (judgePortRetrain p)) s

/-! ## Training (R79 to R85) -/

/-- Whether the core that trains a Creel's port is down, so that training waits (R455). -/
def trainerDown (p : Part) (port : Nat) (s : State) : Bool := p = .crl && coreDown p (pccOf port) s

/-- The backoff in DOWN has elapsed: 2^k ms after the k-th failed attempt, none before the first (R80). -/
def execLinkBackoffExpiry (p : Part) (port : Nat) (s : State) : Out :=
  run (port < p.ports) (fun s =>
    let q := s.port p port
    if q.state = .down && !trainerDown p port s && (q.attempts = 0 || q.since + 2 ^ q.attempts * 1_000_000 ≤ s.tick p) then
      let loop := (s.reg p (portBase p port)).testBit 3 && q.feat.testBit 2
      s.modPort p port (fun q => { q with
        state := .trainPhy, since := s.tick p, looped := loop, goodMarks := 0, peerMarks := false, peerLoop := false, rxLane := none })
    else s) s

/-- Good markers that block lock takes (R80). -/
def marksNeeded : Nat := 64

/-- 64 good markers in a row here and, by its TRAIN blocks, at the peer (R80). A looped link never passes TRAIN_PHY (R85). -/
def execTrainMarkersLocked (p : Part) (port : Nat) (s : State) : Out :=
  run (port < p.ports) (fun s =>
    let q := s.port p port
    if q.state = .trainPhy && !q.looped && marksNeeded ≤ q.goodMarks && q.peerMarks && !trainerDown p port s then
      s.modPort p port (fun q => { q with state := .fecLock, since := s.tick p, goodBlocks := 0 })
    else s) s

/-- Credit grants of a part's receivers (R71). -/
def grantsOf : Part → List Nat
  | .spn => [4, 32, 16, 64, 256]
  | .crl => [4, 128, 32, 128, 768]

/-- The port number a part announces (R81). -/
def announcedPlane (p : Part) (port : Nat) (s : State) : Nat :=
  match p with
  | .spn => port
  | .crl => planeNat s.cc.topo.plane

/-- IDENTIFY payload (R81) that announces an HEA. -/
def identifyBody (p : Part) (port h : Nat) (s : State) : Bytes :=
  lay ([(4, h), (1, announcedPlane p port s), (1, (s.core p).topo.tier), (2, port), (1, 1), (1, 4), (2, 0), (4, 7)]
    ++ (grantsOf p).map (fun g => (2, g)))

/-- Grants of the peer's receiver until its announcement brings them: those of R71 for the part that the topology record names at the far
end, a Creel's for a Spindle (R72; log entry 126). -/
def firstGrants (p : Part) (port : Nat) (s : State) : List Nat :=
  match p, tfind s.cc.topo.links port with
  | .crl, some l => grantsOf (if l.tier = 0 then .spn else .crl)
  | _, _ => grantsOf .crl

/-- Announces an HEA on a port (R81). -/
def announce (p : Part) (port h : Nat) (s : State) : State :=
  sendCell p port { cls := clsCtl, typ := typIdentify, local_ := true, body := identifyBody p port h s }
    (s.modPort p port (fun q => { q with annHea := some h }))

/-- Blocks without an uncorrectable one that IDENTIFY takes (R80). -/
def blocksNeeded : Nat := 1024

/-- Entry to IDENTIFY after 1,024 correctable blocks: credits restart and the port announces itself (R72, R80, R81). A Spindle that has
no HEA yet announces the one its record gives it once the peer has named the down port (R23; log entry 60). -/
def execFecLockAchieved (p : Part) (port : Nat) (s : State) : Out :=
  run (port < p.ports) (fun s =>
    let q := s.port p port
    if q.state = .fecLock && blocksNeeded ≤ q.goodBlocks then
      let s := s.modPort p port (fun q => { q with
        state := .identify, since := s.tick p, cred := { grant := firstGrants p port s }, ccNext := 0, txSeq := 0,
        rxSeq := 0, rxTagged := 0, oldRx := (0, 0), tx := [], keys := {}, annHea := none, identOk := false, paced := [] })
      if s.hea p = noHea then s else announce p port (s.hea p) s
    else s) s

/-- Whether a port has had its peer's announcement agreed with. -/
def Port.identified (q : Port) : Bool := q.state = .keyExchange || q.state = .calibrate || q.state = .up

/-- Whether both announcements agree with the topology record (R20). On a Spindle the record names its own entry by the announced down
port of the rack's map (R23), which must be that of the HEA it has and of its other port (R14). -/
def identMatches (p : Part) (port : Nat) (m : Ident) (s : State) : Bool :=
  let t := (s.core p).topo
  match tfind t.links port with
  | none => false
  | some l =>
    l.hea = m.hea && l.plane = m.plane && l.tier = m.tier &&
      (match p with
       | .spn =>
         let o := s.port .spn (1 - port)
         m.plane = port && (!o.identified || o.peerPort = m.port) && t.portMap.any (fun e => e.1 = m.port && (t.hea = noHea || t.hea = e.2))
       | .crl => l.port = m.port)

/-- Random bytes for the n-th draw of a part. -/
def randomBytes (p : Part) (n k : Nat) : Bytes :=
  (List.range k).map (Config.randomByte (match p with | .spn => 1 | .crl => 2) n)

/-- The key-exchange message cells of a type (R504). -/
def kxCells (kxType : Nat) (content : Bytes) : List Cell :=
  let c : Cell := { cls := clsCtl, typ := typKeyEx, local_ := true }
  cellsOf c 48 48 (lay [(1, kxType), (1, 1), (2, 0), (4, content.length)] ++ content)

/-- The REKEY message cells (R508): 40 payload bytes a cell. -/
def rkCells (kxType : Nat) (content : Bytes) : List Cell :=
  let c : Cell := { cls := clsCtl, typ := typRekey, local_ := true }
  cellsOf c 40 40 (lay [(1, kxType), (1, 1), (2, 0), (4, content.length)] ++ content)

def sendAll (p : Part) (port : Nat) (cs : List Cell) (s : State) : State := cs.foldl (fun s c => sendCell p port c s) s

/-- The initiator of a key exchange, the lower-tier end, sends KX_INIT (R503, R505). -/
def sendInit (p : Part) (port : Nat) (s : State) : State :=
  if (s.port p port).state = .keyExchange && s.lowerEnd p port then
    let d := (s.core p).sec.draws
    let priv := randomBytes p d 96
    let content := priv.take 32 ++ padTo 97 (Config.ecdhPublic (priv.drop 32)) ++ padTo 1568 (Config.kemPublic (priv.drop 32))
    let s := s.modCore p (fun c => { c with sec := { c.sec with draws := c.sec.draws + 1 } })
    let s := s.modPort p port (fun q => { q with keys := { q.keys with priv := priv.drop 32, init := content } })
    sendAll p port (kxCells 1 content) s
  else s

/-- Starts the key exchange, whose messages are SEC's work (R432, R455). -/
def startKeyExchange (p : Part) (port : Nat) (s : State) : State :=
  let s := s.modPort p port (fun q => { q with state := .keyExchange, since := s.tick p, keys := {} })
  byCore p 0 port .startKx (sendInit p port) s

/-- The key exchange begins once the peer's announcement agreed and this end's own has left (R80). -/
def tryKeyExchange (p : Part) (port : Nat) (s : State) : State :=
  let q := s.port p port
  if q.state = .identify && q.identOk && q.annHea.isSome && !q.tx.any (fun c => c.typ = typIdentify) && !trainerDown p port s then
    startKeyExchange p port s
  else s

/-- An announcement agrees with the record and the protocol major, or quarantines the link (R20, R80 to R82). -/
def takeIdentify (p : Part) (port : Nat) (m : Ident) (s : State) : State :=
  if (s.port p port).state ≠ .identify then s
  else
    let s := s.modPort p port (fun q => { q with
      peerHea := m.hea, peerPort := m.port, peerPlane := m.plane, peerTier := m.tier,
      peerMajor := m.major, peerMinor := min m.minor 4, feat := m.feat &&& 7, cred := { q.cred with grant := m.grants } })
    if !identMatches p port m s then
      ((goState p port .quarantine s).portEv p port 4).raise p 0x1206 0 [s.hea p, m.hea, port, m.port]
    else if m.major ≠ 1 then
      ((goState p port .quarantine s).portEv p port 5).raise p 0x1205 0 [s.hea p, port]
    else
      let s := s.modPort p port (fun q => { q with identOk := true })
      let s := match (s.port p port).annHea with
        | some _ => s
        | none => announce p port (((s.core p).topo.portMap.find? (fun e => e.1 = m.port)).map (·.2) |>.getD noHea) s
      tryKeyExchange p port s

/-- An announcement comes; a Creel's core that trains the port judges it (R432, R455). -/
def execIdentifyReceived (p : Part) (port : Nat) (m : Ident) (s : State) : Out :=
  run (port < p.ports) (fun s =>
    if trainerDown p port s then byCore p (pccOf port) port (.ident m) (takeIdentify p port m) s else takeIdentify p port m s) s

/-- Time limit of a training state in ms (R79). -/
def stateLimit : LinkState → Option Nat
  | .trainPhy => some 10
  | .fecLock => some 1
  | .identify => some 1
  | .keyExchange => some 8
  | .calibrate => some 2
  | _ => none

def execLinkStateTimeout (p : Part) (port : Nat) (s : State) : Out :=
  run (port < p.ports) (fun s =>
    let q := s.port p port
    match stateLimit q.state with
    | some ms => if q.since + ms * 1_000_000 ≤ s.tick p && !q.looped then failAttempt p port s else s
    | none => s) s

/-- A Creel leaves HOLD for RUN when any port enters UP (R517); a Spindle sends the confirmations that waited for the port. -/
def leaveHoldOnUp (p : Part) (s : State) : State :=
  match p with
  | .spn => sendConfirm s
  | .crl =>
    let s := { s with cc.sec.downTick := none }
    if s.cc.sec.power = 2 then setPower .crl 0 s else s

/-- 1,088 completed exchanges take the port to UP: attempts 0, and the link-up instant (R80, R107). -/
def execCalibrateComplete (p : Part) (port : Nat) (s : State) : Out :=
  run (port < p.ports) (fun s =>
    let q := s.port p port
    if q.state = .calibrate && 1088 ≤ q.exch.done && !trainerDown p port s then
      let now := s.tick p
      let s := (s.modPort p port (fun q => { q with
        state := .up, since := now, attempts := 0, slot := 0, satWin := 0, bad := 0,
        authFails := [] })).portEv p port 1
      leaveHoldOnUp p s
    else s) s

/-- 8 consecutive bad blocks: UP to DOWN with LINK_DOWN (R80). -/
def linkDown (p : Part) (port : Nat) (s : State) : State := (goState p port .down s).raise p 0x1201 0 [s.hea p, port]

def execLinkLockLost (p : Part) (port : Nat) (s : State) : Out :=
  run (port < p.ports) (fun s =>
    let q := s.port p port
    if q.state = .up && 8 ≤ q.bad then linkDown p port s else s) s

/-- 16 tag failures within any 1 ms: QUARANTINE with LINK_AUTH_FAIL (R80). -/
def execLinkAuthBurst (p : Part) (port : Nat) (s : State) : Out :=
  run (port < p.ports) (fun s =>
    let q := s.port p port
    let burst := q.authFails.any (fun t => 16 ≤ (q.authFails.filter (fun u => t ≤ u && u ≤ t + 1_000_000)).length)
    if q.state = .up && burst then
      ((goState p port .quarantine s).portEv p port 3).raise p 0x1203 0 [s.hea p, port]
    else s) s

/-- One second's corrected symbols: DEGRADED above 1 in 10^5, cleared after 10 windows below 1 in 10^6 (R84). -/
def execLinkDegradedWindow (p : Part) (port : Nat) (symbols : Nat) (corrected : Nat) (s : State) : Out :=
  run (port < p.ports) (fun s =>
    let q := s.port p port
    if q.state ≠ .up then s
    else if symbols < corrected * 100_000 then
      let s' := s.modPort p port (fun q => { q with degraded := true, cleanWin := 0 })
      if q.degraded then s' else (s'.portEv p port 2).raise p 0x1202 0 [s.hea p, port]
    else if corrected * 1_000_000 < symbols then
      s.modPort p port (fun q => { q with cleanWin := q.cleanWin + 1, degraded := q.degraded && q.cleanWin + 1 < 10 })
    else s.modPort p port (fun q => { q with cleanWin := 0 })) s

/-! ## Credits, slots and blocks (R51 to R53, R69 to R75) -/

/-- Credits a sender has left for a class (R72). -/
def Credits.left (c : Credits) (cls : Nat) : Nat :=
  c.grant.getD cls 0 - (c.sent.getD cls 0 + 65536 - c.peer.getD cls 0) % 65536

def bumpAt (l : List Nat) (i : Nat) : List Nat := l.set i ((l.getD i 0 + 1) % 65536)

/-- The buffers of a received cell's class are one freer (R72). -/
def freeCredit (p : Part) (port cls : Nat) (s : State) : State :=
  s.modPort p port (fun q => { q with cred := { q.cred with freed := bumpAt q.cred.freed cls } })

/-- Full counts from an IDLE or LCB (R72). -/
def takeCounts (p : Part) (port : Nat) (counts : List Nat) (s : State) : State :=
  s.modPort p port (fun q => { q with cred := { q.cred with peer := counts.map (· % 65536) } })

/-- An LCB: credits, the peer's state, and DOWN when the peer shows it (R53, R80). -/
def takeLcb (p : Part) (port : Nat) (m : LcbMsg) (s : State) : State :=
  let s := takeCounts p port m.credits s
  let st := (s.port p port).state
  if st = .up && m.state ≠ 7 then linkDown p port s
  else if (stateLimit st).isSome && m.state = 1 then failAttempt p port s
  else s

def execLcbReceived (p : Part) (port : Nat) (m : LcbMsg) (s : State) : Out :=
  run (port < p.ports) (takeLcb p port m) s
def execIdleReceived (p : Part) (port : Nat) (credits : List Nat) (s : State) : Out :=
  run (port < p.ports) (takeCounts p port credits) s

/-- State code of R79. -/
def LinkState.code : LinkState → Nat
  | .disabled => 0
  | .down => 1
  | .trainPhy => 2
  | .fecLock => 3
  | .identify => 4
  | .keyExchange => 5
  | .calibrate => 6
  | .up => 7
  | .quarantine => 8

/-- Content of an LCB (R53). -/
def lcbContent (q : Port) : Bytes :=
  lay ([(1, q.state.code), (1, 0)] ++ [(1, bitAt (q.keys.newSeen.isSome) 0 + bitAt q.degraded 1), (1, 0)]
    ++ q.cred.freed.map (fun c => (2, c)) ++ [(4, q.corr)])

/-- A cell that its port may send now: one its state carries (R79); outside UP no cell of the first three classes back to back or more
often per class and TYPE than once in 1,000 ns (R53, R101; log entry 127); and no tagged cell beyond 2^32 - 1 under one key (R62). -/
def Port.ready (now : Nat) (q : Port) (c : Cell) : Bool :=
  c.admitted q.state && !(c.tagged && 2 ^ 32 - 1 ≤ q.keys.txTagged) &&
    (q.state = .up || 3 ≤ c.cls ||
      (!q.wasCell && q.paced.all (fun e => e.1 ≠ 32 * c.cls + c.typ || e.2 + 1000 ≤ now)))

/-- The class whose first ready cell goes next: the first with a cell and a credit, but BULK after 7 SIGNAL slots that
a BULK cell sat out (R69, R70). -/
def nextClass (now : Nat) (q : Port) : Option Nat :=
  let ok := fun cls => q.tx.any (fun c => c.cls = cls && q.ready now c) && 0 < q.cred.left cls
  if ok 0 then some 0 else if ok 1 then some 1 else if ok 2 then some 2
  else if ok 3 then if ok 4 && 7 ≤ q.sigRun then some 4 else some 3
  else if ok 4 then some 4 else none

/-- The first cell that meets a condition, and the queue without it. -/
def takeFirst (ok : Cell → Bool) : List Cell → Option (Cell × List Cell)
  | [] => none
  | c :: cs => if ok c then some (c, cs) else (takeFirst ok cs).map (fun r => (r.1, c :: r.2))

/-- The port under the key that its next cell takes: the agreed new one, with KP toggled, once no REKEY cell waits (R62, R508). -/
def rollNow (now : Nat) (q : Port) : Port :=
  match q.keys.txNext with
  | some k =>
    if q.tx.any (fun c => c.cls = clsCtl && c.typ = typRekey) then q
    else { q with txSeq := 0, keys := { q.keys with tx := some k, txNext := none, txTagged := 0, kpTx := !q.keys.kpTx, keyAt := now } }
  | none => q

/-- Sends a cell in this slot; `rest` is the queue without it. -/
def slotCell (now : Nat) (q : Port) (c : Cell) (rest : List Cell) : Port :=
  let q := rollNow now q
  let ext := q.txSeq + 1
  let bulkElig := q.tx.any (fun c => c.cls = 4) && 0 < q.cred.left 4
  let id := 32 * c.cls + c.typ
  { q with tx := rest, txSeq := ext,
           lane := some (blockOf 0x5 (cellBytes c q.keys.tx q.keys.kpTx ext q.ccNext (q.cred.freed.getD q.ccNext 0))),
           ccNext := (q.ccNext + 1) % 5, cred := { q.cred with sent := bumpAt q.cred.sent c.cls },
           keys := { q.keys with txTagged := q.keys.txTagged + (if c.tagged then 1 else 0) },
           paced := if q.state = .up then [] else q.paced.filter (fun e => e.1 ≠ id) ++ [(id, now)],
           sigRun := if c.cls = 3 && bulkElig then q.sigRun + 1 else 0 }

/-- Content of a TRAIN block: the lock report and the loop-back request in byte 0, then the training pattern, which no rule states
(R51, R80, R85; log entry 123). -/
def trainContent (q : Port) : Bytes :=
  le 1 (bitAt (marksNeeded ≤ q.goodMarks) 0 + bitAt q.looped 1) ++ (List.range 71).map Config.trainPattern

/-- The block of a port whose lane carries IDLE. -/
def idleBlock (q : Port) : BitVec 640 := blockOf 0xA (lay (q.cred.freed.map (fun c => (2, c))))

/-- A slot of a port whose lane carries cells, IDLE and LCBs, and the cell it carried (R53, R69, R70, R75). DESIGN CHOICE: an LCB that falls
due while one is still owed is merged with it (log entry 128). -/
def cellSlot (now : Nat) (q : Port) : Port × Option Cell :=
  let due := q.lcbDue = 0
  let ready := fun (cls : Nat) => q.tx.any (fun c => c.cls = cls && q.ready now c)
  let q := { q with
    slot := q.slot + 1, lcbDue := if due then 80 else q.lcbDue - 1, lcbOwed := q.lcbOwed || due,
    noCred := (List.range 3).map (fun i => if ready i && q.cred.left i = 0 then q.noCred.getD i 0 + 1 else 0) }
  let urgent := ready 0 || ready 1 || ready 2
  let bulkWaits := q.tx.any (fun c => c.cls = 4)
  let idle : Port := { q with lane := some (idleBlock q), sigRun := 0, wasCell := false }
  let r : Port × Option Cell :=
    if q.lcbOwed && !urgent then
      ({ q with lane := some (blockOf 0x3 (lcbContent q)), lcbOwed := false, sigRun := 0, wasCell := false }, none)
    else match nextClass now q with
      | none => (idle, none)
      | some cls => match takeFirst (fun c => c.cls = cls && q.ready now c) q.tx with
        | none => (idle, none)
        | some (c, rest) => ({ slotCell now q c rest with wasCell := true }, some c)
  let sentBulk := r.2.any (fun c => c.cls = 4)
  ({ r.1 with satWin := r.1.satWin + (if bulkWaits && !sentBulk then 1 else 0) }, r.2)

/-- One block slot: what the lane carries in each state, and the cell that left in it (R79). A port whose peer asks for it in TRAIN_PHY
returns its received lane (R85). -/
def portSlot (now : Nat) (q : Port) : Port × Option Cell :=
  match q.state with
  | .disabled => ({ q with lane := none }, none)
  | .trainPhy =>
    ({ q with lane := if q.peerLoop && !q.looped then q.rxLane else some (blockOf 0xC (trainContent q)) }, none)
  | .down | .fecLock | .quarantine => ({ q with lane := some (idleBlock q), sigRun := 0, wasCell := false }, none)
  | _ => cellSlot now q

/-- Departure stamps of a TREQ or TRESP whose block leaves now (R76, R101): `gt` is the port's GT. -/
def stampSent (gt : Int) (c : Cell) (x : Exch) : Exch :=
  let n := rdLe c.body 0 4
  if c.cls = clsTime && c.typ = 0 then
    { x with open_ := x.open_.map (fun o => if o.n = n then { o with t1 := some (gt + o.txlat) } else o) }
  else if c.cls = clsTime && c.typ = 1 then
    match x.respLat with
    | some (m, lat) => if m = n then { x with respLat := none, lastT3 := some (n, ((gt + lat) % stampWindow).toNat) } else x
    | none => x
  else x

/-- Waiting without credit for 2 cell times (R73). -/
def execCreditStall (p : Part) (port : Nat) (cls : Nat) (s : State) : Out :=
  run (port < p.ports && cls < 5) (fun s =>
    let q := s.port p port
    if cls < 3 && 2 ≤ q.noCred.getD cls 0 && q.tx.any (fun c => c.cls = cls) && q.cred.left cls = 0 then
      (s.portEv p port 7).raise p 0x1207 0 [s.hea p, port, cls]
    else s) s

/-- PORT_SAT payload (R75). -/
def portSatBody (p : Part) (port : Nat) (sat : Bool) (ratio : Nat) (s : State) : Bytes :=
  lay [(1, port), (1, bitAt sat 0), (2, ratio), (8, gtSec (s.gt p)), (4, gtNs (s.gt p))]

/-- Records a PORT_SAT report for placement (R75). -/
def noteSat (hea port : Nat) (sat : Bool) (s : State) : State :=
  let rest := s.crl.sat.filter (· ≠ (hea, port))
  { s with crl.sat := if sat then rest ++ [(hea, port)] else rest }

/-- A window of 65,536 slots ends (R75). -/
def execBulkSatWindowEnd (p : Part) (port : Nat) (s : State) : Out :=
  run (port < p.ports) (fun s =>
    let q := s.port p port
    if q.slot < 65536 then s
    else
      let off := portBase p port + 0x34
      let ratio := min q.satWin 0xFFFF
      let sat := decide (bits (s.reg p (portBase p port)) 8 8 * 256 ≤ q.satWin)
      let old := (s.reg p off).testBit 16
      let s := (s.modPort p port (fun q => { q with slot := 0, satWin := 0 })).setReg p off (ratio + bitAt sat 16)
      if sat = old then s
      else
        let s := s.portEv p port 8
        let body := portSatBody p port sat ratio s
        match p with
        | .spn =>
          if s.spnPart = 0 then s
          else sendTo .spn s.spn.banks.plane
            { ctlCell 0x1B s.spnPart s.spnPepoch body with dst := s.spn.launch.rootHea } s
        | .crl =>
          let mine := s.crl.parts.any (fun (e : Nat × PRoot) => e.2.kids.contains port)
          let s := if mine then noteSat (s.hea .crl) port sat s else s
          let far := (s.crl.ply.trees.filter (fun (e : Nat × Tree) => (tfind s.crl.parts (e.1 / 65536)).isNone
            && (e.2.kids.contains port || e.2.up = some port))).map (fun (e : Nat × Tree) => (e.1 / 65536, e.2.root))
          far.eraseDups.foldl (fun s (d : Nat × Nat) =>
            sendTo .crl .a { ctlCell 0x1B d.1 (tget 0 s.crl.epochs d.1) body with dst := d.2 } s) s) s

def execPortSatReceived (hea : Nat) (part : Nat) (port : Nat) (sat : Bool) (_ratio : Nat) (s : State) : Out :=
  run (part < 0x1_0000 && port < 129) (fun s => if (tfind s.crl.parts part).isSome then noteSat hea port sat s else s) s

/-! ## A received block (R51, R52, R58 to R68) -/

/-- What a received cell's bytes say. -/
def cellOfBytes (b : Bytes) : Cell :=
  let f := rdLe b 1 1
  { cls := rdLe b 0 1 % 8, typ := rdLe b 0 1 / 8, ts := f.testBit 1, last := f.testBit 2, tree := f.testBit 3, up := f.testBit 4,
    local_ := f.testBit 6, hops := rdLe b 5 1 % 16, dst := rdLe b 8 4, src := rdLe b 12 4, part := rdLe b 16 2,
    cidx := rdLe b 18 2 % 4096, pepoch := rdLe b 20 4, body := (b.drop 24).take (if f.testBit 0 then 40 else 48) }

/-- A TYPE that its class defines (R57). -/
def typeDefined (cls typ : Nat) : Bool :=
  match cls with
  | 0 => typ < 4 || typ = 0x10
  | 1 => typ < 2
  | 2 => typ < 0x13 || (0x1B ≤ typ && typ < 0x1F)
  | 3 => typ = 0
  | 4 => typ < 2
  | _ => false

/-- Whether a Creel drops a cell for its DST: an HEA that is reserved or of another hall (R22), but for the 0 of an announcement (R55), or
its own where it is a rack or row Creel without the root role and the cell does not come from its neighbour (R65; log entry 129). -/
def dstDrop (port : Nat) (c : Cell) (s : State) : Bool :=
  let t := s.cc.topo
  let before := c.local_ && c.dst = 0 && (s.port .crl port).state = .identify
  !c.tree && ((!before && (!heaLegal c.dst || heaHall c.dst ≠ heaHall t.hea))
    || (!c.local_ && c.dst = t.hea && t.tier < 3 && !t.hasRoot && c.src ≠ (s.port .crl port).peerHea))

/-- Drops under R58 and R22, and what PX does not carry (R15), by the header and body alone. DESIGN CHOICE: a cell that the port's state
does not carry and TS on a cell that is no TIME cell are dropped and counted here too (log entry 130). -/
def addrDrop (p : Part) (port : Nat) (b : Bytes) (c : Cell) (s : State) : Bool :=
  let f := rdLe b 1 1
  let reserved := f.testBit 7 || 16 ≤ rdLe b 5 1 || 4096 ≤ rdLe b 18 2 || (c.tree && 65536 ≤ c.dst)
  !typeDefined c.cls c.typ || reserved || f.testBit 0 ≠ c.tagged || (c.ts && c.cls ≠ 0)
    || !c.admitted (s.port p port).state
    || (p = .crl && (dstDrop port c s || c.hops = 0))
    || (p = .crl && port = pxPort && !c.onPx)

/-- Whether a part's epoch check passes a cell that came on a port (R67, R68); after a takeover a die takes its partition's cells on
the new root's port alone (R529). -/
def epochPasses (p : Part) (port : Nat) (c : Cell) (s : State) : Bool :=
  match p with
  | .crl =>
    if c.part = 0 || c.part = 0xFFFF then c.pepoch = 0
    else
      let e := tget 0 s.crl.epochs c.part
      if c.tree || c.dst = s.cc.topo.hea then e = c.pepoch else e = c.pepoch || e = 0
  | .spn =>
    if c.part = 0 || c.part = 0xFFFF then
      c.pepoch = 0 && (c.cls = 0 || c.isMgmt || (c.cls = 4 && c.part = 0)
        || (c.part = 0xFFFF && ((c.cls = 2 && c.typ = 0x0B) || (c.cls = 1 && c.tree && c.dst = s.sc.topo.powerTree))))
    else
      let bk := s.spn.banks
      let names := fun m => bankNat m bankPart 2 = c.part && bankNat m bankPepoch 4 = c.pepoch
      let plane := !(c.cls = 1 || c.cls = 2) || c.typ = 0x0F || s.spn.takenOver.isNone || s.spn.takenOver = some (planeOf port)
      (names bk.active || names bk.shadow || (c.cls = 2 && (c.typ = 5 || c.typ = 6) && !c.tree && c.dst = s.sc.topo.hea)) && plane

/-- The key and last numbers that a cell's key phase selects, the new ones where `true` (R61, R62). -/
def phaseKey (q : Port) (kp : Bool) : Option LinkKey × Nat × Nat × Bool :=
  if kp = q.keys.kpRx then (q.keys.rx, q.rxSeq, q.rxTagged, false)
  else if q.keys.newSeen.isSome then (q.keys.rxNew, q.oldRx.1, q.oldRx.2, false)
  else (q.keys.rxNew, 0, 0, true)

/-- The extended number of a received LSEQ, if it lies 1 to 32,768 above the last (R61). -/
def extendSeq (last lseq : Nat) : Option Nat :=
  let d := (lseq + 65536 - last % 65536) % 65536
  if 1 ≤ d ∧ d ≤ 32768 then some (last + d) else none

/-- The port after accepting a cell's sequence number and key phase; the first cell of a new phase makes its key the
current one and keeps the old beside it (R61, R62). -/
def notePhase (q : Port) (kp isNew : Bool) (ext : Option Nat) (tagged : Bool) : Port :=
  let n := ext.getD 0
  if isNew then
    { q with keys := { q.keys with rx := q.keys.rxNew, rxNew := q.keys.rx, kpRx := kp, newSeen := some 1 },
             oldRx := (q.rxSeq, q.rxTagged), rxSeq := n, rxTagged := if tagged then n else 0 }
  else if kp = q.keys.kpRx then
    { q with rxSeq := max q.rxSeq n, rxTagged := if tagged then n else q.rxTagged,
             keys := { q.keys with newSeen := q.keys.newSeen.map (· + 1) } }
  else { q with oldRx := (max q.oldRx.1 n, if tagged then n else q.oldRx.2) }

/-- The header of a PLY_UP message as its first cell gives it (R308); its lanes and ranks are not there yet. -/
def plyHead (c : Cell) : PlyUp :=
  let b := fun o n => rdLe c.body (o - 16) n
  { part := c.part, pepoch := c.pepoch, tree := c.dst % 65536, c := b 16 4, n := b 20 2, op := b 22 1, fmt := b 23 1, outFmt := b 24 1,
    length := b 25 1, rmode := b 26 1 % 8, scaled := (b 26 1).testBit 3, empty := (b 27 1).testBit 0, failed := (b 27 1).testBit 1,
    counted := b 28 4, tLast := b 32 8, cause := b 40 4, ndtie := b 44 2, seed := 0, idx := 0, lanes := [], rank := 0xFFFF_FFFF,
    gap := false, ecc := false }

/-- A Creel notes the header of a PLY_UP message that begins on a port. -/
def noteHead (port : Nat) (c : Cell) (s : State) : State :=
  if c.cls = clsPly && c.typ = 0 && c.cidx = 0 && c.tree then
    { s with crl.ply.heads := tput s.crl.ply.heads (port * 2 ^ 32 + c.part * 65536 + c.dst % 65536) (plyHead c) }
  else s

/-- A damaged cell: counted in LP_CRC_ERR, its buffer freed under the class its header shows (R52, R59, R72; log entry 131). -/
def lostCell (p : Part) (port : Nat) (b : Bytes) (s : State) : State :=
  let cls := rdLe b 0 1 % 8
  let s := s.portCount p port 0x20 1
  if cls < 5 then freeCredit p port cls s else s

/-- The port after a cell that it dropped: its number is the last received all the same (R61). -/
def noteDropped (q : Port) (kp isNew : Bool) (ext : Option Nat) : Port :=
  let n := ext.getD 0
  if isNew then q
  else if kp = q.keys.kpRx then { q with rxSeq := max q.rxSeq n }
  else { q with oldRx := (max q.oldRx.1 n, q.oldRx.2) }

/-- A cell block that FEC decoding passed: CRC, then tag and sequence, then the drops of R58, R67, R68 and R510; an
accepted cell that ends here frees its buffer, a signal's when it is applied or refused (R238); any other waits at the Creel for its
switch. -/
def takeCell (p : Part) (port : Nat) (b : Bytes) (s : State) : State :=
  let q := s.port p port
  let h := b.take 6
  let body := b.drop 8
  if (crc16 (h ++ body)).toNat ≠ rdLe b 6 2 then lostCell p port b s
  else
    let c := cellOfBytes b
    let f := rdLe b 1 1
    let kp := f.testBit 5
    let s := s.modPort p port (fun q =>
      let i := rdLe b 4 1 % 8
      if i < 5 then
        let old := q.cred.peer.getD i 0
        { q with cred := { q.cred with peer := q.cred.peer.set i ((old + (rdLe b 4 1 / 8 + 32 - old % 32) % 32) % 65536) } }
      else q)
    let (key, last, lastTag, isNew) := phaseKey q kp
    let ext := extendSeq last (rdLe b 2 2)
    let dropped := fun (o : Nat) (s : State) =>
      freeCredit p port c.cls ((s.portCount p port o 1).modPort p port (fun q => noteDropped q kp isNew ext))
    if addrDrop p port b c s then (if c.cls < 5 then dropped 0x2C s else s.portCount p port 0x2C 1)
    else
      let fresh := match ext with
        | some n => decide (lastTag < n)
        | none => false
      let tagOk := match key, ext with
        | some k, some n => decide ((body.drop 56) = gmac8 k.key (k.salt ++ be 8 n) (h ++ body.take 56))
        | _, _ => false
      if c.tagged && !(fresh && tagOk) then
        let s := dropped 0x24 s
        if fresh then s.modPort p port (fun q => { q with authFails := (q.authFails ++ [s.tick p]).drop (q.authFails.length - 31) })
        else s
      else
        let s := s.modPort p port (fun q => notePhase q kp (isNew && c.tagged) ext c.tagged)
        if !epochPasses p port c s then freeCredit p port c.cls (s.portCount p port 0x28 1)
        else if q.refuses c then
          let s := match p with
            | .crl => if c.cls = 1 then s.bump .crl 0x4014 1 else s.portCount .crl port 0x24 1
            | .spn => s.portCount .spn port 0x24 1
          freeCredit p port c.cls s
        else match p with
          | .spn => if c.cls = clsSignal then s else freeCredit .spn port c.cls s
          | .crl =>
            if c.local_ || c.cls = clsPly || (c.cls = clsCtl && c.typ = 0x0B) || (c.tree && c.up) || (!c.tree && c.dst = s.cc.topo.hea) then
              freeCredit .crl port c.cls (noteHead port c s)
            else s.modPort .crl port (fun q => { q with rx := q.rx ++ [c] })

/-- A block with a marker error or beyond correction counts toward loss of lock (R52, R80). -/
def badBlock (p : Part) (port : Nat) (s : State) : State := s.modPort p port (fun q => { q with bad := q.bad + 1 })

/-- What a port in training makes of a block: good markers and correctable blocks without a break (R80), and the block itself for a
port that returns its lane (R85). -/
def noteTraining (mark correctable : Bool) (blk : BitVec 640) (q : Port) : Port :=
  { q with goodMarks := if mark then q.goodMarks + 1 else 0, goodBlocks := if correctable then q.goodBlocks + 1 else 0,
           rxLane := if q.state = .trainPhy then some blk else q.rxLane }

/-- A marker and a block type that R51 defines. -/
def goodMark (w : Nat) : Bool := w / 16 = 0x9E3 && (w % 16 = 0x5 || w % 16 = 0xA || w % 16 = 0x3 || w % 16 = 0xC)

/-- A received 80-byte block (R51). DESIGN CHOICE: an uncorrectable block held a cell where its BTYPE as received is that of a cell
(R52; log entry 132). -/
def takeBlock (p : Part) (port : Nat) (blk : BitVec 640) (s : State) : State :=
  let raw := le 80 blk.toNat
  let st := (s.port p port).state
  if st = .disabled then s
  else match rsDecode raw with
    | none =>
      let s := (badBlock p port s).modPort p port (noteTraining (goodMark (rdLe raw 0 2)) false blk)
      if rdLe raw 0 1 % 16 = 0x5 then lostCell p port ((raw.drop 2).take 72) s else s
    | some (b, n) =>
      let s := (s.portCount p port 0x30 n).modPort p port (fun q => { q with corr := (q.corr + n) % 2 ^ 32 })
      let w := rdLe b 0 2
      let t := w % 16
      let s := s.modPort p port (noteTraining (goodMark w) true blk)
      if !goodMark w then badBlock p port s
      else
        let s := s.modPort p port (fun q => { q with bad := 0, heardAt := s.tick p })
        let c := (b.drop 2).take 72
        let counts := fun o => (List.range 5).map (fun i => rdLe c (o + 2 * i) 2)
        if t = 0x5 then takeCell p port c s
        else if t = 0xA then takeCounts p port (counts 0) s
        else if t = 0x3 then
          takeLcb p port { state := rdLe c 0 1, kpAck := (rdLe c 2 1).testBit 0, degraded := (rdLe c 2 1).testBit 1,
                           credits := counts 4, corr := rdLe c 14 4 } s
        else if st = .trainPhy then
          s.modPort p port (fun q => { q with peerMarks := (rdLe c 0 1).testBit 0, peerLoop := (rdLe c 0 1).testBit 1 })
        else s

def execBlockReceived (p : Part) (port : Nat) (blk : BitVec 640) (s : State) : Out :=
  run (port < p.ports) (takeBlock p port blk) s

/-! ## Switching (R64 to R66) -/

/-- The ports a tree cell leaves on: up its one parent port, down every child port (R64, R307). -/
def treePorts (c : Cell) (s : State) : List Nat :=
  match s.plyTree (c.part * 65536 + c.dst) with
  | none => []
  | some t => if c.up then t.up.toList else t.kids

/-- The next waiting cell of a port leaves for its egress ports, HOPS less 1, or is dropped as unroutable. Its buffer is
freed. No cell is switched to a rack or row Creel, which only a neighbour of it reaches (R65). A WHORL_SET that came over PX is sent on in this plane like any other (R415). -/
def switchCell (port : Nat) (s : State) : State :=
  match (s.port .crl port).rx with
  | [] => s
  | c :: rest =>
    let s := freeCredit .crl port c.cls (s.modPort .crl port (fun q => { q with rx := rest }))
    let c' := { c with hops := c.hops - 1 }
    if c.tree then sendOn .crl ((treePorts c s).filter (· ≠ port)) c' s
    else
      match routePort s.cc.topo c.dst with
      | some n => sendCell .crl n c' s
      | none => s.portCount .crl port 0x2C 1

def execCellSwitch (port : Nat) (s : State) : Out := run (port < 129) (switchCell port) s

/-! ## Session keys (R503 to R510) -/

/-- Lowest security version among the running images (R505). -/
def minSecurity (p : Part) (s : State) : Nat :=
  ((((s.core p).fw.flash.filter (fun f => f.kind = 1 && f.state = .active)).map (fun f => rdLe f.image 16 4)).min?).getD 0

/-- A part's device ID; 0 without an identity. -/
def devId (p : Part) (s : State) : Bytes := padTo 8 ((s.core p).sec.devId)

/-- Attestation (R505). -/
def attestation (p : Part) (s : State) : Bytes :=
  let c := s.core p
  let u := c.sec.untrusted
  padTo 64 ((if u then List.replicate 8 0 else devId p s) ++ lay [(1, c.sec.lifecycle), (1, bitAt u 0), (1, c.fw.major),
    (1, c.fw.minor), (2, c.fw.patch), (1, 1), (1, 4), (4, minSecurity p s), (4, c.sec.recCounter), (4, s.hea p)])

/-- What an end signs: the digest of TH, role, attestation and certificate bytes 0 to 2,759 (R505). -/
def authMessage (th : Bytes) (role : Nat) (att cert : Bytes) : Bytes :=
  sha384 (th ++ le 1 role ++ att ++ padTo 2760 cert)

def PortKeys.th (k : PortKeys) : Bytes := sha384 (k.init ++ k.resp)

/-- An end's own KX_AUTH content (R505, R510). A part without identity keys has no identity to certify: its exchanges fail with reason 1
(R515, R518). -/
def kxAuthContent (p : Part) (port : Nat) (s : State) : Bytes :=
  let att := attestation p s
  if (s.core p).sec.untrusted then att
  else
    let cert := padTo 7488 (s.core p).sec.cert
    match (s.core p).sec.identity with
    | none => padTo 12275 att
    | some seed =>
      let m := authMessage (s.port p port).keys.th (if s.lowerEnd p port then 0 else 1) att cert
      att ++ cert ++ padTo 96 (Config.ecdsaSign seed m) ++ padTo 4627 (Config.mldsaSign seed m)

/-- Enters CALIBRATE, the announced identity being authenticated (R82), by which a Spindle has its HEA (R23): session keys of both directions (R507), the exchange begins anew, and an engine that follows the
port acquires (R107). -/
def enterCalibrate (p : Part) (port : Nat) (s : State) : State :=
  let q := s.port p port
  let lower := s.lowerEnd p port
  let own := if (s.core p).sec.untrusted then List.replicate 8 0 else devId p s
  let ids := if lower then own ++ padTo 8 q.keys.peerDev else padTo 8 q.keys.peerDev ++ own
  let label : Bytes := ["CUTORATH LINK 1"].flatMap (fun x => x.toList.map (fun c => BitVec.ofNat 8 c.toNat))
  let okm := hkdfExpand q.keys.prk (label ++ ids) 72
  let up : LinkKey := { key := okm.take 32, salt := (okm.drop 32).take 4 }
  let dn : LinkKey := { key := (okm.drop 36).take 32, salt := (okm.drop 68).take 4 }
  let now := s.tick p
  let s := s.modPort p port (fun q => { q with
    state := .calibrate, since := now, txSeq := 0, rxSeq := 0, rxTagged := 0, exch := {},
    keys := { q.keys with keyAt := now, tx := some (if lower then up else dn), rx := some (if lower then dn else up), priv := [], rolls := 0 } })
  match p with
  | .spn =>
    let pl := planeOf port
    let s := { s with sc.topo.hea := q.annHea.getD s.sc.topo.hea }
    let s := s.modTime .spn (Time.modEng pl (fun e => { e with port := some port }))
    if (s.sc.time.eng pl).state = EngState.off then startAcquire .spn port s else s
  | .crl =>
    let e := s.cc.time.engA
    if s.isLeadRoot || (s.isTimeRoot && port ≠ pxPort) || !(e.port = some port || e.port.isNone) then s
    else
      let s := s.modTime .crl (fun t => { t with engA := { t.engA with port := some port } })
      if e.state = .off then startAcquire .crl port s else s

/-- Whether KEY_EX cells of a port wait. -/
def Port.kxWaits (q : Port) : Bool := q.tx.any (fun c => c.cls = clsCtl && c.typ = typKeyEx)

/-- CALIBRATE begins when this end's KX_AUTH has left and the peer's has been verified (R503). -/
def tryCalibrate (p : Part) (port : Nat) (s : State) : State :=
  let q := s.port p port
  if q.state = .keyExchange && q.keys.sentAuth && q.keys.peerOk && !q.kxWaits then enterCalibrate p port s else s

/-- Sends this end's KX_AUTH. -/
def sendAuth (p : Part) (port : Nat) (s : State) : State :=
  let c := kxAuthContent p port s
  (sendAll p port (kxCells 3 c) s).modPort p port (fun q => { q with keys := { q.keys with sentAuth := true } })

/-- Pseudorandom key of an exchange (R507). -/
def prkOf (salt z k : Bytes) : Bytes := hkdfExtract salt (z ++ k)

/-- KX_INIT at the responder: KX_RESP, the shared secrets, and its own KX_AUTH (R503, R505, R507). -/
def takeInit (p : Part) (port : Nat) (content : Bytes) (s : State) : State :=
  if (s.port p port).state = .keyExchange && !s.lowerEnd p port && content.length = 1697 then
    let d := (s.core p).sec.draws
    let rnd := randomBytes p d 128
    let priv := (rnd.drop 32).take 64
    let kem := Config.kemEncaps (content.drop 129) (rnd.drop 96)
    let resp := rnd.take 32 ++ padTo 97 (Config.ecdhPublic priv) ++ padTo 1568 kem.1
    let th := sha384 (content ++ resp)
    let prk := prkOf th (Config.ecdhShared priv ((content.drop 32).take 97)) kem.2
    let s := s.modCore p (fun c => { c with sec := { c.sec with draws := c.sec.draws + 1 } })
    let s := s.modPort p port (fun q => { q with keys := { q.keys with init := content, resp := resp, prk := prk } })
    sendAuth p port (sendAll p port (kxCells 2 resp) s)
  else s

/-- The message is SEC's work, which waits while SEC is down (R455). -/
def execKxInitReceived (p : Part) (port : Nat) (content : Bytes) (s : State) : Out :=
  run (port < p.ports) (byCore p 0 port (.kxInit content) (takeInit p port content)) s

/-- KX_RESP at the initiator: the shared secrets and its KX_AUTH (R503, R507). -/
def takeResp (p : Part) (port : Nat) (content : Bytes) (s : State) : State :=
  let k := (s.port p port).keys
  if (s.port p port).state = .keyExchange && s.lowerEnd p port && content.length = 1697 && !k.init.isEmpty then
    let th := sha384 (k.init ++ content)
    let prk := prkOf th (Config.ecdhShared k.priv ((content.drop 32).take 97)) (Config.kemDecaps k.priv (content.drop 129))
    let s := s.modPort p port (fun q => { q with keys := { q.keys with resp := content, prk := prk, priv := [] } })
    tryCalibrate p port (sendAuth p port s)
  else s

/-- The message is SEC's work, which waits while SEC is down (R455). -/
def execKxRespReceived (p : Part) (port : Nat) (content : Bytes) (s : State) : Out :=
  run (port < p.ports) (byCore p 0 port (.kxResp content) (takeResp p port content)) s

/-- Why a KX_AUTH is rejected, if it is: the reason of KX_FAIL (R505, R506). -/
def authRejected (p : Part) (port : Nat) (content : Bytes) (s : State) : Option Nat :=
  let sec := (s.core p).sec
  let topo := (s.core p).topo
  let link := tfind topo.links port
  let att := content.take 64
  let untr := (rdLe att 9 1).testBit 0
  if untr && content.length = 64 then
    if (p = .crl && port = pxPort) || link.any (·.noUntrusted) then some 6 else none
  else
    let cert := (content.drop 64).take 7488
    let owner := sec.ownerKeys.getD (rdLe cert 7 1) []
    let certDigest := sha384 (cert.take 2760)
    let msg := authMessage (s.port p port).keys.th (if s.lowerEnd p port then 1 else 0) att cert
    let lc := rdLe att 8 1
    let want := (link.map (·.device)).getD []
    if content.length ≠ 12275 || owner.all (· = 0) || rdLe cert 0 4 ≠ 0x43495953 || rdLe cert 4 2 ≠ 1
        || !Config.ecdsaVerify owner certDigest ((cert.drop 2760).take 96)
        || !Config.mldsaVerify owner certDigest ((cert.drop 2856).take 4627) then some 1
    else if !Config.ecdsaVerify ((cert.drop 64).take 97) msg ((content.drop 7552).take 96)
        || !Config.mldsaVerify ((cert.drop 168).take 2592) msg (content.drop 7648) then some 2
    else if lc ≠ 1 && lc ≠ 2 then some 5
    else if !(want.all (· = 0)) && want ≠ att.take 8 then some 3
    else if rdLe att 16 4 < topo.minSecHall then some 4
    else none

/-- A failed exchange at an end: KEY_FAIL and DOWN with attempts + 1 (R509). -/
def keyFail (p : Part) (port : Nat) (s : State) : State := (failAttempt p port s).setEv p (secEvents p) 5

/-- A port that has rejected its peer fails the attempt once its KX_FAIL has left (R509). -/
def tryKeyFail (p : Part) (port : Nat) (s : State) : State :=
  let q := s.port p port
  if q.state = .keyExchange && q.keys.failing && !q.kxWaits then keyFail p port s else s

/-- A block slot of a port, with what follows when a cell has left: its stamp (R76), and the next state of training that waited for
this end's own message (R80, R503, R509). -/
def sendSlot (p : Part) (port : Nat) (s : State) : State :=
  let q := s.port p port
  let r := portSlot (s.tick p) q
  let gt := ((s.core p).time.eng (engineOf p port)).gt
  let q' := match r.2 with
    | some c => { r.1 with exch := stampSent gt c r.1.exch }
    | none => r.1
  tryKeyFail p port (tryCalibrate p port (tryKeyExchange p port (s.modPort p port (fun _ => q'))))

def execBlockSlotSend (p : Part) (port : Nat) (s : State) : Out := run (port < p.ports) (sendSlot p port) s

/-- KX_AUTH: admission, and CALIBRATE once both are verified; or KX_FAIL (R503, R506, R509, R510). -/
def takeAuth (p : Part) (port : Nat) (content : Bytes) (s : State) : State :=
  let q := s.port p port
  if q.state ≠ .keyExchange || q.keys.prk.isEmpty || q.keys.failing then s
  else match authRejected p port content s with
    | some r =>
      let s := s.modPort p port (fun q => { q with tx := [], keys := { q.keys with failing := true } })
      sendAll p port (kxCells 4 (padTo 8 (le 1 r))) s
    | none =>
      let untr := content.length = 64
      let s := s.modPort p port (fun q => { q with
        keys := { q.keys with
        peerOk := true, peerUntrusted := untr, peerDev := if untr then [] else content.take 8 } })
      tryCalibrate p port s

/-- The message is SEC's work, which waits while SEC is down (R455). -/
def execKxAuthReceived (p : Part) (port : Nat) (content : Bytes) (s : State) : Out :=
  run (port < p.ports) (byCore p 0 port (.kxAuth content) (takeAuth p port content)) s

def execKxFailReceived (p : Part) (port : Nat) (_reason : Nat) (s : State) : Out :=
  run (port < p.ports) (fun s => if (s.port p port).state = .keyExchange then keyFail p port s else s) s

/-- New keys of a rollover (R508): this end sends under its new key from its next cell after its REKEY cells on, and accepts both phases. -/
def rollKeys (p : Part) (port : Nat) (prk : Bytes) (s : State) : State :=
  let q := s.port p port
  let lower := s.lowerEnd p port
  let own := if (s.core p).sec.untrusted then List.replicate 8 0 else devId p s
  let ids := if lower then own ++ padTo 8 q.keys.peerDev else padTo 8 q.keys.peerDev ++ own
  let label : Bytes := ["CUTORATH REKEY 1"].flatMap (fun x => x.toList.map (fun c => BitVec.ofNat 8 c.toNat))
  let okm := hkdfExpand prk (label ++ ids ++ le 4 (q.keys.rolls + 1)) 72
  let up : LinkKey := { key := okm.take 32, salt := (okm.drop 32).take 4 }
  let dn : LinkKey := { key := (okm.drop 36).take 32, salt := (okm.drop 68).take 4 }
  s.modPort p port (fun q => { q with
    keys := { q.keys with prk := prk, rolls := q.keys.rolls + 1, txNext := some (if lower then up else dn),
                          rxNew := some (if lower then dn else up), newSeen := none, rolling := false, priv := [] } })

/-- A direction nears its limit of 2^32 tagged cells or 24 h: RK_INIT with fresh shares; without feature bit 1 the key
change takes the link through DOWN (R62, R82, R508). -/
def startRekey (p : Part) (port : Nat) (s : State) : State :=
  let q := s.port p port
  if q.state ≠ .up || q.keys.rolling then s
  else if !q.feat.testBit 1 then linkDown p port s
  else
    let d := (s.core p).sec.draws
    let priv := randomBytes p d 64
    let s := s.modCore p (fun c => { c with sec := { c.sec with draws := c.sec.draws + 1 } })
    let s := s.modPort p port (fun q => { q with keys := { q.keys with rolling := true, priv := priv } })
    sendAll p port (rkCells 1 (padTo 97 (Config.ecdhPublic priv) ++ padTo 1568 (Config.kemPublic priv))) s

/-- The rollover is SEC's work, which waits while SEC is down (R455). -/
def execRekeyDue (p : Part) (port : Nat) (s : State) : Out :=
  run (port < p.ports) (byCore p 0 port .rekey (startRekey p port)) s

def takeRkInit (p : Part) (port : Nat) (content : Bytes) (s : State) : State :=
  let q := s.port p port
  if q.state = .up && content.length = 1665 then
    let d := (s.core p).sec.draws
    let rnd := randomBytes p d 96
    let kem := Config.kemEncaps (content.drop 97) (rnd.drop 64)
    let resp := padTo 97 (Config.ecdhPublic (rnd.take 64)) ++ padTo 1568 kem.1
    let prk := prkOf q.keys.prk (Config.ecdhShared (rnd.take 64) (content.take 97)) kem.2
    let s := s.modCore p (fun c => { c with sec := { c.sec with draws := c.sec.draws + 1 } })
    rollKeys p port prk (sendAll p port (rkCells 2 resp) s)
  else s

/-- The message is SEC's work, which waits while SEC is down (R455). -/
def execRkInitReceived (p : Part) (port : Nat) (content : Bytes) (s : State) : Out :=
  run (port < p.ports) (byCore p 0 port (.rkInit content) (takeRkInit p port content)) s

def takeRkResp (p : Part) (port : Nat) (content : Bytes) (s : State) : State :=
  let q := s.port p port
  if q.state = .up && q.keys.rolling && content.length = 1665 then
    let prk := prkOf q.keys.prk (Config.ecdhShared q.keys.priv (content.take 97)) (Config.kemDecaps q.keys.priv (content.drop 97))
    rollKeys p port prk s
  else s

/-- The message is SEC's work, which waits while SEC is down (R455). -/
def execRkRespReceived (p : Part) (port : Nat) (content : Bytes) (s : State) : Out :=
  run (port < p.ports) (byCore p 0 port (.rkResp content) (takeRkResp p port content)) s

/-- A port's work that waited for its core. -/
def heldWork (p : Part) (port : Nat) (s : State) : FwWork → State
  | .startKx => sendInit p port s
  | .kxInit c => takeInit p port c s
  | .kxResp c => takeResp p port c s
  | .kxAuth c => takeAuth p port c s
  | .rekey => startRekey p port s
  | .rkInit c => takeRkInit p port c s
  | .rkResp c => takeRkResp p port c s
  | .ident m => takeIdentify p port m s

/-- A core that runs again does the work that waited for it, oldest first (R455). -/
def runHeld (p : Part) (core : Nat) (s : State) : State :=
  if coreDown p core s then s
  else
    let mine := (s.core p).held.filter (fun w => w.core = core)
    let s := s.modCore p (fun c => { c with held := c.held.filter (fun w => w.core ≠ core) })
    mine.foldl (fun s w => heldWork p w.port s w.work) s

/-- 65,536 cells after the first of the new phase the old key goes (R62). -/
def execOldKeyDiscard (p : Part) (port : Nat) (s : State) : Out :=
  run (port < p.ports) (fun s =>
    match (s.port p port).keys.newSeen with
    | some n => if 65536 ≤ n then
        s.modPort p port (fun q => { q with keys := { q.keys with rxNew := none, newSeen := none }, oldRx := (0, 0) })
      else s
    | none => s) s

end Sys2Proof.Machine
end

