-- ==== Sys2Proof/Machine/Time.lean ====
section
/-! DEFINITION. Time transfer and captures: TIME exchanges, servo windows, the lead plane, phase steps and QWORDs
(R39 to R49, R95 to R121, R134, R149). -/

namespace Sys2Proof.Machine

/-! ## Captures (R39 to R44) -/

/-- The earliest edge at which a write that selects a slot can capture it: that of the capture it joins, which on a Creel must name the
same partition, the edge after any other capture that this TICK or a later one has made, else this TICK's (R39). -/
def slotEdge (p : Part) (part n : Nat) (s : State) : Bool × Nat :=
  let now := s.tick p
  let c := (s.core p).time.slot n
  match c.at_ with
  | some a => if a < now then (false, now) else if p = Part.spn || c.part = part then (true, a) else (false, a + 1)
  | none => (false, now)

/-- The capture of one slot at an edge. -/
def captureSlot (p : Part) (part edge n : Nat) (s : State) : State :=
  let c := (s.core p).time.slot n
  let c' := slotTake p part edge s { c with seq := (c.seq + 1) % 65536, stepped := c.fresh, fresh := false }
  s.modTime p (fun t => t.setSlot n c')

/-- A write to TCAP_TRIG captures every selected slot at one edge (R39, R41, R42). -/
def captureTrig (p : Part) (v : Nat) (s : State) : State :=
  let part := match p with
    | .spn => s.spnPart
    | .crl => bits v 16 16
  let slots := (List.range 4).filter (fun n => v.testBit n)
  let edge := slots.foldl (fun e n => max e (slotEdge p part n s).2) (s.tick p)
  slots.foldl (fun s n => if slotEdge p part n s = (true, edge) then s else captureSlot p part edge n s) s

def execTcapTrigWrite (p : Part) (v : Word) (s : State) : Out := run true (captureTrig p v.toNat) s

/-! ## TREQ and TRESP (R101 to R104) -/

/-- The GT in which a port's stamps are taken (R104, R111). -/
def State.portGt (p : Part) (port : Nat) (s : State) : Int := ((s.core p).time.eng (engineOf p port)).gt

/-- A stamp in a window as the instant nearest a GT that lies near it. -/
def nearStamp (gt : Int) (stamp : Int) : Int :=
  let d := (stamp - gt) % stampWindow
  gt + (if d < stampWindow / 2 then d else d - stampWindow)

/-- LP_TXLAT, LP_RXLAT and LP_ASYM of a port (R76, R92). -/
def State.txlat (p : Part) (port : Nat) (s : State) : Nat := s.reg p (portBase p port + 0x08)
def State.rxlat (p : Part) (port : Nat) (s : State) : Nat := s.reg p (portBase p port + 0x0C)
def State.lpAsym (p : Part) (port : Nat) (s : State) : Int := toSigned 32 (s.reg p (portBase p port + 0x10))

/-- The number of the last phase step that a part's GT holds (R119). -/
def Time.lastStep (t : Time) : Nat := t.stepNo

/-- What a part advertises as its root's heartbeat (R103). -/
def State.heartbeat (p : Part) (port : Nat) (s : State) : Nat :=
  match p with
  | .spn => ((s.port .spn port).exch.heard.map (·.hb)).getD 0
  | .crl => if s.isTimeRoot then s.crl.ref.hb else ((s.parentHeard .crl).map (·.hb)).getD 0

/-- S as a port advertises it: that of the port's own plane on a Spindle (R102). -/
def State.portS (p : Part) (port : Nat) (s : State) : Nat :=
  match p with
  | .spn => ((s.port .spn port).exch.heard.map (fun h => min (h.s + 1) 0xF)).getD 0xF
  | .crl => s.crlS

/-- The time root a part advertises (R102). -/
def State.rootHeard (p : Part) (port : Nat) (s : State) : Nat :=
  match p with
  | .spn => ((s.port .spn port).exch.heard.map (·.root)).getD noHea
  | .crl => if s.isTimeRoot then s.hea .crl else ((s.parentHeard .crl).map (·.root)).getD noHea

/-- ROOT_LOST as a part advertises it (R102). -/
def State.lostFlag (p : Part) (port : Nat) (s : State) : Bool :=
  match p with
  | .spn => ((s.port .spn port).exch.heard.map (·.rootLost)).getD false
  | .crl => s.noParent

/-- Payload of TREQ and TRESP (R102). A TREQ carries no stamp: zeros. A TRESP whose t3 was not taken carries a free value in its place (log entry 21). -/
def timeBody (p : Part) (port n : Nat) (t2 t3 : Option Nat) (s : State) : Bytes :=
  let t := (s.core p).time
  let asym := if s.lowerEnd p port then s.reg p (portBase p port + 0x10) else 0
  lay [(4, n), (8, t2.getD 0), (8, t3.getD 0), (4, s.rootHeard p port), (1, s.portS p port), (1, s.tq p),
    (1, bitAt (t.lead = s.portPlane p port) 0 + bitAt (s.lostFlag p port) 1), (1, t.lastStep % 256),
    (4, s.heartbeat p port), (4, asym), (4, gtSec (s.portGt p port) / 65536)]

/-- A port in which TIME exchanges run. -/
def Port.timed (q : Port) : Bool := q.state = LinkState.calibrate || q.state = LinkState.up

/-- One TREQ every 1,000 ns (R101), with the latencies and ASYM of its exchange (R78); it is stamped when its block leaves. At most 64
requests stay open. -/
def treqSend (p : Part) (port : Nat) (s : State) : State :=
  let q := s.port p port
  let now := s.tick p
  let due := match q.exch.sentAt with
    | some t => decide (t + 1000 ≤ now)
    | none => true
  if q.timed && due then
    let n := (q.exch.n + 1) % 2 ^ 32
    let o : OpenReq := { n := n, asym := s.lpAsym p port, rxlat := s.rxlat p port, txlat := s.txlat p port }
    let s' := s.modPort p port (fun q => { q with
      exch := { q.exch with
      n := n, open_ := (q.exch.open_ ++ [o]).drop (q.exch.open_.length - 63), seen := q.exch.seen + 1, sentAt := some now } })
    sendCell p port (timeCell 0 true (timeBody p port n none none s)) s'
  else s

def execTreqSend (p : Part) (port : Nat) (s : State) : Out := run (port < p.ports) (treqSend p port) s

/-- A time root that has not yet led since its reset joins as the non-lead root where its partner leads (R118, log entry 138). -/
def joinFollow (s : State) : State :=
  if s.isLeadRoot && s.crl.ref.state = .freeRun && !s.crl.ref.everLock then takeUnitRole (followOverPx s) else s

/-- What a TIME cell says of its sender (R98, R102, R103); a leader that it shows unfit is followed no more (R99, R107). On PX any TIME
cell counts as a beat (R116). The rows counted from LEAD_LOST are forgotten when the partner is heard to lead (log entry 137). -/
def noteHeard (p : Part) (port : Nat) (m : TimeMsg) (s : State) : State :=
  let old := (s.port p port).exch.heard
  let beat := match old with
    | some h => h.hb ≠ m.heartbeat || (p = Part.crl && port = pxPort)
    | none => true
  let age := if beat then 0 else (old.map (·.hbAge)).getD 0
  let h : Heard := { root := m.root, s := m.s, tq := m.tq, lead := m.lead, rootLost := m.rootLost, hb := m.heartbeat, hbAge := age
                     stepNo := m.stepNo }
  let s := s.modPort p port (fun q => { q with exch := { q.exch with
    heard := some h, lockedAt := if m.tq % 16 = 0 then q.exch.lockedAt.orElse (fun _ => some (s.tick p)) else none } })
  let pl := s.portPlane p port
  match p with
  | .spn =>
    let long := 3 ≤ m.s && m.s ≤ 6
    let was := match old with
      | some h => 3 ≤ h.s && h.s ≤ 6
      | none => false
    let s := if long && !was then timeAlarm .spn 0x1104 3 [planeNat pl, port] s else s
    let otherLeads := ((s.port .spn (1 - port)).exch.heard.any (fun h => h.lead && !h.rootLost))
    let s := if m.rootLost then s
      else if m.lead then s.modTime .spn (fun t => { t with lead := pl })
      else if otherLeads then s.modTime .spn (fun t => { t with lead := otherPlane pl })
      else s
    let s := if pl = s.sc.time.track && !m.rootLost then s.modTime .spn (fun t => { t with rootClass := m.tq / 16 }) else s
    checkEngine pl s
  | .crl =>
    let s := if port = pxPort && m.lead then joinFollow { s with crl.ref.lostRows := [] } else s
    let s := if s.cc.time.engA.port = some port && !s.isTimeRoot && !m.rootLost then
      s.modTime .crl (fun t => { t with rootClass := m.tq / 16, lead := if m.lead then pl else otherPlane pl })
    else s
    if s.cc.time.engA.port = some port then checkParent s else s

/-- A TREQ is stamped and answered (R101, R102). The TRESP carries the departure stamp of the one before it. -/
def treqReceived (p : Part) (port : Nat) (m : TimeMsg) (stamp : Nat) (s : State) : State :=
  if (s.port p port).timed then
    let s := noteHeard p port m s
    let t2 := (((stamp : Int) - s.rxlat p port) % stampWindow).toNat
    let t3 := match (s.port p port).exch.lastT3 with
      | some (n, t) => if (n + 1) % 2 ^ 32 = m.n then some t else none
      | none => none
    let lat := s.txlat p port
    let s' := s.modPort p port (fun q => { q with exch := { q.exch with lastT3 := none, respLat := some (m.n, lat) } })
    sendCell p port (timeCell 1 true (timeBody p port m.n (some t2) (some (t3.getD (Config.noStamp m.n).toNat)) s)) s'
  else s

def execTreqReceived (p : Part) (port : Nat) (m : TimeMsg) (stamp : Nat) (s : State) : Out :=
  run (port < p.ports) (treqReceived p port m stamp) s

/-- What the phase steps that only one end has applied take off theta, given the low byte of the leader's last step
number; none where a step's amount is not held (R104). -/
def Time.stepDiff (peer : Nat) (t : Time) : Option Int :=
  let own := t.lastStep
  let d := (peer + 256 - own % 256) % 256
  let amtOf := fun (l : List PStep) (num : Nat) => (l.find? (fun e => e.num = num % 2 ^ 32)).map (·.amt)
  let total := fun (l : List PStep) (nums : List Nat) =>
    nums.foldl (fun (a : Option Int) n => a.bind (fun a => (amtOf l n).map (a + ·))) (some 0)
  if d = 0 then some 0
  else if d < 128 then total t.pendSteps ((List.range d).map (fun i => own + 1 + i))
  else (total t.applied ((List.range (256 - d)).map (fun i => own + 2 ^ 32 - i))).map (fun a => -a)

/-- The correction of an exchange. A part that acquires takes plane time with the steps in it that it does not hold (R49, log entry 140). -/
def stepCorrection (acq : Bool) (peer : Nat) (t : Time) : Option Int :=
  match t.stepDiff peer with
  | none => if acq then some 0 else none
  | some x => some x

/-- The delay gate and the accumulation of an exchange's theta (R104 to R106). The first accepted exchange since CALIBRATE sets d_avg (log
entry 23). -/
def gateExchange (lower : Bool) (h : Half) (t3 : Int) (x : Exch) : Exch :=
  let x := { x with done := x.done + 1 }
  match h.corr with
  | none => x
  | some corr =>
    let d : Rat := ((h.t4 - h.t1) - (t3 - h.t2) : Int)
    let a : Rat := if lower then h.asym else -h.asym
    let th : Rat := ((h.t2 - h.t1 : Int) : Rat) - d / 2 - a - corr
    let dev := d - x.dAvg
    if x.ungated = 0 && !(dev ≤ ns16 (1 / 20) && -dev ≤ ns16 (1 / 20)) then x
    else
      { x with
        acc := x.acc + th, k := x.k + 1, ungated := x.ungated - 1,
        dAvg := if x.avgSet then x.dAvg + dev / 64 else d, avgSet := true }

/-- A TRESP: it completes the exchange before it, and its own exchange then waits for its t3 (R104). -/
def trespReceived (p : Part) (port : Nat) (m : TimeMsg) (stamp : Option Nat) (s : State) : State :=
  if (s.port p port).timed then
    let s := noteHeard p port m s
    let x := (s.port p port).exch
    let lower := s.lowerEnd p port
    let acq := ((s.core p).time.eng (engineOf p port)).stage = .acq
    let full := fun (st : Nat) => (m.secHi : Int) * stampWindow + st
    let x := match x.prev, m.t3 with
      | some h, some t3 => if (h.n + 1) % 2 ^ 32 = m.n then gateExchange lower h (full t3) x else x
      | _, _ => x
    let half := match x.open_.find? (fun o => o.n = m.n), m.t2, stamp with
      | some { t1 := some t1, asym := asym, rxlat := rxlat, .. }, some t2, some t4 =>
        some { n := m.n, t1 := t1, t2 := full t2, t4 := nearStamp (s.portGt p port) ((t4 : Int) - rxlat),
               asym := if lower then asym else m.asym, corr := stepCorrection acq m.stepNo (s.core p).time : Half }
      | _, _, _ => none
    let rest := (x.open_.dropWhile (fun o => o.n ≠ m.n)).drop 1
    let open_ := if x.open_.any (fun o => o.n = m.n) then rest else x.open_
    s.modPort p port (fun q => { q with exch := { x with prev := half, open_ := open_ } })
  else s

def execTrespReceived (p : Part) (port : Nat) (m : TimeMsg) (stamp : Option Nat) (s : State) : Out :=
  run (port < p.ports) (trespReceived p port m stamp) s

/-! ## The servo (R105 to R107) -/

/-- kp and ki of a stage (R105). -/
def Stage.gains : Stage → Rat × Rat
  | .fast => (1 / 4, 1 / 64)
  | .mid => (1 / 32, 1 / 2048)
  | .lock => (1 / 256, 1 / 131072)
  | _ => (0, 0)

def clampRat (lo hi x : Rat) : Rat := if x < lo then lo else if hi < x then hi else x
def within (x lim : Rat) : Bool := x ≤ lim && -x ≤ lim

/-- The engine's correction at a window end (R106). GT takes the whole units of 2^-16 ns of its one step. -/
def Engine.correct (th? : Option Rat) (e : Engine) : Engine :=
  match th? with
  | none =>
    { e with starve := e.starve + 1, in1ns := 0, in10ps := 0, out100 := 0, out1us := 0,
             steer := if e.stage = .est then 0 else e.y }
  | some th =>
    let e := { e with starve := 0, th := th }
    match e.stage with
    | .acq => { e with gt := e.gt + th.floor, stage := .est, thBuf := [], steer := 0 }
    | .est =>
      let buf := e.thBuf ++ [th]
      if buf.length = 16 then
        { e with y := (th - buf.headD 0) / 15, stage := .fast, thBuf := [], steer := 0 }
      else { e with thBuf := buf, steer := 0 }
    | st =>
      let y := e.y + st.gains.2 * th
      { e with
        y := y, steer := clampRat (-ns16 32) (ns16 32) (st.gains.1 * th + y),
        in1ns := if within th (ns16 1) && st = .fast then e.in1ns + 1 else 0,
        in10ps := if within th (ns16 (1 / 100)) then min (e.in10ps + 1) 15625 else 0,
        out100 := if within th (ns16 (1 / 10)) then 0 else e.out100 + 1,
        out1us := if within th (ns16 1000) then 0 else e.out1us + 1 }

/-- The engine's transitions at a window end, and the alarm (code, bit) of the one taken (R107). `up` is the TICK of the followed port's
link-up while it is in UP. -/
def Engine.move (now : Nat) (up : Option Nat) (leaderLocked : Bool) (e : Engine) : Engine × Option (Nat × Nat) :=
  if 16 ≤ e.starve then (e.lose, some (0x1101, 0))
  else if (e.state = .fine || e.state = .locked) && 4 ≤ e.out1us then (e.acquire, some (0x1102, 1))
  else if e.state = .locked && 16 ≤ e.out100 then ({ e with state := .fine, stage := .mid, in10ps := 0 }, some (0x1103, 2))
  else if e.state = .acquiring && e.stage = .fast && 16 ≤ e.in1ns then ({ e with state := .fine }, none)
  else if e.state = .fine && up.any (fun t => t + 2_000_000_000 ≤ now) && leaderLocked && 15625 ≤ e.in10ps then
    ({ e with state := .locked, stage := .lock, out100 := 0 }, none)
  else if e.state = .fine && e.stage = .fast && up.any (fun t => t + 50_000_000 ≤ now) then ({ e with stage := .mid }, none)
  else (e, none)

/-- A part's D for a partition whose root holds `d`: less the steps that only the Creel modelled here has applied, more those that only the
Spindle has (R36, R119). -/
def State.dieD (d : Int) (s : State) : Int :=
  let t := s.sc.time
  let u := s.cc.time
  let sum := fun (l : List PStep) (m : List PStep) => ((l.filter (fun e => m.any (fun x => x.num = e.num))).map (·.amt)).foldl (· + ·) 0
  d - sum t.pendSteps u.applied + sum t.applied u.pendSteps

/-- A part that has missed phase steps takes its new D from the partition root (R49): the Spindle from the Creel modelled here where that is
its root; what another root sends is free (log entry 140). -/
def renewD (p : Part) (s : State) : State :=
  match p with
  | .spn =>
    match tfind s.crl.held s.serves.1 with
    | some h => if s.spn.launch.rootHea = s.hea .crl then { s with spn.banks.dcor := s.dieD h.2 } else
      { s.draw.2 with spn.banks.dcor := toSigned 64 s.draw.1 }
    | none => { s.draw.2 with spn.banks.dcor := toSigned 64 s.draw.1 }
  | .crl => s.crl.held.foldl (fun s (e : Nat × Nat × Int) =>
      { s.draw.2 with crl.held := tput s.crl.held e.1 (e.2.1, toSigned 64 s.draw.1) }) s

/-- The number that a part takes over with plane time: the nearest to its own with the leader's low byte. -/
def adoptNo (own peer : Nat) : Nat :=
  let d := (peer + 256 - own % 256) % 256
  if d < 128 || own < 256 - d then (own + d) % 2 ^ 32 else own - (256 - d)

/-- The step to plane time of a part that has missed phase steps: it takes over the leader's step number, and its D anew (R49). -/
def adoptSteps (p : Part) (peer : Nat) (s : State) : State :=
  let t := (s.core p).time
  if (t.stepDiff peer).isSome then s
  else
    let n := adoptNo t.stepNo peer
    renewD p (s.modTime p (fun t => { t with stepNo := n, pendSteps := t.pendSteps.filter (fun e => n < e.num) }))

/-- A window of an engine that a port drives. The first step to plane time makes GT valid and, before any, chooses the
tracked plane (R47). -/
def engineWindow (p : Part) (port : Nat) (th? : Option Rat) (s : State) : State :=
  let pl := engineOf p port
  let e := (s.core p).time.eng pl
  if e.state = .off || e.state = .lost then s
  else
    let q := s.port p port
    let locked := q.exch.heard.any (fun h => h.tq % 16 = 0)
    let stepping := e.stage = .acq && th?.isSome
    let first := stepping && !(s.core p).time.gtValid
    let s := if stepping then adoptSteps p ((q.exch.heard.map (·.stepNo)).getD 0) s else s
    let r := (e.correct th?).move (s.tick p) (if q.state = .up then some q.since else none) locked
    let old := s.gt p
    let s := s.modTime p (Time.modEng pl (fun _ => r.1))
    let s := if first then s.modTime p (fun t => { t with gtValid := true, track := if p = .spn then pl else t.track }) else s
    let s := if first || s.gt p ≠ old then noteStep p true s else s
    match r.2 with
    | none => s
    | some a =>
      let s := timeAlarm p a.1 a.2 [planeNat (s.portPlane p port), port] s
      if r.1.state = .acquiring then s.modPort p port (fun q => { q with exch := { q.exch with ungated := 64 } }) else s

/-- The measured A–B offset at a window end of the tracked plane, its filter and alarm, and the decay of c (R111, R114). -/
def planeOffset (s : State) : State :=
  let t := s.sc.time
  let s := if s.usable .a && s.usable .b then
    let d : Rat := (t.engB.gt - t.engA.gt : Int) + t.engB.frac - t.engA.frac
    let bad := if within d (ns16 (1 / 2)) then 0 else t.abBad + 1
    let s := s.modTime .spn (fun t => { t with ab := t.ab + (d - t.ab) / 1024, abBad := bad })
    if bad = 16 then timeAlarm .spn 0x1108 6 [planeNat t.track, planeNat t.track] s else s
  else s.modTime .spn (fun t => { t with abBad := 0 })
  if t.track = t.lead then s.modTime .spn (fun t => { t with c := t.c - t.c / 4096, decay := t.c ≠ 0 })
  else s.modTime .spn (fun t => { t with decay := false })

/-- Whether a port is the one whose windows are the time root's own (R103): its first port that exchanges TIME cells (log
entry 24). -/
def State.rootWindowPort (port : Nat) (s : State) : Bool := (s.cc.ports.find? (fun e => e.2.timed)).map (·.1) = some port

/-- The count of windows for which a candidate other than the parent has been better, and the change after 16 (R99). -/
def betterCount (port : Nat) (s : State) : State :=
  match s.cc.time.engA.port with
  | none => s
  | some cur =>
    let b := match s.parentCost port, s.parentCost cur with
      | some c, some c0 => port ≠ cur && parentBetter s.cc.topo (c, port) (c0, cur)
      | _, _ => false
    let n := if b then (s.port .crl port).exch.better + 1 else 0
    let s := s.modPort .crl port (fun q => { q with exch := { q.exch with better := if n = 16 then 0 else n } })
    if n = 16 then changeParent port s else s

/-- A die that reaches LOCKED or PLANE_B may launch again (R49), confirms the membership that waits (R34), and in a partition has done so
there (R196). -/
def noteLocked (s : State) : State :=
  let l := s.localState .spn
  if l = 0 || l = 3 then
    let s := sendConfirm (s.modTime .spn (fun t => { t with reacq := false }))
    if s.spnPart ≠ 0 then { s with spn.launch.everLocked := true } else s
  else s

/-- A window of 64 exchanges ends on a port (R105 to R107, R111 to R116). -/
def windowEnd (p : Part) (port : Nat) (s : State) : State :=
  let q := s.port p port
  if !q.timed || q.exch.seen < 64 then s
  else
    let th? : Option Rat := if 48 ≤ q.exch.k then some (q.exch.acc / q.exch.k) else none
    let s := s.modPort p port (fun q => { q with
      exch := { q.exch with
      acc := 0, k := 0, seen := 0, th := th?.getD q.exch.th,
      heard := q.exch.heard.map (fun h => { h with hbAge := h.hbAge + 1 }) } })
    let s := if s.drives p port then engineWindow p port th? s else s
    match p with
    | .spn =>
      let s := checkEngine (planeOf port) s
      let s := if planeNat s.sc.time.track = port then planeOffset s else s
      noteLocked (choosePlane s)
    | .crl =>
      let s := if s.isTimeRoot && s.rootWindowPort port then { s with crl.ref.hb := (s.crl.ref.hb + 1) % 2 ^ 32 } else s
      checkParent (betterCount port s)

/-- The window's two figures stand in the state; the row carries none of its own. -/
def execServoWindowEnd (p : Part) (port : Nat) (_ : Unit) (s : State) : Out := run (port < p.ports) (windowEnd p port) s

/-! ## The lead plane (R117, R118) -/

/-- LEAD_LOST, every 1 ms while the lead plane's rack Creel shows ROOT_LOST with the expected root (R117). -/
def leadLostSend (s : State) : State :=
  let lead := s.sc.time.lead
  let other := otherPlane lead
  let now := s.sc.time.tick
  let seen := match (s.port .spn (planeNat lead)).exch.heard with
    | some h => h.rootLost && h.root = s.sc.topo.timeRoot lead
    | none => false
  if !seen then s.modTime .spn (fun t => { t with leadLostTick := none })
  else
    let due := match s.sc.time.leadLostTick with
      | some t => decide (t + 1_000_000 ≤ now)
      | none => true
    if due then
      let dst := ((s.port .spn (planeNat other)).exch.heard.map (·.root)).getD noHea
      let c : Cell := { ctlCell 0x11 0xFFFF 0 (lay [(4, s.sc.topo.timeRoot lead), (1, planeNat lead)]) with dst := dst }
      sendTo .spn other c (s.modTime .spn (fun t => { t with leadLostTick := some now }))
    else s

def execLeadLostSend (s : State) : Out := run true leadLostSend s

/-- LEAD_LOST at the non-lead time root: its row counts toward a majority (R117). -/
def leadLostReceived (src lostRoot lostPlane : Nat) (s : State) : State :=
  let lead := s.cc.time.lead
  if s.isFollowRoot && lostPlane = planeNat lead && lostRoot = s.cc.topo.timeRoot lead && spnHea src then
    tryTakeLead { s with crl.ref.lostRows := (s.crl.ref.lostRows ++ [heaRow src]).eraseDups }
  else s

def execLeadLostReceived (src : Nat) (lostRoot : Nat) (lostPlane : Nat) (s : State) : Out :=
  run true (leadLostReceived src lostRoot lostPlane) s

/-- Ports on which a Creel forwards LEAD_CHANGE and PHASE_STEP: every port in UP, PX among them. -/
def forwardTime (c : Cell) (s : State) : State := sendOn .crl (s.upPorts .crl) c s

/-- TYPEs of the two cells, by which `TIME_STEP` names a late one (R100, R118, R119). -/
def typLeadChange : Nat := 2
def typPhaseStep : Nat := 3
def leadChangeCell (sec : Nat) (plane : Plane) : Cell := timeCell typLeadChange false (lay [(8, sec), (1, planeNat plane)])
def phaseStepCell (st : PStep) : Cell := timeCell typPhaseStep false (lay [(8, st.sec), (8, toUnsigned 64 st.amt), (4, st.num)])

/-- LEAD_CHANGE: forwarded once, and due at its second, or at the part's next second when that has passed (R118). -/
def takeLeadChange (p : Part) (port sec : Nat) (plane : Plane) (s : State) : State :=
  let t := (s.core p).time
  let known := t.leadChange.any (fun e => e.2 = plane) || (t.leadChange.isNone && t.lead = plane)
  if known then s
  else
    let gt := s.gt p
    let late := decide ((sec : Int) * unitsPerSec ≤ gt)
    let at_ := if late then gtSec gt + 1 else sec
    let s := s.modTime p (fun t => { t with leadChange := some (at_, plane) })
    let s := if late then timeAlarm p 0x1102 1 [planeNat (s.portPlane p port), port, typLeadChange] s else s
    match p with
    | .spn => s
    | .crl => forwardTime (leadChangeCell sec plane) s

def execLeadChangeReceived (p : Part) (port : Nat) (sec : Nat) (plane : Plane) (s : State) : Out :=
  run (port < p.ports) (takeLeadChange p port sec plane) s

/-- Exchanges that a boundary falls into are discarded (R104). -/
def dropExchanges (p : Part) (s : State) : State :=
  (s.core p).ports.foldl (fun s e => s.modPort p e.1 (fun q => { q with exch := { q.exch with open_ := [] } })) s

/-- The boundary of a lead change: the roots exchange roles without a step, and a Spindle whose engine for the new lead
plane is usable switches to it (R118). -/
def leadBoundary (p : Part) (s : State) : State :=
  match (s.core p).time.leadChange with
  | none => s
  | some (sec, plane) =>
    if s.gt p < (sec : Int) * unitsPerSec then s
    else
      let s := dropExchanges p (s.modTime p (fun t => { t with leadChange := none, lead := plane }))
      match p with
      | .spn => if s.usable plane then switchTo plane s else s
      | .crl =>
        if !s.isTimeRoot then s
        else takeUnitRole (if s.isLeadRoot then leadFromUnit s else followOverPx (s.modTime .crl (fun t => { t with gtValid := true })))

def execLeadChangeBoundary (p : Part) (s : State) : Out := run true (leadBoundary p) s

/-! ## Phase steps (R119, R149) -/

/-- Whether a part has applied a step or holds it to come. -/
def Time.knowsStep (t : Time) (num : Nat) : Bool := t.pendSteps.any (fun e => e.num = num) || t.applied.any (fun e => e.num = num)

/-- PHASE_STEP: once per number, forwarded by a Creel; past its boundary it is applied at the part's next second (R119).
At the lead root the partner's copy is the row PHASE_STEP_PX_RETURN. -/
def takePhaseStep (p : Part) (port : Nat) (st : PStep) (s : State) : State :=
  let t := (s.core p).time
  if t.knowsStep st.num || (p = Part.crl && s.isLeadRoot) then s
  else
    let gt := s.gt p
    let late := decide ((st.sec : Int) * unitsPerSec ≤ gt)
    let due := if late then { st with sec := gtSec gt + 1 } else st
    let s := s.modTime p (fun t => { t with pendSteps := t.pendSteps ++ [due] })
    let s := if late then timeAlarm p 0x1102 1 [planeNat (s.portPlane p port), port, typPhaseStep] s else s
    match p with
    | .spn => s
    | .crl => forwardTime (phaseStepCell st) s

def execPhaseStepReceived (p : Part) (port : Nat) (sec : Nat) (amt : Int) (num : Nat) (s : State) : Out :=
  run (port < p.ports) (takePhaseStep p port { sec := sec, amt := amt, num := num }) s

/-- One step moves GT and the D of every partition the part holds, in one TICK cycle; DTC does not move (R36, R119). -/
def applyStep (p : Part) (st : PStep) (s : State) : State :=
  let s := s.modTime p (fun t =>
    { t with
      engA := { t.engA with gt := t.engA.gt + st.amt },
      engB := if p = .spn then { t.engB with gt := t.engB.gt + st.amt } else t.engB,
      applied := (t.applied ++ [st]).drop (t.applied.length - 15), stepNo := st.num })
  match p with
  | .spn => noteStep .spn true { s with spn.banks.dcor := s.spn.banks.dcor + st.amt }
  | .crl =>
    let s := noteStep .crl true { s with crl.held := s.crl.held.map (fun (e : Nat × Nat × Int) => (e.1, (e.2.1, e.2.2 + st.amt))) }
    if s.crl.ref.step.any (fun (r : RootStep) => r.step.num = st.num) then { s with crl.ref.step := none } else s

/-- The boundary of pending steps that are due (R119). -/
def phaseBoundary (p : Part) (s : State) : State :=
  let gt := s.gt p
  let due := fun (e : PStep) => decide ((e.sec : Int) * unitsPerSec ≤ gt)
  let now := (s.core p).time.pendSteps.filter due
  if now.isEmpty then s
  else
    let s := s.modTime p (fun t => { t with pendSteps := t.pendSteps.filter (fun e => !due e) })
    now.foldl (fun s e => applyStep p e s) (dropExchanges p s)

def execPhaseStepBoundary (p : Part) (s : State) : Out := run true (phaseBoundary p) s

/-- The host command that waits for a step, if any, completes (R468). -/
def completeStep (r : RootStep) (status : Nat) (s : State) : State :=
  match r.q with
  | some q =>
    let res := if status = 0 then lay [(8, r.step.sec), (4, r.step.num)] else []
    complete .crl q r.code 2 status 0 res s
  | none => s

/-- No copy within 1 ms: the step is abandoned (R149). -/
def stepAbandoned (num : Nat) (s : State) : State :=
  match s.crl.ref.step with
  | none => s
  | some r =>
    if r.step.num ≠ num || r.sentDown || s.cc.time.tick < r.issued + 1_000_000 then s
    else
      let s := ({ s with crl.ref.step := none } |>.setEv .crl 0x3014 6).raise .crl 0x1303 0 [num]
      completeStep r 4 s

/-- The partner's copy has returned: the cell goes down, and the step is to come here too; a copy that is later than 1 ms abandons the step
(R149). -/
def stepReturned (num : Nat) (s : State) : State :=
  match s.crl.ref.step with
  | none => s
  | some r =>
    if r.step.num ≠ num || r.sentDown then s
    else if r.issued + 1_000_000 < s.cc.time.tick then stepAbandoned num s
    else
      let s := { s with crl.ref.step := some { r with sentDown := true, q := none } }
      let s := s.modTime .crl (fun t => { t with pendSteps := t.pendSteps ++ [r.step] })
      let s := sendOn .crl ((s.upPorts .crl).filter (· ≠ pxPort)) (phaseStepCell r.step) s
      completeStep r 0 (s.setEv .crl 0x3014 5)

def execPhaseStepPxReturn (num : Nat) (s : State) : Out := run true (stepReturned num) s

def execPhaseStepAbandon (num : Nat) (s : State) : Out := run true (stepAbandoned num) s

/-! ## QWORD (R134, R135) -/

/-- clockClass and SSM that a root class is advertised with (R133). -/
def classOut (c : Nat) : Nat × Nat :=
  match c with
  | 0 => (6, 0x2)
  | 1 => (7, 0x4)
  | 2 => (140, 0x8)
  | 3 => (248, 0xB)
  | _ => (0xFF, 0xF)

def UnitState.code : UnitState → Nat
  | .freeRun => 0
  | .acquire => 1
  | .locked => 2
  | .holdover => 3
  | .follow => 4
  | .monitor => 5

def qwordBody (m : Qword) : Bytes :=
  lay [(4, m.root), (1, m.rclass), (1, m.unitState), (1, m.refId), (1, m.iq), (4, m.hoSec), (2, m.utcOff), (1, m.flags),
    (1, m.cclass), (1, m.ssm)]

def qwordCell (m : Qword) : Cell := { timeCell 0x10 false (qwordBody m) with part := 0xFFFF }

/-- What the time root says in its QWORD. -/
def ownQword (s : State) : Qword :=
  let r := s.crl.ref
  let u := s.reg .crl 0x3010
  let out := classOut r.cls
  { root := s.hea .crl, rclass := r.cls, unitState := r.state.code, refId := r.phaseSel.getD 0xF,
    iq := (r.phaseSel.map (fun n => s.iqOf n)).getD 0xF,
    hoSec := if r.state = .holdover then r.hoElapsed s.cc.time.tick / 1_000_000_000 else 0,
    utcOff := bits u 0 16, flags := bits u 18 1 + 2 * bits u 16 1 + 4 * bits u 17 1, cclass := out.1, ssm := out.2 }

/-- The time root's QWORD, every 1,024 µs on every port in UP and on PX (R134). -/
def qwordOriginate (s : State) : State :=
  let now := s.cc.time.tick
  let due := match s.crl.ref.qwordAt with
    | some t => decide (t + 1_024_000 ≤ now)
    | none => true
  if s.isTimeRoot && due then
    let m := ownQword s
    forwardTime (qwordCell m) { s with crl.ref.qwordAt := some now }
  else s

def execQwordOriginate (s : State) : Out := run true qwordOriginate s

/-- A QWORD: Spindles hold it, a Creel sends its parent's on; at a time root one on PX qualifies PX, and the non-lead root
takes its class from it (R134, R135, R140). -/
def qwordReceived (p : Part) (port : Nat) (m : Qword) (s : State) : State :=
  match p with
  | .spn => s.modTime .spn (fun t => { t with qword := some m })
  | .crl =>
    if port = pxPort then
      let s := s.modRef 7 (fun r => { r with lastEsmc := s.cc.time.tick, iq := iqOfClass m.rclass, fiq := iqOfClass m.rclass,
                                             state := if r.state = .disabled then .qualifying else r.state })
      let s := meets 7 (healsRef 7 s)
      if s.isFollowRoot then
        let s := s.modTime .crl (fun t => { t with qword := some m })
        let s := if s.crl.ref.state = .follow then { s with crl.ref.cls := m.rclass } else s
        reselect s
      else reselect s
    else if s.cc.time.engA.port = some port && !s.isTimeRoot then
      forwardTime (qwordCell m) (s.modTime .crl (fun t => { t with qword := some m }))
    else s

def execQwordReceived (p : Part) (port : Nat) (m : Qword) (s : State) : Out :=
  run (port < p.ports) (qwordReceived p port m) s

/-- No QWORD on PX for 2,048 µs: the PX reference fails (R135). -/
def execQwordTimeout (s : State) : Out :=
  run true (fun s =>
    if (s.ref 7).lastEsmc + 2_048_000 ≤ s.cc.time.tick then failsRef 7 s else s) s

end Sys2Proof.Machine
end

