-- ==== Sys2Proof/Machine/Reference.lean ====
section
/-! DEFINITION. The reference and holdover unit's events, the time commands and the pulse outputs (R48, R118, R126 to
R159). -/

namespace Sys2Proof.Machine

/-! ## Phase steps and slews of the lead root (R147 to R150) -/

/-- A second and a millisecond in TICKs. -/
def secTicks : Nat := 1_000_000_000
def msTicks : Nat := 1_000_000

/-- Whether a step is pending or a slew runs (R150). -/
def State.stepBusy (s : State) : Bool := s.crl.ref.step.isSome || s.crl.ref.slew.isSome || !s.cc.time.pendSteps.isEmpty

/-- A phase step is issued: its boundary is the first GT second at least 10 ms ahead, and its cell goes on PX first
(R148, R149). Its number follows the last that this root issued or its GT holds, whichever came later (R119). -/
def issueStep (amt : Int) (q : Option Req) (code : Nat) (s : State) : State :=
  let gt := s.gt .crl
  let ahead := gt + 10 * 65_536_000_000
  let sec := gtSec (ahead + unitsPerSec - 1)
  let last := if (s.crl.ref.stepNo + 2 ^ 32 - s.cc.time.stepNo) % 2 ^ 32 < 2 ^ 31 then s.crl.ref.stepNo else s.cc.time.stepNo
  let num := (last + 1) % 2 ^ 32
  let st : PStep := { sec := sec, amt := amt, num := num }
  let r : RootStep := { step := st, q := q, code := code, issued := s.cc.time.tick }
  sendCell .crl pxPort (phaseStepCell st) { s with crl.ref.step := some r, crl.ref.stepNo := num }

/-- STEP_THRESH in 2^-16 ns; 0 acts as 1 µs (R155). -/
def State.stepThresh (s : State) : Nat := max (bits (s.reg .crl 0x3000) 16 8) 1 * 65_536_000

/-- A measurement of the selected phase reference: the lock test of ACQUIRE, an automatic step at the lead root, or a slew (R139, R140, R146,
R147, R150). -/
def phaseMeasured (n : Nat) (err : Int) (s : State) : State :=
  let s := s.modRef n (fun r => { r with phase := err })
  let r := s.crl.ref
  if r.phaseSel ≠ some n then s
  else
    let s := { s with crl.ref.err := err }
    if r.state ≠ .acquire then s
    else
      let near := decide (err.natAbs ≤ 20 * 65536)
      let s := { s with crl.ref.within := if near then r.within.orElse (fun _ => some s.cc.time.tick) else none }
      let wants := r.setStep || ((s.reg .crl 0x3000).testBit 4 && s.stepThresh < err.natAbs)
      if s.stepBusy then s
      else if wants && err ≠ 0 && s.isLeadRoot then issueStep err none 0 { s with crl.ref.setStep := false }
      else if near then s
      else { s with crl.ref.slew := some err }

/-- `TIME_SET` (R48). The cell carries the difference's low 64 bits (log entry 25). -/
def judgeTimeSet (s : State) (pl : Bytes) : Except Refuse (State → Effect) := do
  checkPl [(0, 12)] [(8, rdLe pl 8 4 ≤ 999_999_999)] pl
  guardE s.isLeadRoot (0x0301, 0)
  guardE (s.crl.ref.cls = 3) (0x0300, 0)
  guardE (!s.stepBusy) (0x0302, 0)
  pure (fun s =>
    let want := (rdLe pl 0 8 : Int) * unitsPerSec + (rdLe pl 8 4 : Int) * 65536
    later { issueStep (want - s.gt .crl) none 0x0100 s with crl.ref.setStep := true })

/-- The step's host command, set once the step is issued. -/
def ownStep (q : Req) (code : Nat) (s : State) : State :=
  { s with crl.ref.step := s.crl.ref.step.map (fun r => if r.q.isNone && !r.sentDown && r.code = code then { r with q := some q } else r) }

/-- The time commands go to the lead time root; any other part answers NOT_TIME_ROOT (R468). -/
def timeCmd (p : Part) (judge : State → Bytes → Except Refuse (State → Effect)) (s : State) (pl : Bytes) :
    Except Refuse (State → Effect) :=
  match p with
  | .crl => judge s pl
  | .spn => match judge s pl with
    | .error (0x0101, d) => .error (0x0101, d)
    | _ => .error (0x0301, 0)

/-- `TIME_SET` as a part judges it; the step it orders is the command's (R48, R150). -/
def judgeTimeSetOn (p : Part) (q : Req) (s : State) (pl : Bytes) : Except Refuse (State → Effect) :=
  (timeCmd p judgeTimeSet s pl).map (fun f s => let r := f s; (ownStep q 0x0100 r.1, r.2))

def execTimeSet (p : Part) (q : Req) (pl : Bytes) (s : State) : Out :=
  run (q.wf p) (runCmd p q 0x0100 2 pl (judgeTimeSetOn p q)) s

/-- `TIME_PHASE_STEP` (R147, R148, R150, R468). -/
def judgePhaseStep (q : Req) (s : State) (pl : Bytes) : Except Refuse (State → Effect) := do
  let mode := rdLe pl 0 1
  let amt := toSigned 64 (rdLe pl 8 8)
  checkPl [(0, 1), (8, 8)] [(0, mode ≤ 1)] pl
  guardE s.isLeadRoot (0x0301, 0)
  guardE (!s.stepBusy || (mode = 1 && amt = 0)) (0x0302, 0)
  pure (fun s =>
    if mode = 0 then later (issueStep amt (some q) 0x0101 s)
    else okWith { s with crl.ref.slew := if amt = 0 then none else some amt })

def execTimePhaseStep (p : Part) (q : Req) (pl : Bytes) (s : State) : Out :=
  run (q.wf p) (runCmd p q 0x0101 2 pl (timeCmd p (judgePhaseStep q))) s

/-- Whether the other time root has been LOCKED over PX for at least 2 s, as its TQ on PX says (R33, R118). -/
def State.partnerLocked (s : State) : Bool :=
  let q := s.port .crl pxPort
  q.state = LinkState.up && q.exch.heard.any (fun h => h.tq % 16 = 0 && h.hbAge < 16)
    && q.exch.lockedAt.any (fun t => t + 2 * secTicks ≤ s.cc.time.tick)

/-- `TIME_LEAD_SET` (R118). A boundary less than 2 s ahead cannot be met. -/
def judgeLeadSet (s : State) (pl : Bytes) : Except Refuse (State → Effect) := do
  let sec := rdLe pl 0 8
  checkPl [(0, 8)] [] pl
  guardE s.isLeadRoot (0x0301, 0)
  guardE s.partnerLocked (0x0300, 0)
  guardE (s.gt .crl + 2 * unitsPerSec ≤ (sec : Int) * unitsPerSec) (0x0100, 0)
  pure (fun s =>
    let plane := otherPlane s.cc.topo.plane
    let s := s.modTime .crl (fun t => { t with leadChange := some (sec, plane) })
    okWith (forwardTime (leadChangeCell sec plane) s))

def execTimeLeadSet (p : Part) (q : Req) (pl : Bytes) (s : State) : Out :=
  run (q.wf p) (runCmd p q 0x0102 2 pl (timeCmd p judgeLeadSet)) s

/-- A slew has removed its amount (R142, R148). -/
def execSlewEnd (s : State) : Out := run true (fun s => { s with crl.ref.slew := none }) s

/-! ## 1PPS, 10 MHz and time of day (R129, R132, R135) -/

/-- A delay register, signed 2^-16 ns (R158). -/
def State.refDelay (n : Nat) (s : State) : Int := toSigned 32 (s.reg .crl (refOff n + 8))

/-- The nearest second to a GT position. -/
def nearestSecond (gt : Int) : Int := (gt + unitsPerSec / 2) / unitsPerSec

/-- A pulse of PF `n` at TICK instant `at_` and GT `gt`, both in 2^-16 ns: its test against the oscillator, and its phase
against the TOD line's label, the label reference's second or, without either, the nearest second of its own (R129, R132, R135). -/
def pfPulse (n : Nat) (at_ gt : Int) (s : State) : State :=
  let r := s.ref n
  let fits := match r.lastAt with
    | some l => some (decide ((at_ - l - unitsPerSec).natAbs ≤ 100 * 65536))
    | none => none
  let s := s.modRef n (fun r => { r with
    lastAt := some at_, since := if r.state = .wtr then r.since else s.cc.time.tick,
    good := if fits = some true then r.good + 1 else 0, badRun := if fits = some false then r.badRun + 1 else 0 })
  let s := if fits = some true then healsRef n s else s
  let s := if 3 ≤ (s.ref n).badRun then failsRef n s else if 10 ≤ (s.ref n).good then meets n s else s
  let label : Int :=
    if s.todPair n then
      match tfind s.crl.ref.todPend n with
      | some l => if (s.ref 6).state = .qualified then (l : Int) else nearestSecond gt
      | none => nearestSecond gt
    else match s.crl.ref.labelSel with
      | some e => nearestSecond (gt + (s.ref e).phase)
      | none => nearestSecond gt
  let s := { s with crl.ref.todPend := tdel s.crl.ref.todPend n }
  if (s.ref n).state = .qualified then phaseMeasured n (label * unitsPerSec - (gt - s.refDelay n)) s else s

/-- No pulse within 1,100 ms of the previous one (R135). -/
def execPfPulseTimeout (n : Nat) (s : State) : Out :=
  run (n < 2) (fun s =>
    match (s.ref n).lastAt with
    | some l => if l + 1100 * 65_536_000_000 ≤ (s.cc.time.tick : Int) * 65536 then
        failsRef n (s.modRef n (fun r => { r with lastAt := none }))
      else s
    | none => s) s

def execPf10mNoEdge (n : Nat) (s : State) : Out := run (n < 2) (failsFreq n) s

/-- An averaging window of a frequency input: 10 s qualifies, 1 s fails a PF (R135). -/
def execFreqMeasureWindow (ref : Nat) (ppb : Int) (short : Bool) (s : State) : Out :=
  run (ref < 8) (fun s =>
    if ref < 2 then
      if short then if 2000 < ppb.natAbs then failsFreq ref s else s
      else if ppb.natAbs ≤ 1000 then meetsFreq ref (healsFreq ref s) else s
    else if ref < 6 && !short && ppb.natAbs ≤ 4600 && (s.ref ref).fiq ≠ 0xF then meetsFreq ref (healsFreq ref s)
    else s) s

/-- TAI - UTC, its flags and its source, from the label reference; a change of a leap flag sets LEAP (R32, R156). -/
def setUtc (off : Nat) (plus minus valid tod : Bool) (s : State) : State :=
  let old := s.reg .crl 0x3010
  let v := off % 65536 + bitAt plus 16 + bitAt minus 17 + bitAt valid 18 + bitAt tod 19
  let s := s.setReg .crl 0x3010 v
  if bits old 16 2 = bits v 16 2 then s else s.setEv .crl 0x3014 7

/-- Whether a serial time-of-day message is well formed, its status apart (R129). -/
def todFrame (m : Bytes) : Bool :=
  m.length = 24 && rdLe m 0 1 = 0x53 && rdLe m 1 1 = 0x59 && rdLe m 2 1 = 1 && rdLe m 3 1 = 0x18 && rdLe m 14 1 < 4
    && rdLe m 16 1 < 2 && rdLe m 17 5 = 0 && rdLe m 22 2 = (crc16 (m.take 22)).toNat

/-- Whether it is valid, its timing against the previous pulse apart (R129). -/
def todValid (m : Bytes) : Bool := todFrame m && rdLe m 15 1 < 4

/-- Whether the message completes between 100 ms and 900 ms after the previous pulse of the input it names (R129). -/
def todInTime (n : Nat) (s : State) : Bool :=
  match (s.ref n).lastAt with
  | some l =>
    let d := (s.cc.time.tick : Int) * 65536 - l
    100 * 65_536_000_000 ≤ d && d ≤ 900 * 65_536_000_000
  | none => true

/-- A missing or invalid message: the second in a row fails the TOD reference (R135). -/
def todBad (s : State) : State :=
  let n := s.crl.ref.todBad + 1
  let s := { s with crl.ref.todBad := n }
  let s := s.modRef 6 (fun r => { r with good := 0, lastAnn := s.cc.time.tick })
  if 2 ≤ n then failsRef 6 s else s

/-- Before any reference a root takes its seconds from the serial time of day, once, unless `TIME_SET` has named a GT (R47): the message names the
second that the next pulse begins, and what has passed since the last one is known from that pulse alone (log entry 150). -/
def takeTod (pf sec : Nat) (s : State) : State :=
  let r := s.crl.ref
  if !s.isTimeRoot || r.state ≠ .freeRun || r.gtFromTod || r.everLock || r.setStep || s.stepBusy || s.cc.time.stepNo ≠ 0 then s
  else
    let past := ((s.ref pf).lastAt.map (fun l => (s.cc.time.tick : Int) * 65536 - l)).getD 0
    let gt := ((sec : Int) - 1) * unitsPerSec + past
    noteStep .crl true { s with crl.ref.gtFromTod := true, cc.time.engA.gt := gt }

/-- A serial time-of-day message (R129, R132, R135). One that does not complete between 100 and 900 ms after the pulse counts as invalid (log
entry 144); an invalid status gives the TOD reference IQ 0xF (R130). -/
def todMessage (m : Bytes) (s : State) : State :=
  let pf := rdLe m 16 1
  if !(todValid m && todInTime pf s) then
    todBad (if todFrame m && 4 ≤ rdLe m 15 1 then reselect (s.modRef 6 (fun r => { r with iq := 0xF })) else s)
  else
    let sec := rdLe m 4 8
    let r := s.ref 6
    let follows := r.sec + 1 = sec
    let st := rdLe m 15 1
    let s := takeTod pf sec { s with crl.ref.todBad := 0, crl.ref.todPf := pf, crl.ref.todPend := tput s.crl.ref.todPend pf sec }
    let s := s.modRef 6 (fun r => { r with
      sec := sec, lastAnn := s.cc.time.tick, good := if follows || r.good = 0 then r.good + 1 else 1, iq := st + 1 })
    let s := if 0 < r.good && !follows then failsRef 6 s else healsRef 6 s
    let s := if 3 ≤ (s.ref 6).good then meets 6 s else s
    let s := if s.todPair pf then s.modRef pf (fun r => { r with iq := st + 1 }) else s
    let s := reselect s
    if s.crl.ref.labelSel = some 6 then
      setUtc (rdLe m 12 2) ((rdLe m 14 1).testBit 0) ((rdLe m 14 1).testBit 1) true true s
    else s

def execTodMessageReceived (msg : Bytes) (s : State) : Out := run true (todMessage msg) s

/-- No message within 900 ms of the pulse before the one it should label (R129, R135). -/
def execTodMessageTimeout (s : State) : Out :=
  run true (fun s =>
    let late := (List.range 2).any (fun n => (s.todPair n || n = s.crl.ref.todPf) && match (s.ref n).lastAt with
      | some l => decide (l + 900 * 65_536_000_000 ≤ (s.cc.time.tick : Int) * 65536
          ∧ ((s.ref 6).lastAnn : Int) * 65536 < l)
      | none => false)
    if late && (s.ref 6).state ≠ QualState.disabled then todBad s else s) s

/-! ## Ethernet timing ports (R128, R130, R131, R133, R135) -/

/-- What the alternate BMCA compares, best first lowest (R128): the order of G.8275.1, with localPriority at its default of 128 (log entry 149). -/
def announceRank (m : AnnounceMsg) : List Nat := [m.clockClass, m.accuracy, m.variance, m.prio2, 128, m.gm, m.steps]

/-- Lexicographic order. -/
def rankLess : List Nat → List Nat → Bool
  | a :: l, b :: m => a < b || (a = b && rankLess l m)
  | _, _ => false

/-- Whether a port takes an Announce: in the secure channel, in a domain of 24 to 43, from its master or from a better one (R128). -/
def Ref.takes (r : Ref) (m : AnnounceMsg) : Bool :=
  m.secured && 24 ≤ m.domain && m.domain ≤ 43 && r.parent.all (fun x => x.1 = m.sender || rankLess (announceRank m) x.2)

/-- An Announce: role by the BMCA, clockClass and UTC offset (R128, R130). -/
def execPtpAnnounceReceived (eth : Nat) (m : AnnounceMsg) (s : State) : Out :=
  run (eth < 4) (fun s =>
    let n := 2 + eth
    let iq := iqOfClockClass m.clockClass
    if !(s.ref n).takes m then s
    else
      let s := s.modRef n (fun r => { r with
        cclass := m.clockClass, iq := iq, slave := !r.master, macsec := true, parent := some (m.sender, announceRank m), lastAnn := s.cc.time.tick })
      let s := if iq = 0xF then failsRef n s else reselect (healsRef n s)
      if s.crl.ref.labelSel = some n then setUtc m.utcOff m.leapPlus m.leapMinus m.utcValid false s else s) s

/-- Three intervals of Sync or Delay_Resp at 16/s: a longer gap begins the 16 s anew (R128, R135; log entry 145). -/
def ptpGap : Nat := 187_500_000

/-- A Sync: its arrival stamp, with its origin where one-step (R128). Outside a secure channel a frame is dropped. -/
def execPtpSyncReceived (eth : Nat) (seq : Nat) (origin : Option Int) (stamp : Int) (s : State) : Out :=
  run (eth < 4) (fun s => s.modRef (2 + eth) (fun r =>
    if r.slave && r.macsec then
      { r with lastSync := some (seq, origin, stamp), syncAt := s.cc.time.tick, good := if r.syncAt + ptpGap < s.cc.time.tick then 0 else r.good }
    else r)) s

/-- The precise origin of a two-step Sync. -/
def execPtpFollowUpReceived (eth : Nat) (seq : Nat) (origin : Int) (s : State) : Out :=
  run (eth < 4) (fun s => s.modRef (2 + eth) (fun r =>
    match r.lastSync with
    | some (n, none, t2) => if n = seq && r.macsec then { r with lastSync := some (n, some origin, t2) } else r
    | _ => r)) s

/-- A slave port sends Delay_Req: its departure in GT. -/
def execPtpDelayReqSend (eth : Nat) (s : State) : Out :=
  run (eth < 4) (fun s => s.modRef (2 + eth) (fun r =>
    if r.slave then { r with delaySeq := (r.delaySeq + 1) % 65536, delayT3 := some (s.gt .crl) } else r)) s

/-- Delay_Resp: with the last Sync it gives the phase of the port; 16 s of both meet the test (R135). -/
def delayResp (eth seq : Nat) (t4 : Int) (s : State) : State :=
  let n := 2 + eth
  let r := s.ref n
  match r.lastSync, r.delayT3 with
  | some (_, some t1, t2), some t3 =>
    if seq ≠ r.delaySeq || !r.slave || !r.macsec then s
    else
      let err := -(((t2 - t1) - (t4 - t3)) / 2) + s.refDelay n
      let now := s.cc.time.tick
      let goes := 0 < r.good && now ≤ r.respAt + ptpGap && now ≤ r.syncAt + ptpGap
      let s := s.modRef n (fun r => { r with
        delayT3 := none, respAt := now, good := if goes then r.good + 1 else 1, since := if !goes && r.state = .qualifying then now else r.since })
      let s := if r.state = .qualifying && goes && r.since + 16 * secTicks ≤ now && r.macsec && r.iq ≠ 0xF then meets n s
        else s
      if (s.ref n).state = .qualified then phaseMeasured n err s else s
  | _, _ => s

def execPtpDelayRespReceived (eth : Nat) (seq : Nat) (t4 : Int) (s : State) : Out := run (eth < 4) (delayResp eth seq t4) s

/-- A master port sends Announce and Sync with the class's clockClass; it stays passive while the class is UNKNOWN (R133). -/
def execPtpMasterSend (eth : Nat) (s : State) : Out :=
  run (eth < 4) (fun s => s.modRef (2 + eth) (fun r =>
    if r.master && s.rootClass .crl ≠ 0xF then { r with outClass := (classOut (s.rootClass .crl)).1 } else r)) s

/-- A master port stamps a Delay_Req and answers it (R128). -/
def execPtpDelayReqReceived (eth : Nat) (seq : Nat) (stamp : Int) (s : State) : Out :=
  run (eth < 4) (fun s => s.modRef (2 + eth) (fun r => if r.master && r.macsec then { r with outResp := some (seq, stamp) } else r)) s

/-- Three announce intervals of 125 ms pass without one (R128, R135). -/
def execAnnounceReceiptTimeout (eth : Nat) (s : State) : Out :=
  run (eth < 4) (fun s =>
    let n := 2 + eth
    if (s.ref n).lastAnn + 375 * msTicks ≤ s.cc.time.tick then
      failsRef n (s.modRef n (fun r => { r with slave := false, parent := none }))
    else s) s

/-- An ESMC PDU (R131, R135); the code of an extended QL TLV is held for status and not used (R128). -/
def execEsmcReceived (eth : Nat) (m : EsmcMsg) (s : State) : Out :=
  run (eth < 4) (fun s =>
    let n := 2 + eth
    if !m.secured then s
    else
      let s := s.modRef n (fun r => { r with
        ssm := m.ssm % 16, fiq := fiqOfSsm m.ssm, extQl := m.ext, macsec := true, lastEsmc := s.cc.time.tick })
      if fiqOfSsm m.ssm = 0xF then failsFreq n s else reselect (healsFreq n s)) s

def execEsmcTimeout (eth : Nat) (s : State) : Out :=
  run (eth < 4) (fun s =>
    let n := 2 + eth
    if (s.ref n).lastEsmc + 5 * secTicks ≤ s.cc.time.tick then failsFreq n (s.modRef n (fun r => { r with fiq := 0xF }))
    else s) s

/-- The SSM sent: the class's, or QL-DNU on the port whose SyncE is selected (R133). -/
def execEsmcSend (eth : Nat) (s : State) : Out :=
  run (eth < 4) (fun s => s.modRef (2 + eth) (fun r =>
    { r with outSsm := if s.crl.ref.freqSel = some (2 + eth) then 0xF else (classOut (s.rootClass .crl)).2 })) s

/-- Loss of the secure channel fails PTP, and loss of signal, with which the channel goes too, SyncE as well (R135). -/
def execEthLos (e : EthLoss) (s : State) : Out :=
  run (e.port < 4) (fun s =>
    let n := 2 + e.port
    let s := failsRef n (s.modRef n (fun r => { r with macsec := false, slave := false, parent := none }))
    if e.los then failsFreq n s else s) s

/-! ## Timers (R135, R140, R143, R144) -/

/-- WTR × 10 s; values above 72 act as 72 (R155). -/
def State.wtrTicks (s : State) : Nat := min (bits (s.reg .crl 0x3000) 8 8) 72 * 10 * secTicks

def execRefWtrExpiry (ref : Nat) (s : State) : Out :=
  run (ref < 8) (fun s =>
    let r := s.ref ref
    let now := s.cc.time.tick
    let s := if r.state = .wtr && r.since + s.wtrTicks ≤ now then s.modRef ref (fun r => { r with state := .qualified }) else s
    let s := if r.fstate = .wtr && r.fsince + s.wtrTicks ≤ now then s.modRef ref (fun r => { r with fstate := .qualified }) else s
    reselect s) s

/-- 60 s within 20 ns: LOCKED (R140). -/
def execAcquireLockTimer (s : State) : Out :=
  run true (fun s =>
    let r := s.crl.ref
    match r.within with
    | some t => if r.state = .acquire && t + 60 * secTicks ≤ s.cc.time.tick then enterLocked s else s
    | none => s) s

/-- The module oscillator's temperature in 0.01 °C, and holdover past 8 h or out of ±2 °C (R144). -/
def execHoldoverClassTimer (temp : Int) (s : State) : Out :=
  run true (fun s =>
    let s := { s with crl.ref.temp := temp }
    let r := s.crl.ref
    if r.state = .holdover && r.cls = 1 &&
        (8 * 3600 * secTicks < r.hoElapsed s.cc.time.tick || 200 < (temp - r.hoTemp).natAbs) then
      ({ s with crl.ref.cls := 2 } |>.setEv .crl 0x3014 2).raise .crl 0x1302 0 [s.hea .crl]
    else s) s

def execHoLearnedTimer (s : State) : Out :=
  run true (fun s =>
    match s.crl.ref.iq1Since with
    | some t => if s.crl.ref.state = .locked && t + 4 * 3600 * secTicks ≤ s.cc.time.tick then { s with crl.ref.learned := true } else s
    | none => s) s

/-- Firmware's hourly update while LOCKED with LEARN (R143). -/
def execAgeingLearnUpdate (v : Word) (s : State) : Out :=
  run true (fun s =>
    let now := s.cc.time.tick
    if (s.reg .crl 0x3000).testBit 5 && s.crl.ref.state = .locked && s.crl.ref.lastAge + 3600 * secTicks ≤ now then
      { s.setReg .crl 0x300C v.toNat with crl.ref.lastAge := now }
    else s) s

/-- A host write to CRL_REF_AGEING clears LEARN (R143). -/
def writeAgeing (v : Nat) (s : State) : State := (s.setReg .crl 0x300C v).setField .crl 0x3000 5 1 0
def execRefAgeingWrite (v : Word) (s : State) : Out := run true (writeAgeing v.toNat) s

/-! ## Pulse outputs (R151 to R153, R159) -/

def outOff (m : Nat) : Nat := 0x3100 + 0x10 * m
def State.pout (m : Nat) (s : State) : POut := tget {} s.crl.ref.outs m
def State.modOut (m : Nat) (f : POut → POut) (s : State) : State := { s with crl.ref.outs := tmod {} s.crl.ref.outs m f }

/-- ±500,000,000 ns in 2^-16 ns (R153). -/
def offsetLimit : Int := 500_000_000 * 65536

/-- The write to OFFSET_HI makes the 64-bit value, clamped, take effect at the next alignment instant at least 1 ms
later (R153, R159). -/
def writeOffsetHi (m v : Nat) (s : State) : State :=
  let s := s.setReg .crl (outOff m + 8) v
  let raw := toSigned 64 (s.reg .crl (outOff m + 4) + 2 ^ 32 * (v % 2 ^ 32))
  s.modOut m (fun o => { o with pendOff := some (s.cc.time.tick, max (-offsetLimit) (min raw offsetLimit)) })
def execOutputOffsetHiWrite (m : Nat) (v : Word) (s : State) : Out := run (m < 4) (writeOffsetHi m v.toNat) s

/-- A write of CTRL: EN, POLARITY and WIDTH at once, a change of ALIGN_SRC at the next alignment instant at least 1 ms later. -/
def writeOutCtrl (m v : Nat) (s : State) : State :=
  let s := s.setReg .crl (outOff m) (v &&& (regDef .crl (outOff m)).rw)
  let k := if bits v 1 4 ≤ 8 then bits v 1 4 else 0
  s.modOut m (fun o => if (o.pendSrc.map (·.2)).getD o.src = k then o else { o with pendSrc := some (s.cc.time.tick, k) })

/-- Whether an output drives at all: EN; PPS and STEP not while TQ is 0xFF; STEP not for a partition not held (R151,
R153). -/
def State.outDrives (m : Nat) (s : State) : Bool :=
  let c := s.reg .crl (outOff m)
  c.testBit 0 && !(m < 2 && s.tq .crl = 0xFF) && (m ≠ 1 || (tfind s.crl.held (bits c 16 16)).isSome)

/-- The launch counts of a partition whose edges an output may mark at a count near `d`: those its root holds here; where another Creel is its
root, `d` itself (log entry 151). -/
def State.launchNear (part d : Nat) (s : State) : Nat :=
  match tfind s.crl.parts part with
  | none => d
  | some r =>
    (r.launch.pend.map (·.l)).foldl (fun (b l : Nat) => if ((l : Int) - d).natAbs < ((b : Int) - d).natAbs then l else b) r.launch.lastL

/-- The programmed instant of an output's edge that falls due at about GT `gt`, and the whole seconds from the pulse it follows (R151, R152). -/
def edgeInstantOf (m : Nat) (o : POut) (gt : Int) (s : State) : Int × Nat :=
  match o.src, o.lastIn with
  | 0, _ =>
    let part := bits (s.reg .crl (outOff m)) 16 16
    match m, tfind s.crl.held part with
    | 1, some h => (gtOf (s.launchNear part ((dtcOf (gt - o.offset) h.1 h.2).getD 0)) h.1 h.2 + o.offset, 0)
    | _, _ => (nearestSecond (gt - o.offset) * unitsPerSec + o.offset, 0)
  | _, some t =>
    let n := max 1 (nearestSecond (gt - o.offset - t))
    (t + n * unitsPerSec + o.offset, n.toNat)
  | _, none => (gt, 0)

/-- What an output drives from an edge at `at_`: PPS_OUT and STEP_OUT a pulse of WIDTH µs, 0 acting as 1, in the sense that POLARITY marks;
10 MHz or 156.25 MHz with a rising edge there. -/
def outEdge (m ctl : Nat) (at_ : Int) : OutEdge :=
  if m < 2 then { at_ := at_, rising := !ctl.testBit 5, until_ := some (at_ + 65_536_000 * max 1 (bits ctl 8 8)) }
  else { at_ := at_, period := some (if m = 2 then 6_553_600 else 2_097_152 / 5) }

/-- An alignment instant of an output: pending settings take effect, the edge is driven at its programmed instant, and an output that follows an
input flywheels where the pulse is missing (R151 to R153). -/
def pulseEdge (m : Nat) (s : State) : State :=
  let now := s.cc.time.tick
  let s := s.modOut m (fun o =>
    let o := match o.pendOff with
      | some (t, v) => if t + msTicks ≤ now then { o with offset := v, pendOff := none } else o
      | none => o
    match o.pendSrc with
    | some (t, k) => if t + msTicks ≤ now then { o with src := k, pendSrc := none, lastIn := none, fly := o.fly && k ≠ 0 } else o
    | none => o)
  let drives := s.outDrives m
  let x := edgeInstantOf m (s.pout m) (s.gt .crl) s
  let ctl := s.reg .crl (outOff m)
  s.modOut m (fun o => { o with
    edge := if drives && (o.src = 0 || o.lastIn.isSome) then some (outEdge m ctl x.1) else none, fly := o.fly || 2 ≤ x.2 })

def execPulseOutputEdge (m : Nat) (s : State) : Out := run (m < 4) (pulseEdge m) s

/-- A measured pulse on an input: every output that follows it realigns (R152). -/
def outputsFollow (n : Nat) (gt : Int) (s : State) : State :=
  (List.range 4).foldl (fun s m => s.modOut m (fun o =>
    if o.src = n + 1 then { o with lastIn := some gt, fly := false } else o)) s

end Sys2Proof.Machine
end

