-- ==== Sys2Proof/Machine/TimeInterval.lean ====
section
/-! DEFINITION. The time-interval unit and in-band calibration (R160 to R181). -/

namespace Sys2Proof.Machine

def tiInOff (n : Nat) : Nat := 0x3440 + 4 * n
def State.tiIn (n : Nat) (s : State) : TiInput := tget {} s.crl.ti.inputs n
def State.modTi (n : Nat) (f : TiInput → TiInput) (s : State) : State := { s with crl.ti.inputs := tmod {} s.crl.ti.inputs n f }

/-- INBAND_CAL (R179). -/
def State.inbandCal (s : State) : Bool := (s.reg .crl 0x3400).testBit 0

/-- An input whose changed configuration has not settled (R161). -/
def State.tiSettling (n : Nat) (s : State) : Bool := (s.tiIn n).settleAt.any (fun t => s.cc.time.tick < t)

/-- The armed jobs (R165, R167). -/
def State.tiArmed (s : State) : List TiJob := s.crl.ti.jobs.filter (fun j => !j.cancelled)

/-- An input that the reference unit owns (R127). -/
def State.tiOwned (n : Nat) (s : State) : Bool := n < 2 && (s.phaseUse n || s.freqUse n)

/-! ## Records (R170) -/

/-- Interval word of a stop: ns and ns / 256, rounded, modulo 2^24 ns (R168, R170). -/
def intervalWord (start at_ : Nat) : Nat := (at_ - start + 128) / 256 % 2 ^ 32

/-- Interval record. `how` holds CANCELLED, ARM_TIMEOUT and STOP_TIMEOUT as bits 5 to 7. -/
def jobRecord (j : TiJob) (how seq : Nat) : Bytes :=
  let idx := j.stops.zipIdx
  let seen := idx.foldl (fun a e => if e.1.at_.isSome then a + 2 ^ e.2 else a) 0
  let st := j.startAt.getD (0, 0, 0)
  let ovr := fun (a : Nat) => j.timeout = 0 && st.1 + 2 ^ 24 * 65536 ≤ a
  let ovf := idx.foldl (fun a e => if e.1.at_.any ovr then a + 2 ^ e.2 else a) 0
  let words := (List.range 8).map (fun k =>
    match (j.stops.getD k { src := 0, delay := 0 }).at_ with
    | some a => (4, intervalWord st.1 a)
    | none => (4, 0))
  lay ([(1, 0x01), (1, j.stops.length % 16 + bitAt j.startAt.isSome 4 + how), (2, j.tag), (1, seen), (1, ovf), (1, bitAt j.lost 0),
    (1, 0), (8, gtSec st.2.1), (4, gtNs st.2.1), (2, gtFrac st.2.1), (1, st.2.2), (1, 0)] ++ words ++ [(4, seq), (4, 0)])

/-- Posts a record in the ring of CRL_TI_CTRL.RING. -/
def postTi (rec : Bytes) (s : State) : State :=
  let s := { s with crl.ti.recSeq := (s.crl.ti.recSeq + 1) % 2 ^ 32 }
  (s.setEv .crl 0x3404 0).post .crl (bits (s.reg .crl 0x3400) 8 8) rec

/-- A job ends: its record is written once. -/
def endJob (j : TiJob) (how : Nat) (s : State) : State :=
  let rec_ := jobRecord j how s.crl.ti.recSeq
  postTi rec_ { s with crl.ti.jobs := s.crl.ti.jobs.filter (· ≠ j) }

/-! ## Edges (R160 to R169) -/

/-- When an edge is seen, in TICK time, 2^-16 ns: the coarse count and the fine code through the channel's table (R163). A channel with no
table has the nominal one. -/
def edgeSeen (src fine : Nat) (s : State) : Nat :=
  let lin := match tfind s.crl.ti.tables src with
    | some l => l.getD (fine % 256) 0
    | none => fine % 256 * 256
  s.cc.time.tick * 65536 + lin

/-- The instant of an edge in TICK time, 2^-16 ns: when it is seen, less the channel's delay (R163, R171). -/
def edgeInstant (src fine : Nat) (s : State) : Int := (edgeSeen src fine s : Int) - tget 0 s.crl.ti.delays src

/-- The dead time after an edge: 5 ns plus HOLDOFF (R160). -/
def State.deadTime (n : Nat) (s : State) : Nat := (5 + bits (s.reg .crl (tiInOff n)) 16 16) * 65536

/-- One edge of source specification `spec` at a job (R166). -/
def jobEdge (spec at_ : Nat) (gt : Int) (tq : Nat) (j : TiJob) : TiJob :=
  match j.startAt with
  | none =>
    if j.start = spec && j.armed * 65536 ≤ at_ && (j.armTo = 0 || at_ ≤ (j.armed + j.armTo * msTicks) * 65536) then
      { j with startAt := some (at_, gt, tq) }
    else j
  | some st =>
    if j.timeout ≠ 0 && st.1 + j.timeout * 65536 < at_ then j
    else
      let ok := fun (prev : Option TiStop) (x : TiStop) =>
        x.at_.isNone && x.src = spec && st.1 + x.delay * 65536 ≤ at_ && (x.src ≠ j.start || st.1 < at_)
          && (match prev with
              | some p => p.src ≠ x.src || p.at_.any (· < at_)
              | none => true)
      let stops := j.stops.zipIdx.map (fun e =>
        let prev := if e.2 = 0 then none else j.stops[e.2 - 1]?
        if ok prev e.1 then { e.1 with at_ := some at_ } else e.1)
      { j with stops := stops }

/-- A job whose every stop has been seen. -/
def TiJob.full (j : TiJob) : Bool := j.startAt.isSome && j.stops.all (·.at_.isSome)

/-- Stamp record (R170). -/
def stampRecord (code seq : Nat) (x : TiStamp) : Bytes :=
  lay [(1, 0x02), (1, code + 32 * x.slope + bitAt x.settling 6 + bitAt x.lost 7), (2, 0), (8, gtSec x.gt), (4, gtNs x.gt), (2, gtFrac x.gt),
    (1, x.tq), (1, 0), (4, seq), (8, 0)]

/-- The first waiting stamp of an input leaves, in WH_RING too for an input of TI_JOIN (R425); each input sends one a microsecond
(R169). -/
def drainStamp (n : Nat) (s : State) : State :=
  let i := s.tiIn n
  match i.buf with
  | [] => s
  | x :: rest =>
    if s.cc.time.tick < i.outAt then s
    else
      let r := stampRecord n s.crl.ti.recSeq x
      let s := postTi r (s.modTi n (fun i => { i with buf := rest, outAt := s.cc.time.tick + 1000 }))
      if (bits (s.reg .crl 0x4400) 24 8).testBit n then s.post .crl (bits (s.reg .crl 0x4404) 16 8) r else s

/-- A stamp of an input with STAMP = 1 waits in the input's buffer; one that finds 64 there is counted, and the next record carries LOST
(R169). -/
def bufferStamp (n : Nat) (settling : Bool) (gt : Int) (s : State) : State :=
  let i := s.tiIn n
  if 64 ≤ i.buf.length then ((s.bump .crl 0x3408 1).setEv .crl 0x3404 1).modTi n (fun i => { i with lost := true })
  else
    let x : TiStamp := { slope := bits (s.reg .crl (tiInOff n)) 10 1, settling := settling, lost := i.lost, gt := gt, tq := s.tq .crl }
    drainStamp n (s.modTi n (fun i => { i with lost := false, buf := i.buf ++ [x] }))

/-- What an edge on an external input does besides the jobs: the last stamp with its DTCs (R163), a stamp record, the outputs that follow
it, and the reference unit's test of an owned input. -/
def inputEdge (n seen : Nat) (at_ gt : Int) (s : State) : State :=
  let now := s.cc.time.tick
  let settling := s.tiSettling n
  let dtcs := s.crl.held.filterMap (fun h => (dtcOf gt h.2.1 h.2.2).map (fun d => (h.1, d)))
  let s := s.modTi n (fun i => { i with
    lastEdge := some seen, recent := i.recent.filter (fun t => now ≤ t + 600 * msTicks) ++ [now], seq := (i.seq + 1) % 65536, last := gt,
    lastDtc := dtcs })
  let s := if (s.reg .crl (tiInOff n)).testBit 12 then bufferStamp n settling gt s else s
  let s := if settling then s else outputsFollow n gt s
  if s.tiOwned n then pfPulse n at_ gt s else s

/-- Every job whose last stop has been seen ends; a stop at the TICK of a `TI_CANCEL` counts (R167). -/
def endFull (s : State) : State := (s.crl.ti.jobs.filter TiJob.full).foldl (fun s j => endJob j 0 s) s

/-- What the unit does as TICK moves: a cancelled job ends, and waiting stamps leave (R167, R169). -/
def tickTi (s : State) : State :=
  let s := (s.crl.ti.jobs.filter (fun j => j.cancelled)).foldl (fun s j => endJob j (2 ^ 5) s) s
  (List.range 8).foldl (fun s n => drainStamp n s) s

/-- An edge (R160, R163, R166, R169, R173). Nothing is reported before the first calibration (R172). -/
def tiEdge (src port fine : Nat) (s : State) : State :=
  let now := s.cc.time.tick
  let portSrc := 0x0C ≤ src && src ≤ 0x0F
  let i := s.tiIn src
  let seen := edgeSeen src fine s
  let dead := src < 8 && i.lastEdge.any (fun t => seen < t + s.deadTime src)
  let spec := src + 256 * (if portSrc then port else 0)
  let injected := src < 8 && i.injected.any (fun t => now < t + 200)
  if !s.crl.ti.linValid || dead || (portSrc && !(s.port .crl port).timed) then s
  else if injected then
    let s := (s.bump .crl 0x340C 1).setEv .crl 0x3404 2
    let s := s.modTi src (fun i => { i with lost := true })
    { s with
        crl.ti.jobs := s.crl.ti.jobs.map (fun (j : TiJob) =>
        if j.start = spec || j.stops.any (fun x => x.src = spec) then { j with lost := true } else j) }
  else
    let at_ := edgeInstant src fine s
    let gt := s.gt .crl + (at_ - (now : Int) * 65536)
    let s := endFull { s with crl.ti.jobs := s.crl.ti.jobs.map (jobEdge spec at_.toNat gt (s.tq .crl)) }
    if src < 8 then inputEdge src seen at_ gt s else s

def execTiInputEdge (src : Nat) (port : Nat) (fine : Nat) (s : State) : Out :=
  run (src ≤ 0x10 && port < 129) (tiEdge src port fine) s

/-- TIMEOUT after the start (R167). -/
def execTiJobTimeout (tag : Nat) (s : State) : Out :=
  run true (fun s =>
    let due := s.tiArmed.filter (fun j => j.tag = tag && j.timeout ≠ 0 &&
      j.startAt.any (fun st => st.1 + j.timeout * 65536 ≤ s.cc.time.tick * 65536))
    due.foldl (fun s j => endJob j (2 ^ 7) s) s) s

/-- ARM_TIMEOUT with no start (R167). -/
def execTiArmTimeout (tag : Nat) (s : State) : Out :=
  run true (fun s =>
    let due := s.tiArmed.filter (fun j => j.tag = tag && j.armTo ≠ 0 && j.startAt.isNone &&
      j.armed + j.armTo * msTicks ≤ s.cc.time.tick)
    due.foldl (fun s j => endJob j (2 ^ 6) s) s) s

/-! ## Commands (R162, R165, R167, R172) -/

/-- A legal source specification (R162). -/
def srcOk (v : Nat) : Bool :=
  let code := v % 32
  let port := v / 256
  bits v 5 3 = 0 && code ≤ 0x10 && (if 0x0C ≤ code && code ≤ 0x0F then port ≤ 128 else port = 0)

/-- A source that is busy: an owned input, or a port source while INBAND_CAL is 1 (R127, R162). -/
def State.srcBusy (v : Nat) (s : State) : Bool :=
  let code := v % 32
  (code < 2 && s.tiOwned code) || (0x0C ≤ code && code ≤ 0x0F && s.inbandCal)

def judgeTiArm (p : Part) (s : State) (pl : Bytes) : Except Refuse (State → Effect) := do
  let n := rdLe pl 4 1
  let k := min n 8
  let srcs := rdLe pl 2 2 :: (List.range k).map (fun i => rdLe pl (16 + 5 * i) 2)
  checkPl ([(0, 5), (8, 6)] ++ [(16, 5 * k)])
    ([(2, srcOk (rdLe pl 2 2)), (4, 1 ≤ n && n ≤ 8), (11, rdLe pl 11 1 = 0)]
      ++ (List.range k).map (fun i => (16 + 5 * i, srcOk (rdLe pl (16 + 5 * i) 2)))) pl
  guardE (p = .crl) wrongTarget
  guardE (s.tiArmed.length < 16) (0x0304, 0)
  guardE (!srcs.any (fun v => s.srcBusy v)) (0x0303, 0)
  guardE s.crl.ti.linValid (0x0306, 0)
  pure (fun s =>
    let j : TiJob := {
      tag := rdLe pl 0 2, start := rdLe pl 2 2, timeout := rdLe pl 8 3, armTo := rdLe pl 12 2, armed := s.cc.time.tick,
      stops := (List.range k).map (fun i => { src := rdLe pl (16 + 5 * i) 2, delay := rdLe pl (18 + 5 * i) 3 }) }
    okWith { s with crl.ti.jobs := s.crl.ti.jobs ++ [j] })

def execTiArm (p : Part) (q : Req) (pl : Bytes) (s : State) : Out := run (q.wf p) (runCmd p q 0x0201 2 pl (judgeTiArm p)) s

/-- `TI_CANCEL`: the jobs of the tag end with this TICK, cancelled unless their last stop comes in it (R167). -/
def judgeTiCancel (p : Part) (s : State) (pl : Bytes) : Except Refuse (State → Effect) := do
  let tag := rdLe pl 0 2
  checkPl [(0, 2)] [] pl
  guardE (p = .crl) wrongTarget
  guardE (s.tiArmed.any (fun j => j.tag = tag)) (0x0305, 0)
  pure (fun s => okWith { s with crl.ti.jobs := s.crl.ti.jobs.map (fun j => if j.tag = tag then { j with cancelled := true } else j) })

def execTiCancel (p : Part) (q : Req) (pl : Bytes) (s : State) : Out :=
  run (q.wf p) (runCmd p q 0x0202 2 pl (judgeTiCancel p)) s

/-- Class B acceptance: the job stands behind the command until its slices are done; a seventh of one core is refused
(R449). -/
def classBFull (p : Part) (core : Nat) (s : State) : Bool := 6 ≤ ((s.core p).jobs.filter (fun b => b.core = core)).length
def addJob (p : Part) (b : BJob) (s : State) : State := s.modCore p (fun c => { c with jobs := c.jobs ++ [b] })

/-- Channels that a calibration covers: inputs, output taps, port strobes and taps, the generator. -/
def tiChannels : Nat := 17

/-- `TI_CAL` (R172): one slice a channel. -/
def judgeTiCal (p : Part) (q : Req) (s : State) (pl : Bytes) : Except Refuse (State → Effect) := do
  checkPl [] [] pl
  guardE (p = .crl) wrongTarget
  guardE (!classBFull p 2 s) (0x0100, 0)
  pure (fun s => later (addJob .crl { q := q, code := 0x0203, core := 2, args := [], total := tiChannels } s))

def execTiCal (p : Part) (q : Req) (pl : Bytes) (s : State) : Out := run (q.wf p) (runCmd p q 0x0203 2 pl (judgeTiCal p q)) s

/-! ## Calibration (R171 to R173) -/

/-- A channel's table from its hits per code, 2^20 in all: the cumulative widths of the codes below, in 2^-16 ns (R163, R171). -/
def tableOf (hits : List Nat) : List Nat :=
  (hits.foldl (fun (a : List Nat × Nat) h => (a.1 ++ [min 65535 (a.2 / 16)], a.2 + h)) ([], 0)).1

/-- Hits per code of one linearisation (R171). -/
def hitsOk (hits : List Nat) : Bool := hits.length = 256 && hits.sum = 2 ^ 20

/-- Hits per code that a calibration counts, free values here: each code takes some of what is left of the 2^20, the last the rest (log
entry 26). -/
def freeHits (base : Nat) : List Nat :=
  let x := (List.range 255).foldl (fun (a : List Nat × Nat) k =>
    let h := (Config.freeValue (base + k)).toNat % (a.2 + 1)
    (a.1 ++ [h], a.2 - h)) ([], 2 ^ 20)
  x.1 ++ [x.2]

/-- A channel takes a new table; the old one is its other (R173). -/
def newTable (ch : Nat) (hits : List Nat) (s : State) : State :=
  { s with
    crl.ti.spare := (tfind s.crl.ti.tables ch).elim s.crl.ti.spare (tput s.crl.ti.spare ch), crl.ti.tables := tput s.crl.ti.tables ch (tableOf hits) }

/-- A channel takes its delay against the others: how much later than the first input it stamps the edge injected at all eight inputs and
the four output taps at once (R171, log entry 152). -/
def newDelay (ch : Nat) (later : Int) (s : State) : State :=
  if ch < 12 then { s with crl.ti.delays := tset 0 s.crl.ti.delays ch (if ch = 0 then 0 else later) } else s

/-- A full calibration ends: every channel has a table and a delay from what it measured, free values here (log entry 26). -/
def calDone (s : State) : State :=
  let base := s.free
  let s := { s with free := base + 256 * tiChannels }
  let s := (List.range tiChannels).foldl (fun s c =>
    newDelay c (toSigned 32 ((Config.freeValue (base + 256 * c + 255)).toNat % 2 ^ 32)) (newTable c (freeHits (base + 256 * c)) s)) s
  { s with crl.ti.linValid := true, crl.ti.calTemp := s.crl.ti.temp.getD 0 }.setEv .crl 0x3404 3

/-- A slice of `n` channels of the calibration that the die temperature started (R172). -/
def selfCalSlice (done n : Nat) (s : State) : State :=
  if done + n < tiChannels then { s with crl.ti.calSelf := some (done + n) } else calDone { s with crl.ti.calSelf := none }

/-- Die temperature in 0.01 K: a move of more than 10 °C since the last full calibration starts one, in slices (R172). -/
def execTiTempCalTrigger (temp : Nat) (s : State) : Out :=
  run true (fun s =>
    let s := { s with crl.ti.temp := some temp }
    if s.crl.ti.linValid && s.crl.ti.calSelf.isNone && 1000 < ((temp : Int) - s.crl.ti.calTemp).natAbs then
      { s with crl.ti.calSelf := some 0 }
    else s) s

/-- In-band calibration of one channel: what it measured gives its new table and delay, between two edges (R173). -/
def execTiInbandCalCycle (ch : Nat) (hits : List Nat) (delay : Int) (s : State) : Out :=
  run (ch < 17 && hitsOk hits) (fun s => if s.inbandCal then newDelay ch delay (newTable ch hits s) else s) s

/-- An input that has seen no edge for 2 s, or none since reset when that is 2 s ago (R173). -/
def State.quietFor2s (n : Nat) (s : State) : Bool :=
  match (s.tiIn n).lastEdge with
  | some t => t + 2 * secTicks * 65536 ≤ s.cc.time.tick * 65536
  | none => 2 * secTicks ≤ s.cc.time.tick

/-- A calibration edge is injected on an input whose quiet or after-edge condition holds; an owned input's only after an edge (R173). -/
def execTiDelayInjection (n : Nat) (s : State) : Out :=
  run (n < 8) (fun s =>
    let now := s.cc.time.tick
    let quiet := (s.reg .crl (tiInOff n)).testBit 13 && !s.tiOwned n && s.quietFor2s n
    let after := (s.tiIn n).recent.any (fun t => t + 400 * msTicks ≤ now && now ≤ t + 600 * msTicks)
    if s.inbandCal && (quiet || after) then s.modTi n (fun i => { i with injected := some now }) else s) s

/-- THRESH as held: values outside -100 to +250 take the nearer limit (R180). -/
def clampThresh (v : Nat) : Nat := toUnsigned 10 (max (-100) (min (toSigned 10 (v % 1024)) 250))

/-- A write of an input's configuration; ignored while owned. A change of THRESH, SLOPE or TERM settles within 10 µs
(R161, R180). -/
def writeTiIn (n v : Nat) (s : State) : State :=
  if s.tiOwned n then s
  else
    let old := s.reg .crl (tiInOff n)
    let w := (v &&& 0xFFFF_3C00) + clampThresh v
    let s := s.setReg .crl (tiInOff n) w
    if bits old 0 12 = bits w 0 12 then s else s.modTi n (fun i => { i with settleAt := some (s.cc.time.tick + 10_000) })

def execTiInputConfigWrite (n : Nat) (v : Word) (s : State) : Out := run (n < 8) (writeTiIn n v.toNat) s

/-- The change has settled, at the latest 10 µs after the write (R161). -/
def execTiInputSettled (n : Nat) (s : State) : Out :=
  run (n < 8) (fun s => s.modTi n (fun i => { i with settleAt := none })) s

/-! ## In-band link calibration (R174 to R176) -/

/-- One latency register moves toward its measurement by at most 65 units; out of 200 ps of trim it is left and named. -/
def moveLatency (port off dir trim : Nat) (meas : Int) (s : State) : State :=
  if 131072 < (meas - trim).natAbs * 10 then (s.setEv .crl 0x3404 4).raise .crl 0x1304 0 [port, dir]
  else
    let cur := s.reg .crl (portBase .crl port + off)
    let d := max (-65) (min (meas - cur) 65)
    s.setReg .crl (portBase .crl port + off) ((cur : Int) + d).toNat

/-- Rounds to the nearest integer, halves up. -/
def roundRat (x : Rat) : Int := (x + 1 / 2).floor

/-- The mean of a path's 64 intervals, to the nearest 2^-16 ns (R174, log entry 152). -/
def mean64 (l : List Int) : Int := roundRat ((l.sum : Rat) / 64)

/-- One port's visit: the means of its 64 intervals a path and the port's strobe-to-tap differences (R174, R175); none while its PCC core is
down (R455). -/
def execInbandPortVisit (port : Nat) (txs : List Int) (rxs : List Int) (s : State) : Out :=
  run (port < 129 && txs.length = 64 && rxs.length = 64) (fun s =>
    if s.inbandCal && (s.port .crl port).timed && !coreDown .crl (pccOf port) s then
      let tx := mean64 txs
      let rx := mean64 rxs
      let trim := tget (0, 0) s.cc.topo.trims port
      let k := tget (0, 0) s.cc.topo.ktrims port
      moveLatency port 0x0C 1 trim.2 (rx + k.2) (moveLatency port 0x08 0 trim.1 (tx + k.1) s)
    else s) s

/-- LP_ASYM at the lower-tier end from ALPHA and d_avg; no write for ALPHA 0x8000_0000 (R176), and none in the cycle of a host's write,
whose value is kept (R78). -/
def execAsymUpdate (p : Part) (port : Nat) (s : State) : Out :=
  run (port < p.ports) (fun s =>
    match tfind (s.core p).topo.links port with
    | none => s
    | some l =>
      if l.alpha = -0x8000_0000 || !s.lowerEnd p port || !(s.port p port).timed || (s.port p port).asymHost = some (s.tick p) then s
      else
        let a : Int := roundRat ((l.alpha : Rat) * (s.port p port).exch.dAvg / 2 / (2 ^ 32 : Rat))
        (s.setReg p (portBase p port + 0x10) (toUnsigned 32 a)).modPort p port (fun q => { q with asymFw := true })) s

end Sys2Proof.Machine
end

