-- ==== Sys2Proof/Machine/Rings.lean ====
section
/-! DEFINITION. The ring engine, mailboxes and channels: doorbells, dispatch, opening and closing, room that returns, and
the management commands that act on channels (R439 to R448, R454, R462 to R467, R483 to R487). -/

namespace Sys2Proof.Machine

/-! ## The command table (R462 to R467) -/

/-- Payload length of a command code on a part; none for a code that is not listed (R462, R467). -/
def payloadLen (p : Part) (code : Nat) : Option Nat :=
  match code with
  | 0x0001 => some 8 | 0x0002 => some 40 | 0x0003 => some 8
  | 0x0004 => some (match p with | .spn => 8 | .crl => 32)
  | 0x0005 => some 8 | 0x0006 => some 8 | 0x0007 => some 16 | 0x0008 => some 8 | 0x0009 => some 0 | 0x000A => some 24
  | 0x000B => some 0 | 0x000C => some 24
  | 0x0100 => some 16 | 0x0101 => some 16 | 0x0102 => some 8
  | 0x0200 => some 8 | 0x0201 => some 56 | 0x0202 => some 8 | 0x0203 => some 0
  | 0x0300 => some 48 | 0x0301 => some 8 | 0x0302 => some 24 | 0x0303 => some 24 | 0x0304 => some 16 | 0x0305 => some 16
  | 0x0306 => some 8 | 0x0307 => some 16 | 0x0308 => some 16 | 0x0309 => some 24
  | 0x0400 => some 104 | 0x0401 => some 16 | 0x0402 => some 8 | 0x0403 => some 16 | 0x0404 => some 32 | 0x0405 => some 8
  | 0x0406 => some 16
  | 0x0500 => some 32 | 0x0501 => some 8 | 0x0502 => some 24 | 0x0503 => some 8 | 0x0504 => some 24
  | 0x0600 => some 320 | 0x0601 => some 56 | 0x0602 => some 8 | 0x0603 => some 8 | 0x0604 => some 16 | 0x0605 => some 16
  | 0x0606 => some 16 | 0x0607 => some 8 | 0x0608 => some 8 | 0x0609 => some 8
  | 0x0700 => some 136 | 0x0701 => some 24
  | 0x0800 => some 0
  | _ => none

/-- The owning core of a command (R464). -/
def owningCore (p : Part) (code : Nat) (pl : Bytes) : Nat :=
  match code with
  | 0x0006 | 0x0007 | 0x0008 | 0x0009 | 0x000B | 0x000C => 0
  | 0x0800 => 1
  | 0x0200 => match p with
    | .spn => 2
    | .crl => pccOf (rdLe pl 0 2)
  | _ => 2

/-- `INVALID_FIELD` in the command entry (R473). -/
def entryField (off : Nat) : Refuse := invalidField 1 off

/-- The entry checks of R442, R462 and R467 in the order of the entry's bytes: code, flags, payload address, and the inline
bytes where the payload stands elsewhere. Answers the payload. -/
def entryPayload (p : Part) (mgmt : Bool) (e : Bytes) (s : State) : Except Refuse Bytes := do
  let code := rdLe e 0 2
  let addr := rdLe e 16 8
  match payloadLen p code with
  | none => .error (entryField 0)
  | some n =>
    guardE (!mgmt || code < 0x100) (entryField 0)
    guardE (rdLe e 2 1 < 8) (entryField 2)
    guardE (rdLe e 3 1 = 0) (entryField 3)
    guardE (rdLe e 8 8 ≠ 0) (entryField 8)
    guardE (if addr = 0 then n ≤ 40 else !badHostRange p addr n) (entryField 16)
    if addr = 0 then
      match (((e.drop 24).drop n).zipIdx.find? (fun b => b.1 ≠ 0)).map (·.2) with
      | some o => .error (entryField (24 + n + o))
      | none => .ok ((e.drop 24).take n)
    else
      match ((e.drop 24).zipIdx.find? (fun b => b.1 ≠ 0)).map (·.2) with
      | some o => .error (entryField (24 + o))
      | none => .ok (s.rd p addr n)

/-- The request that an entry is. -/
def reqOf (via : Via) (e : Bytes) : Req :=
  let f := rdLe e 2 1
  { via := via, seq := rdLe e 4 4, key := rdLe e 8 8, fence := f.testBit 0, relaxed := f.testBit 1, notify := f.testBit 2 }

/-- Hands a judged entry to its core: in flight until it completes; a core that restarts refuses it (R456). -/
def dispatchTo (p : Part) (q : Req) (code : Nat) (pl : Bytes) (posted : Option Nat) (s : State) : State :=
  let core := owningCore p code pl
  if coreDown p core s then
    let d := downLeft p core s
    complete p q code core 0x0100 d.1 [] d.2
  else
    let i : Inflight := { via := q.via, seq := q.seq, key := q.key, code := code, core := core, relaxed := q.relaxed,
                          notify := q.notify, payload := pl, posted := posted }
    s.modCore p (fun c => { c with inflight := c.inflight ++ [i] })

/-! ## Dispatch (R446, R447) -/

/-- Whether an entry must wait for earlier commands of its channel (R447). -/
def mustWait (p : Part) (ch : Nat) (q : Req) (s : State) : Bool :=
  (s.core p).inflight.any (fun i => i.via = .ring ch && (q.fence || (!q.relaxed && !i.relaxed)))

/-- The ring engine takes the channel's next entry: its sequence number, its key, its form, then its core (R446). A channel
whose completion ring lacks room takes none (R444). -/
def dispatch (p : Part) (ch : Nat) (s : State) : State :=
  let c := s.chan p ch
  if !c.isOpen || c.cmdSize = 0 || c.cmdRead = c.cmdWrite then s
  else if c.full then s
  else if !c.room p 1 s then
    ringFull p ch (s.modChan p ch (Chan.noRoom (s.tick p)))
  else
    let e := s.rd p (c.cmdBase + 64 + 64 * (c.cmdRead % c.cmdSize)) 64
    let q := reqOf (.ring ch) e
    if mustWait p ch q s then s
    else
      let read := (c.cmdRead + 1) % 2 ^ 32
      let code := rdLe e 0 2
      let posted := (c.posts.find? (fun e => (e.1 + 2 ^ 32 - c.cmdRead) % 2 ^ 32 ≠ 0)).map (·.2)
      let s := (s.wr p (c.cmdBase + 8) (le 4 read)).modChan p ch (fun c => { c with
        cmdRead := read, posts := c.posts.filter (fun e => e.1 ≠ read) })
      let core := owningCore p code []
      if q.seq ≠ c.nextSeq then complete p q code core 0x0102 0 [] s
      else
        let s := s.modChan p ch (fun c => { c with nextSeq := (c.nextSeq + 1) % 2 ^ 32 })
        match c.recent.find? (fun r => r.1 = q.key) with
        | some r =>
          if r.2.1 = code then
            let flags := rdLe r.2.2 1 1 ||| 1
            putCompletion p q (r.2.2.take 1 ++ le 1 flags ++ (r.2.2.drop 2).take 2 ++ le 4 q.seq ++ r.2.2.drop 8) s
          else complete p q code core 0x0103 0 [] s
        | none =>
          match entryPayload p false e s with
          | .error r => complete p q code core r.1 r.2 [] s
          | .ok pl =>
            if q.relaxed && !s.featureOn p 0 then complete p q code core 0x0104 0 [] s
            else if c.stale && ch ≠ 0 then complete p q code core 0x0201 0 [] s
            else dispatchTo p q code pl posted s

def execRingEntryDispatch (p : Part) (ch : Nat) (s : State) : Out := run (ch < p.chans) (dispatch p ch) s

/-! ## Doorbells and mailboxes (R439, R484, R486) -/

/-- DB_BAD (R481). -/
def dbBad (p : Part) (s : State) : State := s.setEv p (fwEvents p) 5

/-- A doorbell's new WRITE (R486). -/
def ringDoorbell (p : Part) (ch w : Nat) (s : State) : State :=
  let c := s.chan p ch
  let ahead := (w + 2 ^ 32 - c.cmdRead) % 2 ^ 32
  let had := (c.cmdWrite + 2 ^ 32 - c.cmdRead) % 2 ^ 32
  if !c.isOpen || c.cmdSize = 0 || c.cmdSize < ahead || ahead < had then dbBad p s
  else s.modChan p ch (fun c => { c with cmdWrite := w, posts := if ahead = had then c.posts else c.posts ++ [(w, s.tick p)] })

def execRingDoorbell (p : Part) (ch : Nat) (v : Word) (s : State) : Out := run (ch < p.chans) (ringDoorbell p ch v.toNat) s

/-- The mailbox doorbell: the message is latched and handed on as a command, or the write is ignored while one is
unanswered (R439, R484). -/
def mbDoorbell (p : Part) (core v : Nat) (s : State) : State :=
  if !v.testBit 0 then s
  else if (s.mboxOf p core).busy then s.modMbox p core (fun m => { m with overrun := true }) |>.noteEv p (mbFlagsOff p core) 4
  else
    let s := s.modMbox p core (fun m => { m with latched := padTo 64 m.msg, busy := true, rdy := false })
    let e := (s.mboxOf p core).latched
    let q := reqOf (.mbox core) e
    let code := rdLe e 0 2
    match entryPayload p true e s with
    | .error r => complete p q code (owningCore p code []) r.1 r.2 [] s
    | .ok pl => dispatchTo p q code pl (some (s.tick p)) s

def execMbDoorbell (p : Part) (core : Nat) (v : Word) (s : State) : Out :=
  run (core < p.cores) (mbDoorbell p core (v.toNat ||| 1)) s

/-! ## Opening and closing (R441, R485) -/

/-- A legal SIZE of a ring (R440). -/
def sizeOk (p : Part) (n : Nat) : Bool :=
  (List.range 21).any (fun k => n = 2 ^ k) && (match p with
    | .spn => 16 ≤ n && n ≤ 4096
    | .crl => 64 ≤ n && n ≤ 1_048_576)

/-- A ring that lies where rings may, on whole slots (R440, R441). -/
def ringOk (p : Part) (base size : Nat) : Bool := sizeOk p size && base % 64 = 0 && !badHostRange p base (64 + 64 * size)

/-- A channel opened over its rings: the counts that the ring headers hold, no remembered key (log entry 27). Records that
waited stay so until room is found. -/
def openChan (p : Part) (ch cmdBase cmdSize cplBase cplSize vector first : Nat) (s : State) : State :=
  let read := if cmdSize = 0 then 0 else rdLe (s.rd p (cmdBase + 8) 4) 0 4
  let write := rdLe (s.rd p cplBase 4) 0 4
  s.modChan p ch (fun c => { c with
    isOpen := true, cmdBase := cmdBase, cmdSize := cmdSize, cplBase := cplBase, cplSize := cplSize, vector := vector,
    nextSeq := first, cmdRead := read, cmdWrite := read, posts := [], cplWrite := write, recent := [], closing := false, stale := false })

def judgeChanOpen (p : Part) (s : State) (pl : Bytes) : Except Refuse (State → Effect) := do
  let ch := rdLe pl 0 2
  let vec := rdLe pl 4 2
  let cmdBase := rdLe pl 8 8
  let cmdSize := rdLe pl 16 4
  let cplBase := rdLe pl 24 8
  let cplSize := rdLe pl 32 4
  let vmax := match p with
    | .spn => 16
    | .crl => 512
  let fw := (s.core p).fw
  checkPl [(0, 6), (8, 28)] [(0, 1 ≤ ch && ch < p.chans), (4, vec < vmax)] pl
  guardE (!(s.chan p ch).isOpen) (0x0200, 0)
  guardE (rdLe pl 2 1 = fw.major && rdLe pl 3 1 = fw.minor) (0x0201, 0)
  field (cmdSize = 0 || (cmdBase % 64 = 0 && !badHostRange p cmdBase (64 + 64 * cmdSize))) 8
  field (cmdSize = 0 || sizeOk p cmdSize) 16
  field (cplBase % 64 = 0 && !badHostRange p cplBase (64 + 64 * cplSize)) 24
  field (sizeOk p cplSize) 32
  pure (fun s => okWith (openChan p ch cmdBase cmdSize cplBase cplSize vec (rdLe pl 20 4) s))

def execChanOpen (p : Part) (q : Req) (pl : Bytes) (s : State) : Out := run (q.wf p) (runCmd p q 0x0002 2 pl (judgeChanOpen p)) s

/-- `CHAN_CLOSE` waits for the channel's commands (R441). Channel 0 is refused. -/
def judgeChanClose (p : Part) (q : Req) (_ : State) (pl : Bytes) : Except Refuse (State → Effect) := do
  let ch := rdLe pl 0 2
  checkPl [(0, 2)] [(0, 1 ≤ ch && ch < p.chans)] pl
  pure (fun s => later (s.modCore p (fun c => { c with
    waiting := c.waiting ++ [{ q := q, code := 0x0003, core := 2, on := [], close := some ch }] })))

def execChanClose (p : Part) (q : Req) (pl : Bytes) (s : State) : Out :=
  run (q.wf p) (runCmd p q 0x0003 2 pl (judgeChanClose p q)) s

/-- Channel 0's base and size registers. -/
def ch0Pair (p : Part) (o : Nat) (s : State) : Nat := s.reg p (ch0Base p + o) + 2 ^ 32 * s.reg p (ch0Base p + o + 4)

/-- CH0_CTRL.OPEN written 1: channel 0 opens from its registers, or the write is ignored with DB_BAD (R485). -/
def openCh0 (p : Part) (s : State) : State :=
  let cb := ch0Pair p 0x04 s
  let cs := s.reg p (ch0Base p + 0x0C)
  let rb := ch0Pair p 0x10 s
  let rs := s.reg p (ch0Base p + 0x18)
  if (s.chan p 0).isOpen then s.modChan p 0 (fun c => { c with closing := false })
  else if ringOk p cb cs && ringOk p rb rs then openChan p 0 cb cs rb rs 0 0 s
  else dbBad p s

/-- CH0_CTRL.OPEN written 0: channel 0 closes once its commands have completed. -/
def closeCh0 (p : Part) (s : State) : State := s.modChan p 0 (fun c => { c with closing := c.isOpen })

/-- A write of CH0_CTRL: its vector field, then OPEN. -/
def writeCh0Ctrl (p : Part) (v : Nat) (s : State) : State :=
  let s := s.setReg p (ch0Base p) (v &&& (regDef p (ch0Base p)).rw)
  if v.testBit 0 then openCh0 p s else closeCh0 p s

def execCh0Open (p : Part) (v : Word) (s : State) : Out := run true (writeCh0Ctrl p (v.toNat ||| 1)) s
def execCh0Close (p : Part) (v : Word) (s : State) : Out := run true (writeCh0Ctrl p (v.toNat &&& 0xFFFF_FFFE)) s

/-! ## Room that returns (R444) -/

/-- LOSS entry. -/
def lossRecord (c : Chan) : Bytes := padTo 64 (lay [(1, 0x71), (3, 0), (4, c.lost), (1, c.lostType)])

/-- An episode without room is over. The doorbells of the commands that wait count as later by the time they lost, since the time without
room extends their bounds (R444). -/
def endEpisode (p : Part) (ch : Nat) (s : State) : State :=
  let now := s.tick p
  let moved := fun (t : Nat) => t + (now - max t (s.chan p ch).fullAt)
  let s := s.modChan p ch (fun c => { c with store := [], full := false, posts := c.posts.map (fun e => (e.1, moved e.2)) })
  s.modCore p (fun c => { c with
    inflight := c.inflight.map (fun i => if i.via = .ring ch then { i with posted := i.posted.map moved } else i) })

/-- Stored records that the ring takes now, oldest first; the episode ends when none is left. -/
def drainStore (p : Part) (ch : Nat) : List (Bytes × Bool) → State → State
  | [], s => endEpisode p ch s
  | r :: rs, s =>
    if (s.chan p ch).room p (r.1.length / 64) s then drainStore p ch rs (ringWrite p ch r.1 r.2 s)
    else s.modChan p ch (fun c => { c with store := r :: rs })

/-- A full completion ring has room again: first the LOSS entry, then the stored records. -/
def roomReturn (p : Part) (ch : Nat) (s : State) : State :=
  let c := s.chan p ch
  if !c.isOpen || !c.full || !c.room p 1 s then s
  else
    let s := if c.lost = 0 then s
      else (ringWrite p ch (lossRecord c) true s).modChan p ch (fun c => { c with lost := 0, lostType := 0xFF })
    drainStore p ch c.store s

def execCompletionRoomReturn (p : Part) (ch : Nat) (s : State) : Out := run (ch < p.chans) (roomReturn p ch) s

/-! ## Versions, FENCE, CMD_ABORT, EOI (R448, R449, R454, R491) -/

def judgeHello (p : Part) (s : State) (pl : Bytes) : Except Refuse (State → Effect) := do
  let host := rdLe pl 0 4
  checkPl [(0, 4)] [(0, host < 16)] pl
  let f := (s.core p).fw
  let use := host &&& f.features
  pure (fun s =>
    let s := s.modCore p (fun c => { c with fw := { c.fw with inUse := some use } })
    okWith s (lay [(1, f.major), (1, f.minor), (2, f.patch), (4, f.features), (4, use)]))

def execMgmtHello (p : Part) (q : Req) (pl : Bytes) (s : State) : Out := run (q.wf p) (runCmd p q 0x0001 2 pl (judgeHello p)) s

/-- `FENCE` completes after every command accepted earlier on the channels of its mask (R448). -/
def judgeFence (p : Part) (q : Req) (s : State) (pl : Bytes) : Except Refuse (State → Effect) := do
  let n := match p with
    | .spn => 2
    | .crl => 32
  let mask := rdLe pl 0 n
  checkPl [(0, n)] [] pl
  guardE (s.featureOn p 1) (0x0104, 0)
  pure (fun s =>
    let on := ((s.core p).inflight.filter (fun i => i.taken && !(i.via = q.via && i.seq = q.seq) && (match i.via with
      | .ring ch => mask.testBit ch
      | .mbox _ => false))).map (fun i => (i.via, i.seq))
    if on.isEmpty then okWith s
    else later (s.modCore p (fun c => { c with waiting := c.waiting ++ [{ q := q, code := 0x0004, core := 2, on := on }] })))

def execFence (p : Part) (q : Req) (pl : Bytes) (s : State) : Out := run (q.wf p) (runCmd p q 0x0004 2 pl (judgeFence p q)) s

/-- `CMD_ABORT` names a channel and a sequence number (R449). -/
def judgeAbort (p : Part) (s : State) (pl : Bytes) : Except Refuse (State → Effect) := do
  let ch := rdLe pl 0 2
  let seq := rdLe pl 4 4
  checkPl [(0, 2), (4, 4)] [(0, ch < p.chans)] pl
  let named := fun (b : BJob) => b.q.via = .ring ch && b.q.seq = seq
  let job := (s.core p).jobs.find? named
  let other := (s.core p).inflight.any (fun i => i.via = .ring ch && i.seq = seq)
  guardE (match job with
    | some b => b.code ≠ 0x000B
    | none => !other) (0x0106, 0)
  pure (fun s =>
    let s := s.modCore p (fun c => { c with jobs := c.jobs.map (fun b => if named b then { b with aborting := true } else b) })
    okWith s (lay [(4, bitAt job.isSome 0)]))

def execCmdAbort (p : Part) (q : Req) (pl : Bytes) (s : State) : Out := run (q.wf p) (runCmd p q 0x0005 2 pl (judgeAbort p)) s

/-- End of service of a vector: a further message if it is still asserted (R491). -/
def intEoi (v : Nat) (s : State) : State :=
  let vec := v % 512
  if (s.vectors .crl).contains vec then sendMsi [vec] s else s
def execIntEoi (v : Word) (s : State) : Out := run true (intEoi v.toNat) s

end Sys2Proof.Machine
end

