-- ==== Sys2Proof/Machine/DmaUnit.lean ====
section
/-! DEFINITION. DMA channels and BULK messages (R63, R450 to R453, R492 to R494). -/

namespace Sys2Proof.Machine

/-- Block of a DMA channel (R492). -/
def dmaOff (p : Part) (c : Nat) : Nat :=
  match p with
  | .spn => 0x0500 + 0x40 * c
  | .crl => 0xA000 + 0x40 * c

/-- Fill level of the ring a channel watches (R451). -/
def ringFill (p : Part) (d : Dma) (s : State) : Nat :=
  let c := s.chan p d.paceCh
  if d.paceCpl then (c.cplWrite + 2 ^ 32 - c.cplRead p s) % 2 ^ 32 else (c.cmdWrite + 2 ^ 32 - c.cmdRead) % 2 ^ 32

/-- Whether two ranges share a byte. -/
def overlap (a b n : Nat) : Bool := a < b + n && b < a + n

/-- START refused with FAULT = INVALID (R450, R451, R494, R541). -/
def dmaInvalid (p : Part) (d : Dma) (s : State) : Bool :=
  let far := fun (a : Nat) => match p with
    | .spn => 2 ^ 48 < a + d.count
    | .crl => a < hostBit && stackEnd < a + d.count
  let c := s.chan p d.paceCh
  let size := if d.paceCpl then c.cplSize else c.cmdSize
  far d.src || (!d.remote && far d.dst) || (!d.remote && overlap d.src d.dst d.count)
    || (d.pace && (!c.isOpen || d.high ≤ d.low || size < d.high)) || (d.remote && !heaLegal d.hea)

/-- DMA_CTRL's RW fields. -/
def dmaCtrlFields (p : Part) (v : Nat) (d : Dma) : Dma :=
  { d with pace := v.testBit 2, remote := v.testBit 3, planeB := p = .spn && v.testBit 4, notify := v.testBit 5, retry := bits v 8 4 }

/-- A transfer that stands at a unit boundary. -/
def Dma.atBoundary (d : Dma) : Bool := d.halted || (d.busy && d.paused)

/-- ABORT ends a transfer at its next unit boundary; a halted or paused one stands at one (R493). -/
def dmaAbortCh (d : Dma) : Dma :=
  if d.atBoundary then
    { d with busy := false, paused := false, halted := false, aborted := true, abortDue := false, msg := none, failTick := none }
  else if d.busy then { d with abortDue := true }
  else d

/-- START: ignored while BUSY; after a halt from the failing address; else a new transfer, or FAULT = INVALID (R450 to R452,
R493). -/
def dmaStartCh (p : Part) (c : Nat) (s : State) : State :=
  let d := s.dmaCh p c
  if d.busy then s
  else if d.halted then s.modDma p c (fun d => { d with halted := false, busy := true, fault := 0, tries := 0, failTick := none })
  else if dmaInvalid p d s then s.modDma p c (fun d => { d with fault := 1 })
  else if d.count = 0 then (s.modDma p c (fun d => { d with fault := 0, done := true })).noteEv p (dmaStatOff p c) 8
  else s.modDma p c (fun d => { d with
    busy := true, fault := 0, tries := 0, failTick := none, msg := none, abortDue := false,
    paused := d.pace && d.high ≤ ringFill p d s })

/-- A write of DMA_CTRL; the fields only while idle, ABORT before START (R493). -/
def writeDmaCtrl (p : Part) (c v : Nat) (s : State) : State :=
  let d := s.dmaCh p c
  let s := if d.busy || d.halted then s else s.modDma p c (dmaCtrlFields p v)
  if v.testBit 1 then
    let s := if d.atBoundary then s.noteEv p (dmaStatOff p c) 16 else s
    s.modDma p c dmaAbortCh
  else if v.testBit 0 then dmaStartCh p c s
  else s

def execDmaStart (p : Part) (c : Nat) (v : Word) (s : State) : Out :=
  run (c < p.dmas) (writeDmaCtrl p c (v.toNat ||| 1)) s
def execDmaAbort (p : Part) (c : Nat) (v : Word) (s : State) : Out :=
  run (c < p.dmas) (writeDmaCtrl p c (v.toNat ||| 2)) s

/-! ## Units -/

/-- The channel halts after its repetitions: the address is kept and named (R452). -/
def dmaHalt (p : Part) (c fault addr : Nat) (s : State) : State :=
  (s.modDma p c (fun d => { d with busy := false, paused := false, halted := true, fault := fault, err := addr, msg := none,
                                   failTick := none })).raise p 0x1B05 0 [c, addr]

/-- `n` bytes are done: the addresses move on, and the transfer ends, aborts or pauses at this boundary (R450, R451). -/
def dmaAdvance (p : Part) (c n : Nat) (s : State) : State :=
  let s := s.modDma p c (fun d => { d with src := d.src + n, dst := d.dst + n, count := d.count - n, tries := 0, failTick := none,
                                           msg := none })
  let d := s.dmaCh p c
  let s := if d.count = 0 then s.noteEv p (dmaStatOff p c) 8 else if d.abortDue then s.noteEv p (dmaStatOff p c) 16 else s
  s.modDma p c (fun d' =>
    if d.count = 0 then { d' with busy := false, done := true, abortDue := false }
    else if d.abortDue then { d' with busy := false, aborted := true, abortDue := false }
    else { d' with paused := d.pace && d.high ≤ ringFill p d s })

/-- One local unit is copied. -/
def dmaCopy (p : Part) (c : Nat) (s : State) : State :=
  let d := s.dmaCh p c
  let n := min 64 d.count
  dmaAdvance p c n (s.wr p d.dst (s.rd p d.src n))

/-- The BULK_WRITE message of a remote channel: at most 64 KiB (R453). -/
def bulkCells (dst addr chan no : Nat) (data : Bytes) : List Cell :=
  let c : Cell := { cls := clsBulk, typ := 0, part := 0, dst := dst }
  cellsOf c 48 48 (lay [(8, addr), (4, data.length), (2, chan), (2, no)] ++ data)

/-- Sends `n` bytes whose layout is not stated to the partner over PX, as a BULK message whose place, channel and number are not stated either:
free (R28, R405; log entry 102). -/
def sendPartner (n : Nat) (s : State) : State :=
  let d := s.draw
  let b := d.2.drawBytes n
  (bulkCells (s.hea .crl ^^^ 16) (d.1 % 2 ^ 35) (d.1 / 2 ^ 35 % 256) (d.1 / 2 ^ 43 % 65536) b.1).foldl (fun s x => sendCell .crl pxPort x s) b.2

/-- Sends a list of cells toward their destination. -/
def sendCells (p : Part) (plane : Plane) (cs : List Cell) (s : State) : State := cs.foldl (fun s c => sendTo p plane c s) s

/-- Sends, or sends again, the message of `n` bytes at the channel's addresses. -/
def dmaSend (p : Part) (c no n : Nat) (s : State) : State :=
  let d := s.dmaCh p c
  let plane := if d.planeB then Plane.b else .a
  let s := sendCells p plane (bulkCells d.hea d.dst c no (s.rd p d.src n)) s
  s.modDma p c (fun d => { d with msg := some (no, n, s.tick p) })

/-- A unit of a running channel: a local copy, or a remote channel's next message. A failed access waits for its repetition
(R452). -/
def dmaUnit (p : Part) (c : Nat) (ok : Bool) (s : State) : State :=
  let d := s.dmaCh p c
  if !d.busy || d.paused || d.failTick.isSome || d.msg.isSome then s
  else if !ok then
    if d.retry = 0 then dmaHalt p c 2 d.src s else s.modDma p c (fun d => { d with failTick := some (s.tick p) })
  else if d.remote then
    let s := s.modDma p c (fun d => { d with msgNo := (d.msgNo + 1) % 65536 })
    dmaSend p c d.msgNo (min 65536 d.count) s
  else dmaCopy p c s

def execDmaUnitCopy (p : Part) (c : Nat) (ok : Bool) (s : State) : Out := run (c < p.dmas) (dmaUnit p c ok) s

/-- A repetition 1 µs after a failed access (R452). -/
def dmaRetry (p : Part) (c : Nat) (ok : Bool) (s : State) : State :=
  let d := s.dmaCh p c
  match d.failTick with
  | none => s
  | some t =>
    if !d.busy || s.tick p < t + 1000 then s
    else if ok then dmaUnit p c true (s.modDma p c (fun d => { d with failTick := none, tries := 0 }))
    else if d.retry ≤ d.tries + 1 then dmaHalt p c 2 d.src s
    else s.modDma p c (fun d => { d with tries := d.tries + 1, failTick := some (s.tick p) })

def execDmaAccessRetry (p : Part) (c : Nat) (ok : Bool) (s : State) : Out := run (c < p.dmas) (dmaRetry p c ok) s

def execDmaPaceResume (p : Part) (c : Nat) (s : State) : Out :=
  run (c < p.dmas) (fun s =>
    let d := s.dmaCh p c
    if d.busy && d.paused && ringFill p d s ≤ d.low then s.modDma p c (fun d => { d with paused := false }) else s) s

/-! ## BULK messages (R453) -/

/-- A BULK_ACK cell. -/
def bulkAck (dst no chan status : Nat) : Cell :=
  { cls := clsBulk, typ := 1, part := 0, dst := dst, body := lay [(2, no), (2, chan), (1, status)] }

/-- Whether a message's range exists at this part. -/
def bulkLands (p : Part) (a n : Nat) : Bool :=
  match p with
  | .spn => a + n ≤ 2 ^ 48
  | .crl => hostBit ≤ a || a + n ≤ stackEnd

/-- The entry that an item of the mirror journal spells (R351). -/
def reqOfBytes (b : Bytes) : ReqEnt :=
  let f := rdLe b 5 1
  let st : ReqState := match rdLe b 4 1 with
    | 2 => .joining
    | 3 => .running
    | 4 => .leaving
    | 5 => .moving
    | _ => .queued
  { id := rdLe b 0 4, state := st, cls := f % 8, hank := f.testBit 3, dlrec := f.testBit 4, cancel := f.testBit 5, cancelLate := f.testBit 6,
    mirrored := f.testBit 7, slot := rdLe b 6 2, part := rdLe b 8 2, band := rdLe b 10 1, miss := rdLe b 11 1, pepoch := rdLe b 12 4,
    adapter := rdLe b 16 4, aEpoch := rdLe b 20 2, newSlot := rdLe b 22 2, param := rdLe b 24 8, prompt := rdLe b 32 8, plen := rdLe b 40 4,
    ns := rdLe b 44 4, ttftTgt := rdLe b 48 4, tbtTgt := rdLe b 52 4, tSubmit := rdLe b 56 8, tLast := rdLe b 64 8, tokens := rdLe b 72 4,
    ttft := rdLe b 76 4, tbtMiss := rdLe b 80 4, tbtMax := rdLe b 84 4, hit := rdLe b 88 2, moves := rdLe b 90 2, hitNode := rdLe b 92 4,
    targetC := rdLe b 96 4, seq := rdLe b 100 4, tag := rdLe b 104 8, gen := rdLe b 112 4, tState := rdLe b 120 8
    started := st = .running || st = .leaving, mgen := some (rdLe b 112 4) }

/-- A journal message applies to the mirror of its partition: entries as kind 1 gives them; the layout of the other kinds' items is not
stated (log entry 43), nor how the partition's domain epoch and D come with the first of them: free values (R44, log entry 142). The
acknowledgement follows (R376). -/
def mirrorTake (data : Bytes) (s : State) : State :=
  let part := rdLe data 0 2
  let c := rdLe data 4 4
  let n := rdLe data 12 4
  if rdLe data 8 1 ≠ 1 then s
  else
    let epoch := tget 0 s.crl.epochs part
    let m := (tfind s.crl.mirror part).getD { root := { epoch := epoch }, cm := c }
    let reqs := (List.range n).foldl (fun t i =>
      let b := (data.drop (16 + 128 * i)).take 128
      let idx := rdLe b 116 4
      if rdLe b 4 1 = 0 then tdel t idx else tput t idx (reqOfBytes b)) m.reqs
    let s := { s with crl.mirror := tput s.crl.mirror part { m with cm := max m.cm c, reqs := reqs } }
    let d := s.draw
    let s := if (tfind s.crl.held part).isSome then s
      else { d.2.draw.2 with crl.held := tput s.crl.held part (d.1, toSigned 64 d.2.draw.1) }
    sendCell .crl pxPort { ctlCell 0x09 part epoch (lay [(4, c), (4, n)]) with local_ := true } s

/-- Whether a message lands in the mirror journal (R438). -/
def inJournal (p : Part) (port a : Nat) : Bool :=
  match p with
  | .spn => false
  | .crl => port = pxPort && 0x7800_0000 ≤ a && a < 0x8000_0000

/-- A BULK_WRITE message: complete, it is written and acknowledged; with a cell lost, it is not (R63, R453). The answer goes
back the way the message came. -/
def bulkWrite (p : Part) (port : Nat) (m : BulkMsg) (s : State) : State :=
  if !m.ok then (sendCell p port (bulkAck m.src m.msgNo m.chan 1) s).raise p 0x1B06 0 [s.hea p, m.src, m.msgNo]
  else if bulkLands p m.addr m.data.length then
    let s := sendCell p port (bulkAck m.src m.msgNo m.chan 0) (s.wr p m.addr m.data)
    if inJournal p port m.addr then mirrorTake m.data s else s
  else sendCell p port (bulkAck m.src m.msgNo m.chan 2) s

def execBulkWriteReceived (p : Part) (port : Nat) (m : BulkMsg) (s : State) : Out :=
  run (port < p.ports) (bulkWrite p port m) s

/-- A message that was not acknowledged OK is sent again, counting against RETRY, or halts the channel (R453). -/
def bulkFailed (p : Part) (c : Nat) (s : State) : State :=
  let d := s.dmaCh p c
  match d.msg with
  | none => s
  | some (no, n, _) =>
    if d.retry ≤ d.tries then dmaHalt p c 3 d.dst s
    else dmaSend p c no n (s.modDma p c (fun d => { d with tries := d.tries + 1 }))

/-- A BULK_ACK ends the message, or it is sent again. -/
def bulkAcked (p : Part) (c msgNo status : Nat) (s : State) : State :=
  match (s.dmaCh p c).msg with
  | none => s
  | some (no, n, _) =>
    if no ≠ msgNo then s else if status = 0 then dmaAdvance p c n s else bulkFailed p c s

def execBulkAckReceived (p : Part) (c : Nat) (msgNo : Nat) (status : Nat) (s : State) : Out :=
  run (c < p.dmas) (bulkAcked p c msgNo status) s

/-- No BULK_ACK within 200 µs. -/
def execBulkAckTimeout (p : Part) (c : Nat) (s : State) : Out :=
  run (c < p.dmas) (fun s =>
    match (s.dmaCh p c).msg with
    | some (_, _, t) => if t + 200_000 ≤ s.tick p then bulkFailed p c s else s
    | none => s) s

end Sys2Proof.Machine
end

