-- ==== Sys2Proof/Machine/Firmware.lean ====
section
/-! DEFINITION. Firmware cores, images, activation and emergency, zeroization and debug unlock (R432 to R437, R455 to
R459, R496 to R515). -/

namespace Sys2Proof.Machine

/-! ## Restarting one core (R455, R456) -/

/-- TRIPPED of a part (R422). -/
def State.tripped (p : Part) (s : State) : Bool :=
  match p with
  | .spn => s.spn.wh.tripped
  | .crl => s.crl.whorl.tripped

/-- An emergency holds: TRIPPED, or a condition that a monitor has reported (R459). -/
def State.emergency (p : Part) (s : State) : Bool := s.tripped p || !(s.core p).fw.emergency.isEmpty

/-- Whether a command waits for core `core` to restart it: the `CORE_RESTART` itself is not ended by the restart. -/
def isRestartCmd (p : Part) (core : Nat) (s : State) (i : Inflight) : Bool :=
  ((s.fwCore p core).restartQ).any (fun q => q.via = i.via && q.seq = i.seq)

/-- Whether a class B command has passed its commit point, which of those that go on only a teardown can: the launch at whose doff the
members leave. -/
def BJob.past (b : BJob) (s : State) : Bool :=
  b.code = 0x0301 && (tfind s.crl.parts (b.args.getD 0 0)).any (fun r => r.tearC.isSome)

/-- Whether a command in flight is one that has passed its commit point. -/
def State.pastCommit (p : Part) (i : Inflight) (s : State) : Bool :=
  (s.core p).jobs.any (fun b => b.q.via = i.via && b.q.seq = i.seq && b.past s)

/-- Completes with `RESTARTED` every command the core had accepted and that has not reached its commit point (R456). Its class B jobs then
stand without a command in flight, and `dropEnded` takes them away. -/
def endAccepted (p : Part) (core : Nat) (s : State) : State :=
  let mine := (s.core p).inflight.filter (fun i => i.core = core && i.taken && !isRestartCmd p core s i && !s.pastCommit p i)
  let gone := fun (q : Req) => mine.any (fun i => i.via = q.via && i.seq = q.seq)
  let s := s.modCore p (fun c => { c with
    waiting := c.waiting.filter (fun w => w.core ≠ core)
    cores := c.cores.map (fun (e : Nat × FwCore) => (e.1, { e.2 with restartQ := e.2.restartQ.filter (fun q => !gone q) })) })
  mine.foldl (fun s i =>
    complete p { via := i.via, seq := i.seq, key := i.key, relaxed := i.relaxed, notify := i.notify } i.code i.core 1 0 [] s) s

/-- A core goes down; it runs again within 3 ms. No register changes but the core's own DTCSEL (R9, R45, R455); a
calibration that the core ran for the die temperature starts over (R172). -/
def restartCore (p : Part) (core : Nat) (s : State) : State :=
  let until_ := s.tick p + 3_000_000
  let s := if p = .crl then { s with crl.dtcSel := tdel s.crl.dtcSel core } else s
  let s := if p = .crl && core = 2 then { s with crl.ti.calSelf := s.crl.ti.calSelf.map (fun _ => 0) } else s
  let s := s.modFwCore p core (fun c => { c with running := false, down := some until_, wdHeld := false })
  (endAccepted p core s).setEv p (fwEvents p) 1

/-- The restart of PWR waits while an emergency holds (R459). -/
def restartOrHold (p : Part) (core : Nat) (s : State) : State :=
  if core = 1 && s.emergency p then s.modFwCore p 1 (fun c => { c with wdHeld := true }) else restartCore p core s

/-- FW_EVENT record (R456). The manual gives the cause byte no codes; it is a free value (log entry 28). -/
def fwEvent (p : Part) (event core ver : Nat) (s : State) : State :=
  let d := s.draw
  let rec_ := lay [(1, 0x72), (1, event), (1, core), (1, d.1), (4, ver), (8, s.tick p)]
  d.2.post p 0 rec_

/-- The core runs again: its FW_EVENT, and the completion of the `CORE_RESTART` that named it (R455, R456). -/
def coreRuns (p : Part) (core : Nat) (s : State) : State :=
  let c := s.fwCore p core
  if c.down.isNone then s
  else
    let s := s.modFwCore p core (fun c => { c with running := true, down := none, activated := false, restartQ := none })
    let s := fwEvent p (if c.activated then 2 else 1) core c.ver s
    let s := if c.activated then s.setEv p (fwEvents p) 6 else s
    let s := match c.restartQ with
      | some q => complete p q 0x0006 0 0 0 [] s
      | none => s
    runHeld p core s

def execCoreRestartDone (p : Part) (core : Nat) (s : State) : Out := run (core < p.cores) (coreRuns p core) s

/-! ## Images (R433 to R435, R457) -/

/-- Payload length of an image, from its header. -/
def imgLen (img : Bytes) : Nat := rdLe img 20 4
/-- Payload of an image. -/
def imgPayload (img : Bytes) : Bytes := (img.drop 128).take (imgLen img)

/-- A well-formed header with its signature block's padding (R434). -/
def imgForm (p : Part) (img : Bytes) : Bool :=
  let kind := rdLe img 6 1
  let ck := rdLe img 8 1
  let cores := match p with
    | .spn => ck < 4
    | .crl => ck < 3 || ck = 4
  rdLe img 0 4 = 0x4D495953 && rdLe img 4 2 = 1 && 1 ≤ kind && kind ≤ 4 && rdLe img 7 1 = (match p with | .spn => 0 | .crl => 1)
    && (if kind = 1 then cores else ck = 0xFF) && rdLe img 14 1 < 2 && rdLe img 15 1 = 0 && imgLen img % 64 = 0
    && (kind = 1 || rdLe img 28 4 = 0) && rdLe img 80 48 = 0 && img.length = 128 + imgLen img + 4736
    && rdLe (img.drop (128 + imgLen img)) 4723 13 = 0

/-- Both signatures verify under one vendor key that is not revoked, or one owner key of the record (R435, R500). -/
def imgSigned (p : Part) (signer : Nat) (digest e m : Bytes) (s : State) : Bool :=
  let sec := (s.core p).sec
  if signer = 0 then
    Config.vendorKeys.zipIdx.any (fun k => !sec.revoked.testBit k.2 && Config.ecdsaVerify k.1.1 digest e && Config.mldsaVerify k.1.2 digest m)
  else sec.ownerKeys.any (fun k => !k.all (· = 0) && Config.ecdsaVerify k digest e && Config.mldsaVerify k digest m)

/-- SEC accepts an image (R435). -/
def imgAccepted (p : Part) (img : Bytes) (s : State) : Bool :=
  let sig := img.drop (128 + imgLen img)
  imgForm p img && (img.drop 32).take 48 = sha384 (imgPayload img)
    && imgSigned p (rdLe img 14 1) (sha384 (img.take 128)) (sig.take 96) ((sig.drop 96).take 4627) s
    && (s.core p).sec.minSec.getD (rdLe img 6 1 - 1) 0 ≤ rdLe img 16 4

/-- The slots of a kind and core kind. -/
def State.slotsOf (p : Part) (kind ck : Nat) (s : State) : List FlashSlot :=
  (s.core p).fw.flash.filter (fun f => f.kind = kind && f.coreKind = ck)

/-- The inactive slot of a kind: B while A is ACTIVE, else A. -/
def inactiveB (l : List FlashSlot) : Bool := l.any (fun f => !f.slotB && f.state = .active)

/-- Writes a slot of the flash. -/
def putSlot (p : Part) (f : FlashSlot) (s : State) : State :=
  s.modCore p (fun c => { c with
    fw := { c.fw with
    flash := c.fw.flash.filter (fun g => !(g.kind = f.kind && g.coreKind = f.coreKind && g.slotB = f.slotB)) ++ [f] } })

/-- `FW_STAGE` at its last slice: the image is verified and its slot marked STAGED, or INVALID with `IMAGE_AUTH`. -/
def stageCommit (p : Part) (b : BJob) (s : State) : State :=
  let img := s.rd p (b.args.getD 0 0) (b.args.getD 1 0)
  let kind := rdLe img 6 1
  let ck := rdLe img 8 1
  let sb := inactiveB (s.slotsOf p kind ck)
  let ok := imgAccepted p img s
  let s := putSlot p { kind := kind, coreKind := ck, slotB := sb, state := if ok then .staged else .invalid, image := img } s
  if ok then complete p b.q b.code b.core 0 0 (lay [(1, bitAt sb 0), (1, kind), (1, ck)]) s
  else complete p b.q b.code b.core 0x0202 0 [] s

def judgeFwStage (p : Part) (q : Req) (s : State) (pl : Bytes) : Except Refuse (State → Effect) := do
  let a := rdLe pl 0 8
  let n := rdLe pl 8 4
  checkPl [(0, 12)] [(0, !badHostRange p a n)] pl
  guardE (!classBFull p 0 s) (0x0100, 0)
  pure (fun s => later (addJob p { q := q, code := 0x0007, core := 0, args := [a, n], total := max 1 (ceilDiv n 4096) } s))

def execFwStage (p : Part) (q : Req) (pl : Bytes) (s : State) : Out := run (q.wf p) (runCmd p q 0x0007 0 pl (judgeFwStage p q)) s

/-! ## Activation (R458, R459) -/

/-- Core kind of a core index (R432, R434). -/
def kindOfCore (p : Part) (core : Nat) : Nat :=
  if core < 3 then core else match p with
    | .spn => 3
    | .crl => 4

/-- The STAGED firmware image for a core. -/
def State.stagedFor (p : Part) (core : Nat) (s : State) : Option FlashSlot :=
  (s.slotsOf p 1 (kindOfCore p core)).find? (fun f => f.state = .staged)

/-- Version word of a firmware image, laid out as FW_VER (R480). -/
def imgVer (img : Bytes) : Nat := rdLe img 12 2 + 2 ^ 16 * rdLe img 10 1 + 2 ^ 24 * rdLe img 9 1

/-- The order of an activation: CLU or PCC cores ascending, then SCH, PWR, SEC (R458). -/
def activationOrder (p : Part) (mask : Nat) : List Nat :=
  (((List.range p.cores).filter (fun c => 3 ≤ c)) ++ [2, 1, 0]).filter (fun c => mask.testBit c)

def judgeFwActivate (p : Part) (s : State) (pl : Bytes) : Except Refuse (State → Effect) := do
  let mask := rdLe pl 0 8
  let fw := (s.core p).fw
  let cores := activationOrder p mask
  let imgs := cores.filterMap (fun c => (s.stagedFor p c).map (·.image))
  let minor := imgs.any (fun i => rdLe i 10 1 ≠ fw.minor)
  checkPl [(0, 8)] [(0, mask < 2 ^ p.cores)] pl
  guardE (imgs.all (fun i => rdLe i 9 1 = fw.major && rdLe i 11 1 = 1)) (0x0204, 0)
  field (!minor || cores.length = p.cores) 0
  guardE (cores.all (fun c => (s.stagedFor p c).isSome)) (0x0202, 0)
  guardE fw.act.isNone (0x0203, 0)
  pure (fun s =>
    let em := s.emergency p
    let res := lay [(4, cores.length)]
    let act : Option Activation := if cores.isEmpty then none else some { todo := cores, deferred := em, minor := minor }
    let s := s.modCore p (fun c => { c with fw := { c.fw with act := act } })
    (s, some (if em then 3 else 0, 0, res)))

def execFwActivate (p : Part) (q : Req) (pl : Bytes) (s : State) : Out := run (q.wf p) (runCmd p q 0x0008 0 pl (judgeFwActivate p)) s

/-- A withdrawal posts WITHDRAWN; cores already restarted keep their new images (R459). -/
def judgeFwWithdraw (p : Part) (s : State) (pl : Bytes) : Except Refuse (State → Effect) := do
  checkPl [] [] pl
  match (s.core p).fw.act with
  | none => pure (fun s => okWith s (lay [(4, 0)]))
  | some a => pure (fun s =>
      let s := s.modCore p (fun c => { c with fw := { c.fw with act := none } })
      okWith ((fwEvent p 4 0 (s.fwCore p 0).ver s).setEv p (fwEvents p) 6) (lay [(4, a.todo.length)]))

def execFwWithdraw (p : Part) (q : Req) (pl : Bytes) (s : State) : Out := run (q.wf p) (runCmd p q 0x0009 0 pl (judgeFwWithdraw p)) s

/-- A kind's STAGED slot becomes ACTIVE once no core of the activation still waits for it; the slot it replaces is EMPTY (log
entry 29). -/
def promote (p : Part) (ck : Nat) (s : State) : State :=
  s.modCore p (fun c => { c with
    fw := { c.fw with
    flash := c.fw.flash.map (fun f =>
    if f.kind = 1 && f.coreKind = ck then
      match f.state with
      | .staged => { f with state := .active }
      | .active => { f with state := .empty }
      | _ => f
    else f) } })

/-- SEC restarts the next core onto its STAGED image; in an emergency it posts DEFERRED and waits (R458, R459). After the last
core of a change of minor every ordinary channel is stale. -/
def activateNext (p : Part) (s : State) : State :=
  match (s.core p).fw.act with
  | none => s
  | some a =>
    if a.deferred || (s.core p).cores.any (fun c => c.2.down.isSome) then s
    else if s.emergency p then
      let s := s.modCore p (fun c => { c with fw := { c.fw with act := some { a with deferred := true } } })
      (fwEvent p 3 (a.todo.headD 0) (s.fwCore p (a.todo.headD 0)).ver s).setEv p (fwEvents p) 6
    else match a.todo with
      | [] => s.modCore p (fun c => { c with fw := { c.fw with act := none } })
      | core :: rest =>
        let img := ((s.stagedFor p core).map (·.image)).getD []
        let ck := kindOfCore p core
        let s := s.modFwCore p core (fun c => { c with ver := imgVer img, activated := true })
        let s := if rest.any (fun c => kindOfCore p c = ck) then s else promote p ck s
        let s := restartCore p core s
        let s := if core = 0 then s.modCore p (fun c => { c with
            fw := { c.fw with
            major := rdLe img 9 1, minor := rdLe img 10 1, patch := rdLe img 12 2, features := rdLe img 28 4 } }) else s
        if rest.isEmpty then
          let s := s.modCore p (fun c => { c with fw := { c.fw with act := none } })
          if a.minor then (List.range p.chans).foldl (fun s ch =>
            if ch ≠ 0 && (s.chan p ch).isOpen then s.modChan p ch (fun c => { c with stale := true }) else s) s
          else s
        else s.modCore p (fun c => { c with fw := { c.fw with act := some { a with todo := rest } } })

/-- An emergency condition begins (R459). -/
def beginEmergency (p : Part) (cause : EmergencyCause) (s : State) : State :=
  s.modCore p (fun c => { c with fw := { c.fw with emergency := (c.fw.emergency ++ [cause]).eraseDups, clearedAt := none } })
def execEmergencyBegin (p : Part) (cause : EmergencyCause) (s : State) : Out := run true (beginEmergency p cause) s

/-- The part leaves emergency: the wait of 1 s starts, and a held restart of PWR goes ahead (R459). While TRIPPED stands it does not. -/
def emergencyOver (p : Part) (s : State) : State :=
  let fw := (s.core p).fw
  if s.tripped p || (fw.emergency.isEmpty && fw.clearedAt.isSome) then s
  else
    let s := s.modCore p (fun c => { c with fw := { c.fw with emergency := [], clearedAt := some c.time.tick } })
    if (s.fwCore p 1).wdHeld then restartCore p 1 s else s
/-- 1 s after it has cleared, a deferred activation proceeds by itself (R459). -/
def execEmergencyClearTimer (p : Part) (s : State) : Out :=
  run true (fun s =>
    match (s.core p).fw.clearedAt with
    | some t =>
      if t + 1_000_000_000 ≤ s.tick p && !s.emergency p then
        s.modCore p (fun c => { c with fw := { c.fw with clearedAt := none, act := c.fw.act.map (fun a => { a with deferred := false }) } })
      else s
    | none => s) s

/-! ## Zeroization (R515) -/

/-- Erases every secret and sends every port to DOWN, but for one whose ENABLE is 0 (log entry 159). -/
def zeroizeNow (p : Part) (s : State) : State :=
  let s := s.modCore p (fun c => { c with
    sec := { c.sec with
    identity := none, challenge := none, zeroizing := false } })
  let s := (s.core p).ports.foldl (fun s e =>
    let st := (s.port p e.1).state
    let s := eraseKeys p e.1 s
    if st = .disabled then s else goState p e.1 .down s) s
  s.setEv p (secEvents p) 3

def judgeZeroize (p : Part) (q : Req) (s : State) (pl : Bytes) : Except Refuse (State → Effect) := do
  checkPl [] [] pl
  guardE (!classBFull p 0 s) (0x0100, 0)
  pure (fun s => later (addJob p { q := q, code := 0x000B, core := 0, args := [], total := 1 }
    (s.modCore p (fun c => { c with sec := { c.sec with zeroizing := true } }))))

def execZeroize (p : Part) (q : Req) (pl : Bytes) (s : State) : Out := run (q.wf p) (runCmd p q 0x000B 0 pl (judgeZeroize p q)) s

/-! ## Debug unlock (R511 to R514) -/

/-- Whether a level needs a token in the part's lifecycle state (R512). -/
def needsToken (lifecycle level : Nat) : Bool :=
  match lifecycle with
  | 1 => level = 2
  | 2 => true
  | _ => false

/-- Whether a signer may open a level (R512). -/
def signerAllowed (lifecycle level signer : Nat) (vendorDebug : Bool) : Bool :=
  match lifecycle with
  | 2 => signer = 1 || (level = 2 && vendorDebug)
  | _ => true

/-- Why a token fails, if it does: 1 signature, 2 signer or key, 3 challenge, 4 device (R513). -/
def tokenFault (p : Part) (level : Nat) (t : Bytes) (s : State) : Option Nat :=
  let sec := (s.core p).sec
  let signer := rdLe t 7 1
  let idx := rdLe t 48 1
  let digest := sha384 (t.take 64)
  let e := (t.drop 64).take 96
  let m := (t.drop 160).take 4627
  let owner := sec.ownerKeys.getD idx []
  let vendor := Config.vendorKeys[idx]?
  let known := if signer = 1 then !owner.all (· = 0) else vendor.isSome && !sec.revoked.testBit idx
  let signed := if signer = 1 then Config.ecdsaVerify owner digest e && Config.mldsaVerify owner digest m
    else vendor.any (fun k => Config.ecdsaVerify k.1 digest e && Config.mldsaVerify k.2 digest m)
  let form := rdLe t 0 4 = 0x54445953 && rdLe t 4 2 = 1 && rdLe t 49 15 = 0 && rdLe t 4787 13 = 0
  let fresh := sec.challenge.any (fun c => c.1 = (t.drop 16).take 32 && s.tick p ≤ c.2 + 60 * secTicks)
  if known && !(form && signed) then some 1
  else if !known || 2 ≤ signer || rdLe t 6 1 ≠ level || !signerAllowed sec.lifecycle level signer sec.vendorDebug then some 2
  else if !fresh then some 3
  else if (t.drop 8).take 8 ≠ padTo 8 sec.devId then some 4
  else none

/-- INVASIVE is refused while the part serves (R514). -/
def servesNow (p : Part) (s : State) : Bool :=
  match p with
  | .spn => s.spnPart ≠ 0 || bankNat s.spn.banks.shadow bankPart 2 ≠ 0
  | .crl => s.isTimeRoot || s.cc.topo.registry || s.cc.topo.plant || !s.crl.epochs.isEmpty

/-- A debug level is entered; INVASIVE zeroizes and marks the part UNTRUSTED first (R510, R514). -/
def enterDebug (p : Part) (level : Nat) (s : State) : State :=
  let s := (s.modCore p (fun c => { c with sec := { c.sec with debug := level } })).setEv p (secEvents p) 1
  if level = 2 then
    zeroizeNow p (s.modCore p (fun c => { c with sec := { c.sec with untrusted := true } }))
  else s

/-- `DEBUG_UNLOCK` (R512 to R514). A token is used up whether or not it opens the level. -/
def judgeUnlock (p : Part) (s : State) (pl : Bytes) : Except Refuse (State → Effect) := do
  let level := rdLe pl 0 1
  let a := rdLe pl 8 8
  let n := rdLe pl 16 4
  let sec := (s.core p).sec
  checkPl [(0, 1), (8, 12)]
    [(0, (level = 1 || level = 2) && sec.debug ≤ level), (8, n = 0 || !badHostRange p a n), (16, n = 0 || n = 4800)] pl
  if level = sec.debug then pure okWith
  else if n = 0 && needsToken sec.lifecycle level then
    pure (fun s =>
      let ch := randomBytes p (s.core p).sec.draws 32
      okWith (s.modCore p (fun c => { c with sec := { c.sec with challenge := some (ch, c.time.tick), draws := c.sec.draws + 1 } })) ch)
  else
    let t := s.rd p a n
    match (if needsToken sec.lifecycle level then tokenFault p level t s else none) with
    | some cause => pure (fun s =>
        let s := s.modCore p (fun c => { c with sec := { c.sec with challenge := none } })
        (s.setEv p (secEvents p) 4, some (0x0202, cause, [])))
    | none =>
      guardE (!(level = 2 && servesNow p s)) (0x0404, 0)
      pure (fun s => okWith (enterDebug p level (s.modCore p (fun c => { c with sec := { c.sec with challenge := none } }))))

def execDebugUnlock (p : Part) (q : Req) (pl : Bytes) (s : State) : Out := run (q.wf p) (runCmd p q 0x000C 0 pl (judgeUnlock p)) s

end Sys2Proof.Machine
end

