-- ==== Sys2Proof/Machine/Boot.lean ====
section
/-! DEFINITION. Cold reset, boot, module and PCIe resets, and the power states NAP and HOLD (R433 to R438, R499 to R501,
R516 to R520, R548 to R550). -/

namespace Sys2Proof.Machine

/-! ## Cold reset (R518, R549, R550) -/

/-- What both parts keep over a cold reset: the flash, what the topology record fixes, memory outside the part and the
random generator; everything else starts anew (log entry 30). -/
def coldCore (c : PartCore) (keepMem : Bool) : PartCore :=
  { fw := { flash := c.fw.flash }, topo := c.topo, mem := if keepMem then c.mem else [], hostMem := c.hostMem,
    sec := { draws := c.sec.draws } }

/-- SPN_RST_N low: profile O; lanes idle, every region gated, ballast 0, interrupts low, and no HEA until a link-up (R23). -/
def coldResetSpn (s : State) : State :=
  { s with sc := { coldCore s.sc true with topo := { s.sc.topo with hea := noHea } }, spn := { clu := s.spn.clu } }

/-- Whether a module's cold reset belongs to a full maintenance stop: no partition ID is live or drains, and the Spindle is held in cold reset
too (R534; log entry 143). -/
def State.fullStop (s : State) : Bool :=
  s.crl.registry.all (fun (e : Nat × RegEntry) => !e.2.live && !e.2.draining) && s.sc.fw.bootStep = 0 && s.sc.topo.hea = noHea

/-- The module's cold reset. The registry, which the partner mirrors, stays but for a full maintenance stop (R25, R28). -/
def coldResetCrl (s : State) : State :=
  { s with
    cc := coldCore s.cc false
    crl := { msix := s.crl.msix, pcieDown := s.crl.pcieDown, registry := if s.fullStop then [] else s.crl.registry } }

def execColdResetAssert (s : State) : Out := run true coldResetSpn s

def execModuleColdReset (s : State) : Out := run true coldResetCrl s

/-- The rails go off, and the module restarts from cold reset (R550). -/
def execModuleInputLoss (s : State) : Out := run true coldResetCrl s

/-! ## Boot (R436, R437, R499) -/

/-- Boot stops (R437): the failing kind and core kind; the part stays in reset except for SEC and the register port. -/
def bootFail (p : Part) (kind ck : Nat) (s : State) : State :=
  s.modCore p (fun c => { c with
    fw := { c.fw with bootFail := true, failKind := kind, failCore := ck }
    cores := c.cores.map (fun (e : Nat × FwCore) => if e.1 = 0 then e else (e.1, { e.2 with running := false })) })

/-- `FW_FALLBACK` (R437, R499). -/
def fallback (p : Part) (kind ck : Nat) (s : State) : State := (s.setEv p (fwEvents p) 0).raise p 0x1B01 0 [kind, ck]

/-- The image of a kind that boots: the ACTIVE one, else the other slot's with `FW_FALLBACK`, whose slot is ACTIVE from then
on (log entry 30). -/
def bootKind (p : Part) (kind ck : Nat) (ok : Bytes → Bool) (s : State) : State × Option Bytes :=
  let l := s.slotsOf p kind ck
  match l.find? (fun f => f.state = .active) with
  | some f =>
    if ok f.image then (s, some f.image)
    else
      match l.find? (fun g => g.slotB ≠ f.slotB && ok g.image) with
      | some g =>
        (fallback p kind ck (putSlot p { g with state := .active } (putSlot p { f with state := .invalid } s)), some g.image)
      | none => (s, none)
  | none =>
    match l.find? (fun g => ok g.image) with
    | some g => (fallback p kind ck (putSlot p { g with state := .active } s), some g.image)
    | none => (s, none)

/-- Lifecycle state named by a record (R500). -/
def recState (pl : Bytes) : Nat := rdLe pl 6 1
/-- The owner keys of a record: four digest entries. -/
def recKeys (pl : Bytes) : List Bytes := (List.range 4).map (fun k => (pl.drop (64 + 96 * k)).take 96)

/-- This part's own device ID, from its identity keys (R501, R502). -/
def ownDevId (p : Part) : Bytes :=
  (sha384 (Config.identityPublic (Config.pufSeed (match p with | .spn => 0 | .crl => 1)))).take 8

/-- A record that is well formed and this part's (R499, R500, R548). -/
def recForm (p : Part) (pl : Bytes) : Bool :=
  rdLe pl 0 4 = 0x434C5953 && rdLe pl 4 2 = 1 && recState pl < 4
    && rdLe pl 7 1 < 2 && [(40, 24), (448, 64), (8000, 192)].all (fun (z : Nat × Nat) => ((pl.drop z.1).take z.2).all (· = 0))
    && (if recState pl = 0 then ((pl.drop 8).take 10232).all (· = 0) else (pl.drop 8).take 8 = ownDevId p)
    && rdLe pl 10240 4 = 0x52545953 && rdLe pl 10244 2 = 1

/-- A transition that R499 accepts, by its signer: 0 vendor, 1 owner. -/
def transitionOk (from_ to_ signer : Nat) : Bool :=
  (from_ = 0 && to_ = 1 && signer = 0) || (from_ = 1 && (to_ = 1 || to_ = 2) && signer = 1)
    || (from_ = 2 && (to_ = 2 || to_ = 3) && signer = 1)

/-- Takes the keys and bounds of a record into force. -/
def useRecord (p : Part) (pl : Bytes) (s : State) : State :=
  s.modCore p (fun c => { c with
    sec := { c.sec with
    lifecycle := recState pl, vendorDebug := (rdLe pl 7 1).testBit 0, devId := (pl.drop 8).take 8, recCounter := rdLe pl 16 4,
    revoked := rdLe pl 20 4, minSec := (List.range 4).map (fun k => rdLe pl (24 + 4 * k) 4), ownerKeys := recKeys pl,
    cert := (pl.drop 512).take 7488 } })

/-- An ACTIVE record verifies under the vendor keys, or the owner keys that it or the record it replaced lists (log entry
30). -/
def activeRecordOk (p : Part) (img : Bytes) (s : State) : Bool :=
  let pl := imgPayload img
  let keys := (s.slotsOf p 2 0xFF).flatMap (fun f => recKeys (imgPayload f.image))
  let s' := useRecord p pl s
  recForm p pl && imgAccepted p img (s'.modCore p (fun c => { c with sec := { c.sec with ownerKeys := keys } }))

/-- A STAGED record against the record in force. -/
def stagedRecordOk (p : Part) (img : Bytes) (s : State) : Bool :=
  let pl := imgPayload img
  recForm p pl && transitionOk (s.core p).sec.lifecycle (recState pl) (rdLe img 14 1) && imgAccepted p img s

/-- SEC chooses the record in force (R499): the STAGED one if it verifies and its counter is higher. -/
def chooseRecord (p : Part) (s : State) : State × Option Bytes :=
  match bootKind p 2 0xFF (fun i => activeRecordOk p i s) s with
  | (s, none) => (s, none)
  | (s, some img) =>
    let s := useRecord p (imgPayload img) s
    match (s.slotsOf p 2 0xFF).find? (fun f => f.state = .staged) with
    | none => (s, some img)
    | some f =>
      if !stagedRecordOk p f.image s then (fallback p 2 0xFF s, some img)
      else if rdLe (imgPayload f.image) 16 4 ≤ (s.core p).sec.recCounter then (s, some img)
      else
        let s := (s.slotsOf p 2 0xFF).foldl (fun s g =>
          if g.slotB = f.slotB then putSlot p { g with state := .active } s
          else if g.state = .active then putSlot p { g with state := .empty } s else s) s
        let moved := (s.core p).sec.lifecycle ≠ recState (imgPayload f.image)
        let s := useRecord p (imgPayload f.image) s
        (if moved then s.setEv p (secEvents p) 0 else s, some f.image)

/-- The trims and the disabled-unit map of a Spindle (R548). -/
def trimSpn (pl : Bytes) (s : State) : State :=
  let t := pl.drop 10240
  let m := pl.drop 11264
  let s := [0, 1].foldl (fun s n =>
    (s.setReg .spn (portBase .spn n + 0x08) (rdLe t (8 + 4 * n) 4)).setReg .spn (portBase .spn n + 0x0C) (rdLe t (16 + 4 * n) 4)) s
  let ftab := (List.range 16).map (fun k => rdLe t (24 + 2 * k) 2 % 4096)
  let s := if ftabOk ftab then ftab.zipIdx.foldl (fun s e => s.setReg .spn (0x0A40 + 4 * e.2) e.1) s else cfgDenied s
  let s := [(0x04, 208), (0x08, 212), (0x0C, 216), (0x10, 220), (0x14, 224), (0x18, 228)].foldl
    (fun s (e : Nat × Nat) => s.setReg .spn (0x00A0 + e.1) (rdLe t e.2 4)) s
  let disClu := (List.range 32).filter (fun c => (rdLe m 256 4).testBit c)
  let regions := (List.range 32).foldl (fun r c => if disClu.contains c then r else tset ({} : Region) r c { present := true })
    ([] : Tbl Region)
  let absent := (List.range 2048).filter (fun c => (m.getD (c / 8) 0).getLsbD (c % 8)
    || disClu.contains ((tfind s.spn.clu c).getD (c / 64)))
  { s with spn.disClu := disClu, spn.absent := absent, spn.clocks.regions := regions }

/-- The trims and the disabled-unit map of a Creel (R548); a port's latencies are the sums of chip and module values. -/
def trimCrl (pl : Bytes) (s : State) : State :=
  let t := pl.drop 10240
  let m := pl.drop 12288
  let map := pl.drop 16384
  let tr := fun (n : Nat) => (rdLe t (8 + 8 * n) 4 + rdLe m (8 + 8 * n) 4, rdLe t (12 + 8 * n) 4 + rdLe m (12 + 8 * n) 4)
  let s := (List.range 129).foldl (fun s n =>
    (s.setReg .crl (portBase .crl n + 0x08) (tr n).1).setReg .crl (portBase .crl n + 0x0C) (tr n).2) s
  let trims := (List.range 129).foldl (fun a n => tset (0, 0) a n (tr n)) ([] : Tbl (Nat × Nat))
  let ktrims := (List.range 129).foldl (fun a n =>
    tset (0, 0) a n (toSigned 32 (rdLe m (1040 + 8 * n) 4), toSigned 32 (rdLe m (1044 + 8 * n) 4))) ([] : Tbl (Int × Int))
  let off := (List.range 129).filter (fun n => (map.getD (n / 8) 0).getLsbD (n % 8))
  { s with cc.topo := { s.cc.topo with trims := trims, ktrims := ktrims, disabledPorts := off } }

/-- Boot step 2: the record in force, the identity (none in BLANK or RETIRED, R498, R501), trims, and the topology record
where the flash has one. -/
def bootRecords (p : Part) (s : State) : Except (Nat × State) State :=
  match chooseRecord p s with
  | (s, none) => .error (2, s)
  | (s, some img) =>
    let pl := imgPayload img
    let id := if recState pl = 1 || recState pl = 2 then some (Config.pufSeed (match p with | .spn => 0 | .crl => 1)) else none
    let s := s.modCore p (fun c => { c with sec := { c.sec with identity := id } })
    let s := match p with
      | .spn => trimSpn pl s
      | .crl => trimCrl pl s
    if (s.slotsOf p 4 0xFF).isEmpty then .ok s
    else match bootKind p 4 0xFF (fun i => imgAccepted p i s) s with
      | (s, none) => .error (4, s)
      | (s, some _) => .ok s

/-- Core kinds besides SEC (R434). -/
def laterKinds (p : Part) : List Nat :=
  match p with
  | .spn => [1, 2, 3]
  | .crl => [1, 2, 4]

/-- Boot step 3: the other cores' images; each must share SEC's major, minor and link protocol major (R437). -/
def bootCores (p : Part) (sec : Bytes) : List Nat → State → Except (Nat × State) State
  | [], s => .ok s
  | ck :: rest, s =>
    match bootKind p 1 ck (fun i => imgAccepted p i s) s with
    | (s, none) => .error (ck, s)
    | (s, some img) =>
      if rdLe img 9 1 = rdLe sec 9 1 && rdLe img 10 1 = rdLe sec 10 1 && rdLe img 11 1 = rdLe sec 11 1 then
        bootCores p sec rest ((List.range p.cores).foldl (fun s c =>
          if kindOfCore p c = ck then s.modFwCore p c (fun k => { k with running := true, ver := imgVer img }) else s) s)
      else .error (ck, s)

def bootStep (p : Part) (n : Nat) (s : State) : State := s.modCore p (fun c => { c with fw := { c.fw with bootStep := n } })

/-- Boot step 4: channel 0 opens where the trim record gives its rings (R485); the ports are enabled and train; a Creel's stack is initialised, its time-interval unit calibrated, at
a die temperature that no command has told and so is free (log entry 152), and its reference unit takes its role (R140, R172, R436). -/
def bringUp (p : Part) (s : State) : State :=
  let s := if s.reg p (ch0Base p + 0x0C) ≠ 0 && s.reg p (ch0Base p + 0x18) ≠ 0 then openCh0 p s else s
  let s := (List.range p.ports).foldl (fun s n =>
    if (s.core p).topo.disabledPorts.contains n then s else enablePort p n true (s.setField p (portBase p n) 0 1 1)) s
  match p with
  | .spn => s
  | .crl =>
    let s := (List.range 4).foldl (fun s e => s.modRef (2 + e) (fun r => { r with master := Config.ptpMaster e })) s
    let s := if s.crl.ti.temp.isSome then s
      else
        let d := s.draw
        { d.2 with crl.ti.temp := some d.1 }
    takeUnitRole (refreshRefs (calDone { s with cc.mem := [] }))

/-- Boot runs from a cold reset: steps 1 to 4, each only after the last (R436, R437). -/
def boot (p : Part) (s : State) : State :=
  let fw := (s.core p).fw
  if fw.bootStep ≠ 0 || fw.bootFail then s
  else
    match bootKind p 1 0 (fun i => activeOkForRom p i s) s with
    | (s, none) => bootFail p 1 0 s
    | (s, some sec) =>
      let s := s.modCore p (fun c => { c with
        fw := { c.fw with
        major := rdLe sec 9 1, minor := rdLe sec 10 1, patch := rdLe sec 12 2, features := rdLe sec 28 4 } })
      let s := bootStep p 1 (s.modFwCore p 0 (fun c => { c with running := true, ver := imgVer sec }))
      match bootRecords p s with
      | .error (kind, s) => bootFail p kind 7 s
      | .ok s =>
        match bootCores p sec (laterKinds p) (bootStep p 2 s) with
        | .error (ck, s) => bootFail p 1 ck s
        | .ok s => bringUp p (bootStep p 4 s)
where
  /-- Mask ROM judges SEC's image by the minimum and the keys of the record that the flash calls ACTIVE (log entry 30). -/
  activeOkForRom (p : Part) (img : Bytes) (s : State) : Bool :=
    match (s.slotsOf p 2 0xFF).find? (fun f => f.state = .active) with
    | some f => imgAccepted p img (useRecord p (imgPayload f.image) s)
    | none => imgAccepted p img s

def execColdResetRelease (p : Part) (s : State) : Out := run true (boot p) s

/-! ## PCIe (R438, R476, R550) -/

/-- PERST_N low: the PCIe function is in reset; channel 0 and every channel with a ring in host memory close. -/
def perst (s : State) : State :=
  let host := s.cc.chans.filter (fun (e : Nat × Chan) =>
    e.2.isOpen && (e.1 = 0 || hostBit ≤ e.2.cmdBase || hostBit ≤ e.2.cplBase))
  let s := host.foldl (fun s (e : Nat × Chan) => closeChan .crl e.1 s) s
  { s with
    crl.pcieDown := true, crl.msixPend := [],
    cc.regs := s.cc.regs.filter (fun (e : Nat × Word) => !(0x38_0000 ≤ e.1 && e.1 < 0x38_2000)) }

def execPerstAssert (s : State) : Out := run true perst s

def execPerstRelease (s : State) : Out := run true (fun s => { s with crl.pcieDown := false }) s

/-- Host writes through BAR2 land in the host region; those below it are ignored and counted (R438, R476). -/
def execBar2Write (addr : Nat) (data : Bytes) (s : State) : Out :=
  run (addr + data.length ≤ 0x10_0000_0000) (fun s =>
    if s.crl.pcieDown then s
    else if addr < hostRegion then s.bump .crl 0x0050 1
    else { s with cc.mem := memWr s.cc.mem addr data }) s

/-! ## NAP and HOLD (R516, R517) -/

/-- A part that has been workless for 1 µs enters NAP; HOLD takes precedence. -/
def execNapEntry (p : Part) (s : State) : Out :=
  run true (fun s =>
    let sec := (s.core p).sec
    if sec.power = 0 && s.workless p && sec.gateTick.any (fun t => t + 1000 ≤ s.tick p) then setPower p 1 s else s) s

/-- A Creel that has held plane time enters HOLD once every port has been out of UP for 1 ms. -/
def execCreelHoldEntry (s : State) : Out :=
  run true (fun s =>
    if s.cc.time.held && (s.upPorts .crl).isEmpty && s.cc.sec.downTick.any (fun t => t + 1_000_000 ≤ s.cc.time.tick) then
      setPower .crl 2 s
    else s) s

end Sys2Proof.Machine
end

