-- ==== Sys2Proof/Machine/Cores.lean ====
section
/-! DEFINITION. Cores and clusters of a die: logical and physical numbers, fences, wake wires, ports, the launch sequencer's
state and the non-determinism counters (R207, R212, R239, R246, R252, R272 to R274, R286, R290, R386). -/

namespace Sys2Proof.Machine

/-! ## Numbering (R212, R239) -/

/-- A physical core's cluster: as the integrator wires it, 64 cores to a cluster where nothing is listed (log entry 31). -/
def State.cluOf (s : State) (core : Nat) : Nat := (tfind s.spn.clu core).getD (core / 64)

/-- A core that is there and not disabled. -/
def State.corePresent (s : State) (core : Nat) : Bool := core < 2048 && !s.spn.absent.contains core

/-- Logical number of a present physical core. -/
def State.logOf (s : State) (core : Nat) : Nat := core - (s.spn.absent.filter (fun a => a < core)).length

/-- Physical number of a logical core: each absent core at or below it moves it up by one. -/
def State.physOf (s : State) (n : Nat) : Nat := s.spn.absent.foldl (fun c a => if a ≤ c then c + 1 else c) n

/-- The die's context of a core (R240). -/
def State.ctxOf (s : State) (core : Nat) : Nat := tget 0 s.spn.sync.coreCtx core

/-- The present cores of the die. -/
def State.cores (s : State) : List Nat := (List.range 2048).filter (fun c => s.corePresent c)

/-! ## Fences and wakes (R252, R272, R273, R286) -/

/-- CORE_FENCE of the active bank. -/
def State.fenced (s : State) (core : Nat) : Bool := bankBit s.spn.banks.active bankFence core
/-- BARRIER_MASK of the active bank. -/
def State.enabledOn (s : State) (ch core : Nat) : Bool :=
  bankBit s.spn.banks.active (bankMask + 256 * ch) core && s.corePresent core

def State.cport (s : State) (core : Nat) : CorePort := tget {} s.spn.sync.ports core
def State.modCport (core : Nat) (f : CorePort → CorePort) (s : State) : State :=
  { s with spn.sync.ports := tmod {} s.spn.sync.ports core f }

/-- In NAP the region of a core that wakes is ungated first (R290). -/
def ungateNap (core : Nat) (s : State) : State :=
  if s.sc.sec.power = 1 then
    { s with spn.clocks.regions := s.spn.clocks.regions.map (fun (e : Nat × Region) =>
        if e.1 = s.cluOf core && e.2.present then (e.1, { e.2 with gated := false }) else e) }
  else s

/-- The core's wake wire fires; it stays low while the core is fenced (R286, R290). -/
def wakeCore (core : Nat) (s : State) : State :=
  if s.fenced core then s else (ungateNap core s).modCport core (fun c => { c with awake := true, early := false })

/-- The cores of a cluster that has ended its step idle with their clocks gated (R290). -/
def idleCores (c : Nat) (s : State) : State :=
  { s with spn.sync.ports := s.spn.sync.ports.map (fun (e : Nat × CorePort) =>
      if s.cluOf e.1 = c then (e.1, { e.2 with awake := false, early := false }) else e) }

/-- A core's clock runs: in a running step, unless it sleeps in a wait, and after a wake (R290). -/
def State.coreAwake (s : State) (core : Nat) : Bool :=
  let c := s.cport core
  s.corePresent core && !s.fenced core &&
    (c.awake || c.early || ((tget {} s.spn.launch.clusters (s.cluOf core)).running && !c.pending && !c.barPending))

/-- An early ungating (R288, R289). -/
def ungateEarly (core : Nat) (s : State) : State :=
  if s.fenced core || (s.cport core).early then s
  else ((ungateNap core s).modCport core (fun c => { c with early := true })).bump .spn 0x0D0C 1

/-- A core that was ungated early and finds PENDING = 1 sleeps again (R289). -/
def sleepAgain (core : Nat) (s : State) : State :=
  if (s.cport core).early then (s.modCport core (fun c => { c with early := false })).bump .spn 0x0D10 1 else s

/-! ## The launch sequencer's state and mode (R207, R251, R382) -/

/-- Fast mode is in force: a die of no partition orders as in reproducible mode. -/
def State.fastMode (s : State) : Bool := s.spn.launch.fast && s.spnPart ≠ 0

def State.cluster (s : State) (c : Nat) : Cluster := tget {} s.spn.launch.clusters c
def State.modCluster (c : Nat) (f : Cluster → Cluster) (s : State) : State :=
  { s with spn.launch.clusters := tmod {} s.spn.launch.clusters c f }

/-- A cluster of the die runs its step. -/
def State.stepRunning (s : State) : Bool := s.spn.launch.clusters.any (fun e => e.2.running)

/-- SPN_LS_STAT.STATE. -/
def State.lsState (s : State) : Nat :=
  if s.spnPart = 0 then 0
  else if s.spn.launch.held then 4
  else if s.stepRunning then 1
  else if s.spn.launch.pend.isEmpty then 3
  else 2

/-! ## Non-determinism counters (R386, R387) -/

/-- A counter moves, in fast mode alone, up to 2^48 - 1. The step's sum and the digest lane take the same. -/
def ndAdd (i n : Nat) (s : State) : State :=
  if s.fastMode && n ≠ 0 then
    let d := s.spn.det
    let by_ := min (tget 0 d.nd i + n) (2 ^ 48 - 1) - tget 0 d.nd i
    let now := if d.ndTick = s.sc.time.tick then d.ndNow else []
    { s with
        spn.det.ndTick := s.sc.time.tick, spn.det.ndNow := tmod 0 now i (· + by_)
        spn.det.nd := tset 0 d.nd i (tget 0 d.nd i + by_), spn.det.ndStep := d.ndStep + by_, spn.det.ndLane := d.ndLane + by_ }
      |>.setEv .spn 0x1010 4
  else s

/-- All counters return to 0, but for increments of this TICK, which count after the clear (R387). -/
def ndClear (s : State) : State :=
  let d := s.spn.det
  { s with spn.det.nd := if d.ndTick = s.sc.time.tick then d.ndNow else [] }

/-! ## Sorting -/

/-- A stable sort by key, least first. -/
def sortBy {α : Type} (key : α → Nat) : List α → List α
  | [] => []
  | x :: l => insertLe key x (sortBy key l)
where
  insertLe {α : Type} (key : α → Nat) (x : α) : List α → List α
    | [] => [x]
    | y :: l => if key x ≤ key y then x :: y :: l else y :: insertLe key x l

/-- Lowest number that a table in canonical form does not list, from `n` on. -/
def lowestFree {α : Type} : Tbl α → Nat → Nat
  | [], n => n
  | (k, _) :: t, n => if k = n then lowestFree t (n + 1) else n

end Sys2Proof.Machine
end

