-- ==== Sys2Proof/Machine/PlyNum.lean ====
section
/-! DEFINITION. Ply numbers: element formats, exact values, rounding, the lanes of partials and how two of them combine, and the
bobbin generator (R301 to R325, R337). -/

namespace Sys2Proof.Machine

/-! ## Codes (R301) -/

def opNone : Nat := 0x0
def opSum : Nat := 0x1
def opMax : Nat := 0x2
def opMin : Nat := 0x3
def opArgmax : Nat := 0x4
def opArgmin : Nat := 0x5
def opLse : Nat := 0x6
def opTopk : Nat := 0x7
def opOr : Nat := 0x8
def opAnd : Nat := 0x9
def opXor : Nat := 0xA
def opCount : Nat := 0xB
def opModsum : Nat := 0xC

def fmtInt32 : Nat := 0x8
def fmtInt8 : Nat := 0x9
def fmtRaw64 : Nat := 0xA
def isInt (f : Nat) : Bool := f = fmtInt32 || f = fmtInt8
/-- RMODE SR. -/
def rmSr : Nat := 4

/-! ## Formats (R302) -/

/-- A floating-point format: exponent and fraction bits, bias, whether it has infinities, and the bits of its largest finite
magnitude. -/
structure FFmt where
  eb   : Nat
  fb   : Nat
  bias : Nat
  inf  : Bool
  top  : Nat
deriving DecidableEq, Repr

/-- The format of a code; FP32 where the code names no floating-point format. -/
def fltFmt : Nat → FFmt
  | 0x1 => { eb := 8, fb := 7, bias := 127, inf := true, top := 0x7F7F }
  | 0x2 => { eb := 5, fb := 10, bias := 15, inf := true, top := 0x7BFF }
  | 0x3 => { eb := 4, fb := 3, bias := 7, inf := false, top := 0x7E }
  | 0x4 => { eb := 5, fb := 2, bias := 15, inf := true, top := 0x7B }
  | 0x5 => { eb := 3, fb := 2, bias := 3, inf := false, top := 0x1F }
  | 0x6 => { eb := 2, fb := 3, bias := 1, inf := false, top := 0x1F }
  | 0x7 => { eb := 2, fb := 1, bias := 1, inf := false, top := 0x7 }
  | _ => { eb := 8, fb := 23, bias := 127, inf := true, top := 0x7F7F_FFFF }

/-- Bits that a value of a format has. -/
def valueBits (f : Nat) : Nat :=
  if f = fmtInt32 then 32 else if f = fmtInt8 then 8 else if f = fmtRaw64 then 64
  else (fltFmt f).eb + (fltFmt f).fb + 1

/-- Bits that a lane takes in IN, OUT and value cells (R304, R310). -/
def packBits (f : Nat) : Nat := if f = 0x5 || f = 0x6 then 8 else valueBits f

/-- The canonical NaN of a format that has one. -/
def canonNan : Nat → Nat
  | 0x1 => 0x7FC0
  | 0x2 => 0x7E00
  | 0x3 => 0x7F
  | 0x4 => 0x7E
  | _ => 0x7FC0_0000

/-- The value of an element: a finite magnitude counts in units of 2^-152 (R314). -/
inductive Num where
  | nan
  | inf (neg : Bool)
  | fin (neg : Bool) (mag : Nat)
deriving DecidableEq, Repr

/-- Whether the bits of a format are a NaN. -/
def isNan (f raw : Nat) : Bool :=
  if isInt f || f = fmtRaw64 then false
  else
    let m := raw % 2 ^ ((fltFmt f).eb + (fltFmt f).fb)
    if f = 0x3 then m = 0x7F else (fltFmt f).inf && (fltFmt f).top + 1 < m

/-- The value of a floating-point element under an E8M0 scale byte; 127 for none (R302). -/
def numOf (f scale raw : Nat) : Num :=
  let x := fltFmt f
  let neg := raw.testBit (x.eb + x.fb)
  let e := bits raw x.fb x.eb
  let m := bits raw 0 x.fb
  if scale = 0xFF || isNan f raw then .nan
  else if x.inf && raw % 2 ^ (x.eb + x.fb) = x.top + 1 then .inf neg
  else .fin neg ((if e = 0 then m else m + 2 ^ x.fb) * 2 ^ (152 + max e 1 + scale - (127 + x.bias + x.fb)))

/-- Place of a value that is no NaN in the order of R318. -/
def orderKey (f raw : Nat) : Int :=
  if isInt f then toSigned (valueBits f) (raw % 2 ^ valueBits f)
  else
    let x := fltFmt f
    let m : Int := (raw % 2 ^ (x.eb + x.fb) : Nat)
    if raw.testBit (x.eb + x.fb) then -m - 1 else m

/-- Least and greatest value of a format (R322). -/
def extreme (f : Nat) (greatest : Bool) : Nat :=
  if isInt f then (if greatest then 2 ^ (valueBits f - 1) - 1 else 2 ^ (valueBits f - 1))
  else
    let x := fltFmt f
    (if x.inf then x.top + 1 else x.top) + (if greatest then 0 else 2 ^ (x.eb + x.fb))

/-! ## Rounding (R315, R316, R319) -/

/-- A result lane: its bits, and whether it is NaN, overflowed or inexact. -/
structure LaneOut where
  raw     : Nat
  nan     : Bool := false
  ovf     : Bool := false
  inexact : Bool := false
deriving DecidableEq, Repr

/-- The magnitude in units of 2^-152 of a format's finite bits. -/
def magOf (f raw : Nat) : Nat :=
  match numOf f 127 raw with
  | .fin _ m => m
  | _ => 0

/-- Weight of the last place that the magnitude `mag` has in a format, in units of 2^-152: 2 to the power the exponent field
gives, with gradual underflow. The first component is that exponent field less 1. -/
def ulpOf (f mag : Nat) : Nat × Nat :=
  let x := fltFmt f
  let low := 152 + 1 - (x.bias + x.fb)
  let q := max (Nat.log2 mag - x.fb) low
  (q - low, 2 ^ q)

/-- A finite non-zero sum `a` rounded to a format. `r` is the draw of R317. -/
def roundFlt (f mode r : Nat) (a : Int) : LaneOut :=
  let x := fltFmt f
  let neg := decide (a < 0)
  let mag := a.natAbs
  let sign := if neg then 2 ^ (x.eb + x.fb) else 0
  let most := magOf f x.top
  let u := ulpOf f mag
  let n := mag / u.2
  let rem := mag % u.2
  let enc := fun (n : Nat) => sign + u.1 * 2 ^ x.fb + n
  if mode = rmSr then
    if most < mag then { raw := sign + x.top, ovf := true, inexact := true }
    else if rem = 0 then { raw := enc n }
    else
      let toB := r < (if neg then u.2 - rem else rem) * 2 ^ 32 / u.2
      { raw := enc (if toB = neg then n else n + 1), inexact := true }
  else
    let up := match mode with
      | 0 => u.2 < 2 * rem || (2 * rem = u.2 && n % 2 = 1)
      | 2 => !neg && rem ≠ 0
      | 3 => neg && rem ≠ 0
      | _ => false
    let n' := if up then n + 1 else n
    if n' * u.2 ≤ most then { raw := enc n', inexact := rem ≠ 0 }
    else
      let toInf := x.inf && (mode = 0 || (mode = 2 && !neg) || (mode = 3 && neg))
      { raw := sign + (if toInf then x.top + 1 else x.top), ovf := true, inexact := true }

/-- A magnitude rounded by RNE to at most `k` significant bits that are multiples of `2^-152`. -/
def roundSig (k mag : Nat) : Nat :=
  let u := 2 ^ (Nat.log2 mag + 1 - k)
  let n := mag / u
  let rem := mag % u
  (if u < 2 * rem || (2 * rem = u && n % 2 = 1) then n + 1 else n) * u

/-! ## Accumulators of SUM and LSE (R310, R314) -/

/-- An accumulator lane. In LSE the place of NINF says that a term overflowed (log entry 33). -/
structure Acc where
  a    : Int := 0
  pinf : Bool := false
  ninf : Bool := false
  nan  : Bool := false
  neg  : Bool := false
  pos  : Bool := false
deriving DecidableEq, Repr

/-- A wide lane's accumulator has 314 bits, a narrow one's 59. -/
def Acc.raw (w : Nat) (x : Acc) : Nat :=
  toUnsigned w x.a + 2 ^ w * (bitAt x.pinf 0 + bitAt x.ninf 1 + bitAt x.nan 2 + bitAt x.neg 3 + bitAt x.pos 4)
def accOf (w v : Nat) : Acc :=
  { a := toSigned w (v % 2 ^ w), pinf := v.testBit w, ninf := v.testBit (w + 1), nan := v.testBit (w + 2),
    neg := v.testBit (w + 3), pos := v.testBit (w + 4) }

def Acc.add (x y : Acc) : Acc :=
  { a := x.a + y.a, pinf := x.pinf || y.pinf, ninf := x.ninf || y.ninf, nan := x.nan || y.nan, neg := x.neg && y.neg,
    pos := x.pos && y.pos }

/-- A SUM contribution; a narrow accumulator counts in units of 2^-24. -/
def accNum (wide : Bool) : Num → Acc
  | .nan => { nan := true }
  | .inf neg => { pinf := !neg, ninf := neg }
  | .fin neg mag =>
    let m := if wide then mag else mag / 2 ^ 128
    { a := if neg then -(m : Int) else m, neg := mag = 0 && neg, pos := mag = 0 && !neg }

/-- The identity of a SUM lane (R314). -/
def accIdentity : Acc := { neg := true, pos := true }

/-! ## The exponential of LSE (R319) -/

/-- Terms of the power series of e^y below a unit of 2^-`p`, for `y` in [0, 1] counted in that unit: the sum of `n` terms. -/
def expSeries (p y : Nat) : Nat → Nat → Nat → Nat → Nat
  | 0, _, _, acc => acc
  | n + 1, i, t, acc => expSeries p y n (i + 1) (t * y / 2 ^ p / i) (acc + t)

/-- Squares a fixed-point number `k` times. -/
def squareTimes (p : Nat) : Nat → Nat → Nat
  | 0, v => v
  | k + 1, v => squareTimes p k (v * v / 2 ^ p)

/-- A lower bound of 2^`p` · e^`x` for a rational x = num / den in [0, 400]: e^(x / 512) by its series, squared nine times. -/
def expLow (p num den : Nat) : Nat := squareTimes p 9 (expSeries p (num * 2 ^ p / (512 * den)) (p / 4 + 16) 1 (2 ^ p) 0)

/-- A term s · e^x in units of 2^-152, rounded as R319 says, from a bracket of `e^|x|`. None where the bracket's ends round
apart. -/
def expRound (p mag num den : Nat) (neg : Bool) : Option Nat :=
  let lo := expLow p num den
  let hi := lo + lo / 2 ^ (p - 40) + 2 ^ 40
  let fine := fun (v d : Nat) =>
    let u := 2 ^ (Nat.log2 (v / d) + 1 - 24)
    let k := v / (d * u)
    let rem := v - k * d * u
    if v = 0 then 0 else (if d * u < 2 * rem || (2 * rem = d * u && k % 2 = 1) then k + 1 else k) * u
  let a := if neg then fine (mag * 2 ^ p) hi else fine (mag * lo) (2 ^ p)
  let b := if neg then fine (mag * 2 ^ p) lo else fine (mag * hi) (2 ^ p)
  if a = b then some a else none

/-- The term, from brackets of 128, 256, 512, 1,024 and 2,048 bits: e^x is irrational for x ≠ 0, so one of them decides (log
entry 34). -/
def lseFinite (mag num den : Nat) (neg : Bool) : Nat :=
  ([128, 256, 512, 1024, 2048].findSome? (fun p => expRound p mag num den neg)).getD 0

/-- An LSE contribution (m, s) under the bias b, all FP32 (R319). -/
def lseTerm (m s b : Nat) : Acc :=
  match numOf 0 127 s, numOf 0 127 m, numOf 0 127 b with
  | .nan, _, _ => { nan := true }
  | _, .nan, _ => { nan := true }
  | .inf true, _, _ => { nan := true }
  | .inf false, .inf true, _ => { nan := true }
  | .inf false, _, _ => { pinf := true }
  | .fin sneg mag, mm, bb =>
    if mag = 0 then {}
    else if sneg then { nan := true }
    else match mm, bb with
      | .inf true, _ => {}
      | .inf false, _ => { pinf := true }
      | .fin n1 m1, .fin n2 m2 =>
        let x : Int := (if n1 then -(m1 : Int) else m1) - (if n2 then -(m2 : Int) else m2)
        if 400 * 2 ^ 152 < x then { pinf := true, ninf := true }
        else if x < -400 * 2 ^ 152 then {}
        else
          let t := if x = 0 then mag else lseFinite mag x.natAbs (2 ^ 152) (x < 0)
          if 2 ^ 295 ≤ t then { pinf := true, ninf := true } else { a := t }
      | _, _ => { nan := true }

/-! ## Kinds of partial lanes (R310) -/

inductive LaneKind where
  | wide | narrow | integer | value | ranked | candidate | word | absent
deriving DecidableEq, Repr

def kindOf (op fmt : Nat) (scaled : Bool) : LaneKind :=
  if op = opNone then .absent
  else if op = opSum then (if isInt fmt then .integer else if fmt < 2 || scaled then .wide else .narrow)
  else if op = opLse then .wide
  else if op = opCount then .integer
  else if op = opMax || op = opMin then .value
  else if op = opArgmax || op = opArgmin then .ranked
  else if op = opTopk then .candidate
  else .word

/-- Bits of a lane and lanes of a cell. -/
def LaneKind.size (fmt : Nat) : LaneKind → Nat × Nat
  | .wide => (320, 1)
  | .value => (packBits fmt, 320 / packBits fmt)
  | .candidate => (96, 3)
  | .absent => (0, 1)
  | _ => (64, 5)

/-- Width of an accumulator lane. -/
def LaneKind.acc : LaneKind → Nat
  | .wide => 314
  | _ => 59

/-- Lanes of given widths laid bit by bit from the least significant, as a number. -/
def packLanes (w : Nat) : List Nat → Nat
  | [] => 0
  | l :: ls => l % 2 ^ w + 2 ^ w * packLanes w ls

/-- A ranked pair and a candidate. -/
def rankedRaw (value rank : Nat) : Nat := value + 2 ^ 32 * rank
def candRaw (value token rank : Nat) : Nat := value + 2 ^ 32 * token + 2 ^ 64 * rank
def laneVal (l : Nat) : Nat := l % 2 ^ 32
def laneRank (l : Nat) : Nat := bits l 32 32
def candToken (l : Nat) : Nat := bits l 32 32
def candRank (l : Nat) : Nat := bits l 64 32
/-- Token ID of a vacant candidate; rank of no contributor. -/
def noRank : Nat := 0xFFFF_FFFF

/-- The identity lane of an operation (R314, R322). -/
def identityLane (op fmt : Nat) (scaled : Bool) : Nat :=
  if op = opSum && !isInt fmt then accIdentity.raw (kindOf op fmt scaled).acc
  else if op = opMax then extreme fmt false
  else if op = opMin then extreme fmt true
  else if op = opArgmax then rankedRaw (extreme fmt false) noRank
  else if op = opArgmin then rankedRaw (extreme fmt true) noRank
  else if op = opTopk then candRaw (extreme fmt false) noRank noRank
  else if op = opAnd then 2 ^ 64 - 1
  else 0

/-! ## Comparing (R318, R320) -/

/-- Whether value `x` wins over `y` in ARGMAX, ARGMIN, MAX or MIN: a NaN counts as greater and wins in both; none for a tie. -/
def beats (least : Bool) (f x y : Nat) : Option Bool :=
  match isNan f x, isNan f y with
  | true, true => none
  | true, false => some true
  | false, true => some false
  | false, false =>
    let a := orderKey f x
    let b := orderKey f y
    if a = b then none else some (if least then a < b else b < a)

/-- Class of a candidate: number, NaN, vacant. -/
def candClass (f l : Nat) : Nat := if candToken l = noRank then 0 else if isNan f (laneVal l) then 1 else 2

/-- Whether candidate `x` is better than `y`; none for a tie. A vacant entry never ties with a real one. -/
def candBeats (f x y : Nat) : Option Bool :=
  let a := candClass f x
  let b := candClass f y
  if a ≠ b then some (b < a)
  else if a < 2 then none
  else beats false f (laneVal x) (laneVal y)

/-- A contributor's own candidates, best first; equal values by token ID. -/
def sortCands (f : Nat) : List Nat → List Nat
  | [] => []
  | x :: l => ins x (sortCands f l)
where
  ins (x : Nat) : List Nat → List Nat
    | [] => [x]
    | y :: l => if (candBeats f x y).getD (candToken x ≤ candToken y) then x :: y :: l else y :: ins x l

/-- The `k` best of two lists, each best first, `a` the earlier; with how many times the earlier one wins a tie that the lower
rank would not (R320, R325). Candidates of one contributor keep their order by token ID. -/
def mergeCands (f : Nat) (repro : Bool) : Nat → List Nat → List Nat → List Nat × Nat
  | 0, _, _ => ([], 0)
  | _ + 1, [], [] => ([], 0)
  | k + 1, x :: a, [] =>
    let r := mergeCands f repro k a []
    (x :: r.1, r.2)
  | k + 1, [], y :: b =>
    let r := mergeCands f repro k [] b
    (y :: r.1, r.2)
  | k + 1, x :: a, y :: b =>
    let low := decide (candRank y < candRank x)
    let takeY := match candBeats f x y with
      | some w => !w
      | none => repro && low && candClass f x ≠ 0
    if takeY then
      let r := mergeCands f repro k (x :: a) b
      (y :: r.1, r.2)
    else
      let tie := if (candBeats f x y).isNone && !repro && low && candClass f x ≠ 0 then 1 else 0
      let r := mergeCands f repro k a (y :: b)
      (x :: r.1, r.2 + tie)

/-- Two lanes combined, `a` the earlier, with the ties that fast order decided otherwise (R314, R318, R321, R325). -/
def combineLane (op fmt : Nat) (scaled repro : Bool) (a b : Nat) : Nat × Nat :=
  let k := kindOf op fmt scaled
  match k with
  | .wide => ((accOf 314 a).add (accOf 314 b) |>.raw 314, 0)
  | .narrow => ((accOf 59 a).add (accOf 59 b) |>.raw 59, 0)
  | .integer => ((a + b) % 2 ^ 64, 0)
  | .value =>
    (if isNan fmt a || isNan fmt b then canonNan fmt
     else if (beats (op = opMin) fmt b a).getD false then b else a, 0)
  | .ranked =>
    match beats (op = opArgmin) fmt (laneVal a) (laneVal b) with
    | some w => (if w then a else b, 0)
    | none =>
      let low := decide (laneRank b < laneRank a)
      if repro then (if low then b else a, 0) else (a, if low then 1 else 0)
  | .word =>
    (if op = opOr then a ||| b else if op = opAnd then a &&& b else if op = opXor then a ^^^ b else (a + b) % 2 ^ 64, 0)
  | _ => (a, 0)

/-- Two partials combined. -/
def combineLanes (op fmt length : Nat) (scaled repro : Bool) (a b : List Nat) : List Nat × Nat :=
  if op = opTopk then mergeCands fmt repro length a b
  else
    let r := List.zipWith (combineLane op fmt scaled repro) a b
    (r.map (·.1), (r.map (·.2)).sum)

/-! ## Contributions (R304, R305, R319 to R321) -/

/-- Lane `i` of an IN area for a packed format. -/
def inLane (f : Nat) (b : Bytes) (i : Nat) : Nat :=
  let w := packBits f
  bits (rdLe b (w * i / 8) ((w + 7) / 8)) (w * i % 8) w % 2 ^ valueBits f

/-- The lanes that a die contributes from its IN area. -/
def dieLanes (op fmt length rank lseBias : Nat) (scaled : Bool) (b : Bytes) : List Nat :=
  let lane := fun (i : Nat) =>
    if op = opSum && isInt fmt then toUnsigned 64 (toSigned (valueBits fmt) (inLane fmt b i))
    else if op = opSum then
      let scale := if scaled then rdLe b (0x200 + i / 32) 1 else 127
      let k := kindOf op fmt scaled
      (accNum (k = .wide) (numOf fmt scale (inLane fmt b i))).raw k.acc
    else if op = opLse then (lseTerm (rdLe b (8 * i) 4) (rdLe b (8 * i + 4) 4) lseBias).raw 314
    else if op = opArgmax || op = opArgmin then rankedRaw (inLane fmt b i) rank
    else if op = opTopk then candRaw (rdLe b (8 * i) 4 % 2 ^ valueBits fmt) (rdLe b (8 * i + 4) 4) rank
    else if op = opCount then (if rdLe b (8 * i) 8 = 0 then 0 else 1)
    else inLane fmt b i
  let ls := (List.range length).map lane
  if op = opTopk then sortCands fmt ls else ls

/-! ## Results (R315, R319, R322, R323) -/

/-- The result of an accumulator lane of SUM. -/
def finishSum (wide : Bool) (out mode r : Nat) (x : Acc) : LaneOut :=
  let a : Int := if wide then x.a else x.a * 2 ^ 128
  let sign := 2 ^ ((fltFmt out).eb + (fltFmt out).fb)
  if x.nan || (x.pinf && x.ninf) then { raw := canonNan out, nan := true }
  else if x.pinf || x.ninf then
    { raw := extreme out true + (if x.ninf then sign else 0), ovf := !(fltFmt out).inf }
  else if a = 0 then { raw := if x.neg then sign else if x.pos then 0 else if mode = 3 then sign else 0 }
  else roundFlt out mode r a

/-- The pair (S, E) of an LSE lane. E of a NaN lane is a free value. -/
def finishLse (x : Acc) : LaneOut :=
  if x.nan then { raw := canonNan 0 + 2 ^ 32 * (Config.lseNanExponent % 2 ^ 32), nan := true, ovf := x.ninf }
  else if x.pinf then { raw := 0x7F80_0000, ovf := x.ninf }
  else
    let mag := x.a.toNat
    if mag = 0 then { raw := 0 }
    else
      let v := roundSig 24 mag
      let e := Nat.log2 v
      { raw := (127 * 2 ^ 23 + (v * 2 ^ 23 / 2 ^ e) % 2 ^ 23) + 2 ^ 32 * toUnsigned 32 ((e : Int) - 152), inexact := v ≠ mag }

/-- An integer sum saturated to its output format. -/
def finishInt (out : Nat) (l : Nat) : LaneOut :=
  let a := toSigned 64 l
  let v := satSigned (valueBits out) a
  { raw := toUnsigned (valueBits out) v, ovf := v ≠ a, inexact := v ≠ a }

/-- One lane's result; `r` is its stochastic draw. -/
def finishLane (op fmt out mode r : Nat) (scaled : Bool) (l : Nat) : LaneOut :=
  match kindOf op fmt scaled with
  | .wide => if op = opLse then finishLse (accOf 314 l) else finishSum true out mode r (accOf 314 l)
  | .narrow => finishSum false out mode r (accOf 59 l)
  | .integer => if op = opCount then { raw := l } else finishInt out l
  | .value => if isNan fmt l then { raw := canonNan fmt, nan := true } else { raw := l }
  | .ranked => if isNan fmt (laneVal l) then { raw := rankedRaw (canonNan fmt) (laneRank l), nan := true } else { raw := l }
  | .candidate =>
    { raw := match candClass fmt l with
        | 0 => identityLane op fmt scaled
        | 1 => candRaw (canonNan fmt) (candToken l) (candRank l)
        | _ => l
      nan := candClass fmt l = 1 }
  | _ => { raw := l }

/-- A lane of a round that combined nothing (R322). -/
def emptyLane (op fmt out : Nat) : LaneOut :=
  { raw := if op = opSum || op = opLse then 0 else identityLane op (if op = opSum then out else fmt) false }

/-- Result lanes as the OUT area holds them from 0x020 on (R306). -/
def outBytes (op out : Nat) (ls : List LaneOut) : Bytes :=
  let w := if op = opArgmax || op = opArgmin || op = opLse || op = opTopk then 64 else packBits out
  le ((w * ls.length + 7) / 8) (packLanes w (ls.map (·.raw)))

/-- The mask of the lanes for which `p` holds. -/
def laneMask (p : LaneOut → Bool) (ls : List LaneOut) : Nat :=
  (ls.zipIdx.map (fun e => bitAt (p e.1) e.2)).sum

/-! ## The bobbin generator (R337) -/

/-- A bobbin block. -/
def bobbin (seed req step block : Nat) : Bytes :=
  let key := xorB (le 8 seed ++ List.replicate 24 0) ((List.range 32).map (fun i => BitVec.ofNat 8 i))
  let plain := xorB (lay [(4, block), (4, req), (8, step)]) ((List.range 16).map (fun i => BitVec.ofNat 8 (0x11 * i)))
  aes256 key plain

/-- The first output word of a block. -/
def bobbinWord (seed req step block : Nat) : Nat := leNat ((bobbin seed req step block).take 8)

/-- The draw R of a lane (R317). -/
def srDraw (seed idx n tree lane : Nat) : Nat :=
  bobbinWord seed (0x8000_0000 + n % 256 * 2 ^ 22 + tree * 2 ^ 6 + lane) idx 0 % 2 ^ 32

end Sys2Proof.Machine
end

