-- ==== Sys2Proof/Machine/Sync.lean ====
section
/-! DEFINITION. The sync object engine: lookup, the operations on objects, release order, waits, remote signals, owner
resets and the re-alignment check (R238 to R263, R267). Host commands are in SyncCmd.lean. -/

namespace Sys2Proof.Machine

/-! ## Objects and entries (R238, R241) -/

def ObjType.code : ObjType → Nat
  | .count => 0
  | .flag => 1
  | .seq => 2
  | .gate => 3
def objTypeOf (n : Nat) : ObjType :=
  match n % 4 with
  | 0 => .count
  | 1 => .flag
  | 2 => .seq
  | _ => .gate

def State.obj (s : State) (pid : Nat) : Option Obj := tfind s.spn.sync.objs pid
def State.modObj (pid : Nat) (f : Obj → Obj) (s : State) : State :=
  match s.obj pid with
  | some o => { s with spn.sync.objs := tput s.spn.sync.objs pid (f o) }
  | none => s

/-- The entry of a (context, VID): its index and contents. -/
def State.xlatFind (s : State) (ctx vid : Nat) : Option (Nat × Xlat) :=
  s.spn.sync.xlat.find? (fun e => e.2.ctx = ctx && e.2.vid = vid)
/-- The physical ID that a (context, VID) maps to. -/
def State.xlatPid (s : State) (ctx vid : Nat) : Option Nat := (s.xlatFind ctx vid).map (·.2.pid)

/-- One change of an object (MOD, R265). -/
def touchObj (pid : Nat) (s : State) : State := s.modObj pid (fun o => { o with mod := (o.mod + 1) % 2 ^ 32 })

def maxV : Nat := 2 ^ 64 - 1
def max32 : Nat := 2 ^ 32 - 1

/-- LAST_PROD and LAST_CONS of a local core and of a host or firmware command (R265). -/
def localSrc (logical : Nat) : Nat := 0x8000_0000 + logical
def hostSrc : Nat := 0xFFFF_FFFF

/-! ## GATE VALUE (R249) -/

def gateArrived (v : Nat) : Nat := bits v 0 16
def gateParties (v : Nat) : Nat := bits v 16 16
def gateGen (v : Nat) : Nat := bits v 32 32
def gateVal (arrived parties gen : Nat) : Nat := arrived % 65536 + 2 ^ 16 * parties + 2 ^ 32 * (gen % 2 ^ 32)

/-- A GATE after `n` arrivals; it closes at PARTIES. -/
def gateArrive (v n : Nat) : Nat :=
  let a := gateArrived v + n
  if gateParties v ≤ a then gateVal (a - gateParties v) (gateParties v) (gateGen v + 1) else gateVal a (gateParties v) (gateGen v)

/-! ## Records (R267) -/

/-- A sync event record. `w` is the waiter, `f32` bytes 32 to 39, `f48` bytes 48 to 55. -/
def soRecord (rtype reason ctx vid pid : Nat) (o : Option Obj) (w : Option (Nat × Nat)) (value f32 prod cons f48 arg op : Nat)
    (s : State) : State :=
  let st := s.stampOf .spn s.spnPart
  let rec_ := lay [(1, rtype), (1, reason), (1, ctx),
    (1, (o.map (fun o => o.typ.code + bitAt o.control 2)).getD 0), (4, vid), (2, pid), (2, (w.map (·.1)).getD 0xFFFF),
    (2, (w.map (·.2)).getD 0xFFFF), (2, (o.map (·.owner)).getD 0), (8, value), (8, st.1), (8, f32), (4, prod), (4, cons), (8, f48),
    (2, arg), (1, op), (1, bitAt st.2 0), (4, s.spn.sync.recSeq)]
  { s with spn.sync.recSeq := (s.spn.sync.recSeq + 1) % 2 ^ 32 }.post .spn (bits (s.reg .spn 0x0C00) 0 4) rec_

/-- A refused signal or failed posted operation: counted, raised and recorded (R258). -/
def soRefuse (q : QOp) (reason : Nat) (s : State) : State :=
  let o := s.obj q.pid
  let s := ((s.bump .spn 0x0C0C 1).setEv .spn 0x0C08 3).raise .spn 0x1603 s.spnPart [q.src, q.core, q.vid, q.ctx, reason]
  soRecord 0x13 reason q.ctx q.vid (if o.isSome then q.pid else 0xFFFF) o none ((o.map (·.value)).getD 0) 0 q.src
    ((o.map (·.lastCons)).getD 0) q.operand q.arg q.op s

/-! ## Ports and releases (R246, R250 to R252) -/

/-- The core's port shows a completed operation. -/
def portDone (core status value : Nat) (s : State) : State :=
  s.modCport core (fun c => { c with status := status, value := value, pending := false })

/-- Waiters of an object with their physical cores, in release order: by waiter ID, in fast mode by registration (R251). -/
def State.waitersOf (s : State) (pid : Nat) : List (Nat × Waiter) :=
  let l := s.spn.sync.waiters.filter (fun e => e.2.pid = pid)
  if s.fastMode then sortBy (fun e => e.2.regTick) l else l

/-- A wait ends: its entry goes, the port shows its status, and the core wakes unless the status is FENCED (R252). -/
def releaseWait (core status value : Nat) (s : State) : State :=
  let s := portDone core status value { s with spn.sync.waiters := tdel s.spn.sync.waiters core }
  if status = 0x0C then s.modCport core (fun c => { c with early := false }) else wakeCore core s

/-- Whether a WAIT or ARRIVE_WAIT condition holds on an object's VALUE (R249). -/
def waitHolds (o : Obj) (op arg operand gen : Nat) : Bool :=
  if op = 6 then gateGen o.value ≠ gen
  else match o.typ with
    | .count => arg ≤ o.value
    | .flag => if operand = 0 then o.value ≠ 0 else o.value = operand
    | .seq => operand ≤ o.value
    | .gate => gateGen o.value ≠ operand % 2 ^ 32

/-- A taker takes: VALUE falls, TAKE_WIN and LAST_CONS follow (R250, R261). -/
def takeFrom (pid arg logical : Nat) (s : State) : State :=
  touchObj pid (s.modObj pid (fun o => { o with
    value := o.value - arg, takeWin := min (o.takeWin + arg) max32, lastCons := localSrc logical }))

/-- Step 3 of R250: takers in release order until one's ARG exceeds VALUE. `count` moves WAIT_ORDER for a pick that the
reproducible order would not make (R386). -/
def takers (pid : Nat) (count : Bool) : List (Nat × Waiter) → State → State
  | [], s => s
  | e :: l, s =>
    match s.obj pid with
    | none => s
    | some o =>
      if e.2.arg ≤ o.value then
        let s := if count && l.any (fun x => x.2.logical < e.2.logical) then ndAdd 0 1 s else s
        let s := takeFrom pid e.2.arg e.2.logical s
        takers pid count l (releaseWait e.1 0 (o.value - e.2.arg) s)
      else s

/-- The evaluation of an object's waiters after a change; after SIGNAL_TO only the named one (R250). -/
def evaluate (pid : Nat) (only : Option Nat) (s : State) : State :=
  match s.obj pid with
  | none => s
  | some o =>
    let ws := (s.waitersOf pid).filter (fun e => match only with
      | some n => e.2.logical = n
      | none => true)
    let s := ws.foldl (fun s e =>
      if e.2.op ≠ 4 && waitHolds o e.2.op e.2.arg e.2.operand e.2.gen then releaseWait e.1 0 o.value s else s) s
    takers pid only.isNone (ws.filter (fun e => e.2.op = 4)) s

/-! ## One operation (R247 to R250, R258) -/

/-- Whether an operation is defined for a type (R249). -/
def opDefined (op : Nat) (t : ObjType) : Bool :=
  match op with
  | 0x1 | 0x3 | 0x5 | 0x8 | 0x9 => true
  | 0x2 | 0x4 => t = .count
  | 0x6 => t = .gate
  | 0x7 => t = .flag
  | 0xA => t = .seq
  | _ => false

/-- Posted operations (R247). -/
def opPosted (op : Nat) : Bool := op = 0x1 || op = 0x2 || op = 0x3 || op = 0xA
def opWait (op : Nat) : Bool := op = 0x4 || op = 0x5 || op = 0x6

/-- The status or reason for which an operation on an object fails (R248, R249, R258). An orphaned object takes no signal and
no wait. -/
def opFails (q : QOp) (o : Obj) (s : State) : Option Nat :=
  let badArg := q.arg = 0 && (q.op = 0x1 || q.op = 0x2 || q.op = 0x4 || (q.op = 0x5 && o.typ = .count))
  if !opDefined q.op o.typ then some 0x07
  else if q.op = 0x9 then
    if s.ctxOf q.core ≠ o.ownerCtx then some 0x09
    else if !(s.waitersOf q.pid).isEmpty then some 0x0A
    else if (o.typ = .gate && q.arg = 0) || (o.realign && 2 ^ 32 ≤ q.operand) then some 0x08
    else none
  else if badArg || (q.op = 0x1 && o.typ = .gate && gateParties o.value < q.arg) then some 0x08
  else if o.orphaned && (opPosted q.op || opWait q.op) then some 0x04
  else if q.op = 0xA && q.operand < o.value then some 0x0B
  else none

/-- A COUNT or SEQ signal that would pass 2^64 - 1 stays there and raises `OBJ_OVERFLOW` (R249). -/
def addValue (q : QOp) (o : Obj) (s : State) : State :=
  let s' := s.modObj q.pid (fun o => { o with value := min (o.value + q.arg) maxV })
  if o.value + q.arg ≤ maxV then s'
  else
    let s' := (s'.setEv .spn 0x0C08 4).raise .spn 0x1602 s.spnPart [q.vid, q.ctx, q.pid, q.src]
    soRecord 0x14 0 q.ctx q.vid q.pid (some o) none maxV 0 q.src o.lastCons q.operand q.arg q.op s'

/-- A signal applied later than T_SIG(h) raises `SIGNAL_LATE` (R260). -/
def checkLate (q : QOp) (s : State) : State :=
  match q.sendDtc with
  | none => s
  | some (sent, h) =>
    if h = 0 || s.spnPart = 0 || s.dtc ≤ sent + 284 + 215 * h + 5 * (30 + 200 * (h - 1)) then s
    else
      let o := s.obj q.pid
      let s := (s.setEv .spn 0x0C08 5).raise .spn 0x1604 s.spnPart [q.src, q.vid, q.ctx, sent, s.dtc]
      soRecord 0x15 0 q.ctx q.vid q.pid o none ((o.map (·.value)).getD 0) sent q.src ((o.map (·.lastCons)).getD 0) q.operand q.arg q.op s

/-- A posted operation that does not fail (R249, R250, R261). -/
def applyPosted (q : QOp) (o : Obj) (s : State) : State :=
  let s := touchObj q.pid (s.modObj q.pid (fun o => { o with lastProd := q.src }))
  let signal := q.op = 0x1 || q.op = 0x2
  let s := if signal && o.typ = .count then s.modObj q.pid (fun o => { o with sigWin := min (o.sigWin + q.arg) max32 }) else s
  let s :=
    if q.op = 0xA then s.modObj q.pid (fun o => { o with value := q.operand })
    else if q.op = 0x3 then
      let s := if o.typ = .gate then
        s.modObj q.pid (fun o => { o with value := gateVal 0 (gateParties o.value) (gateGen o.value + 1) }) else s
      let v := ((s.obj q.pid).map (·.value)).getD 0
      (s.waitersOf q.pid).foldl (fun s e => releaseWait e.1 0x05 v s) s
    else match o.typ with
      | .flag => s.modObj q.pid (fun o => { o with value := q.operand })
      | .gate => s.modObj q.pid (fun o => { o with value := gateArrive o.value q.arg })
      | _ => addValue q o s
  let s := if q.op = 0x3 then s else evaluate q.pid (if q.op = 0x2 then some (q.operand % 2048) else none) s
  checkLate q s

/-- The wait length of a TIMEOUT in ns (R253). -/
def timeoutNs (t : Nat) : Nat := (t % 4096) * 2 ^ (t / 4096) * 64

/-- Registers a wait; the core sleeps (R252). -/
def registerWait (q : QOp) (gen : Nat) (s : State) : State :=
  let w : Waiter := { logical := s.logOf q.core, ctx := q.ctx, op := q.op, vid := q.vid, pid := q.pid, arg := q.arg,
                      operand := q.operand, expiry := s.sc.time.tick + timeoutNs q.timeout, regTick := s.sc.time.tick,
                      regDtc := (s.stampOf .spn s.spnPart).1, gen := gen }
  { s with spn.sync.waiters := tput s.spn.sync.waiters q.core w }.modCport q.core (fun c =>
    { c with pending := true, awake := false, early := false })

/-- A wait operation that does not fail (R249, R250, R252, R253). -/
def applyWait (q : QOp) (o : Obj) (s : State) : State :=
  let test := q.timeout % 4096 = 0
  let gen := gateGen o.value
  if q.op = 0x6 then
    let v := gateArrive o.value 1
    let s := touchObj q.pid (s.modObj q.pid (fun o => { o with value := v }))
    if gateGen v ≠ gen then portDone q.core 0 v (evaluate q.pid none s)
    else if test then portDone q.core 0x02 v s
    else registerWait q gen s
  else if q.op = 0x4 then
    if q.arg ≤ o.value && !(s.waitersOf q.pid).any (fun e => e.2.op = 0x4) then
      portDone q.core 0 (o.value - q.arg) (evaluate q.pid none (takeFrom q.pid q.arg (s.logOf q.core) s))
    else if test then portDone q.core 0x02 o.value s
    else
      let s := registerWait q gen s
      takers q.pid true ((s.waitersOf q.pid).filter (fun e => e.2.op = 4)) s
  else if waitHolds o q.op q.arg q.operand gen then portDone q.core 0 o.value s
  else if test then portDone q.core 0x02 o.value s
  else registerWait q gen s

/-- An immediate operation that does not fail: CLEAR, READ, INIT (R245, R249, R263). -/
def applyImmediate (q : QOp) (o : Obj) (s : State) : State :=
  if q.op = 0x8 then portDone q.core (if o.orphaned then 0x04 else 0) o.value s
  else if q.op = 0x7 then portDone q.core 0 0 (evaluate q.pid none (touchObj q.pid (s.modObj q.pid (fun o => { o with value := 0 }))))
  else
    let v := if o.typ = .gate then gateVal 0 q.arg q.operand else q.operand
    let s := touchObj q.pid (s.modObj q.pid (fun o => { o with value := v, owner := s.logOf q.core, orphaned := false }))
    let s := if o.realign then s.modObj q.pid (fun o => { o with base := v % 2 ^ 32, sigWin := 0, takeWin := 0 }) else s
    portDone q.core 0 v s

/-- A host command's `SO_SIGNAL` ends with its operation (R266, R470). -/
def endSignalCmd (q : QOp) (status detail : Nat) (s : State) : State :=
  match q.cmd with
  | some r => complete .spn r 0x0403 2 status detail [] s
  | none => s

/-- An operation at the head of its bank queue is applied (R249, R250). -/
def applyOp (q : QOp) (s : State) : State :=
  let mapped := s.xlatPid q.ctx q.vid = some q.pid
  let fail := match (if mapped then s.obj q.pid else none) with
    | none => some (if s.spn.sync.saved.contains q.ctx then 0x10 else 0x06)
    | some o => opFails q o s
  match fail, s.obj q.pid with
  | some r, o =>
    if opPosted q.op then endSignalCmd q 0x0508 r (soRefuse q r s)
    else portDone q.core (if r = 0x10 then 0x06 else r) (if r = 0x04 then (o.map (·.value)).getD 0 else 0) s
  | none, none => s
  | none, some o =>
    if opPosted q.op then endSignalCmd q 0 0 (applyPosted q o s)
    else if opWait q.op then applyWait q o s
    else applyImmediate q o s

/-- A local core's operation, at its own sync port. -/
def QOp.ofCore (q : QOp) (core : Nat) (s : State) : Bool := q.core = core && q.src = localSrc (s.logOf core)

/-- An operation has entered its bank's queue: a posted one shows POSTED at its port, a remote signal gives its credit back (R238, R247);
in fast mode with RA_SYNC the object's waiters are ungated early (R288). -/
def entered (q : QOp) (s : State) : State :=
  let s := if s.fastMode && (s.reg .spn 0x0D04).testBit 3 && s.sc.sec.power ≠ 2 then
    (s.waitersOf q.pid).foldl (fun s e => ungateEarly e.1 s) s else s
  let s := match q.credit with
    | some port => freeCredit .spn port clsSignal s
    | none => s
  if opPosted q.op && q.ofCore q.core s then s.modCport q.core (fun c => { c with status := 0x01 }) else s

/-- An operation enters its bank's queue of 64; past them it waits, its core stalled at its sync port or its signal's credit held (R238). -/
def enqueueOp (q : QOp) (s : State) : State :=
  let bank := q.pid % 16
  if (tget [] s.spn.sync.queues bank).length < 64 then
    entered q { s with spn.sync.queues := tmod [] s.spn.sync.queues bank (fun l => l ++ [q]) }
  else { s with spn.sync.stalled := tmod [] s.spn.sync.stalled bank (fun l => l ++ [q]) }

/-- The first operation that waits for a place in a bank's queue takes one that is free. -/
def unstall (bank : Nat) (s : State) : State :=
  match tget [] s.spn.sync.stalled bank with
  | [] => s
  | q :: rest =>
    if 64 ≤ (tget [] s.spn.sync.queues bank).length then s
    else enqueueOp q { s with spn.sync.stalled := tset [] s.spn.sync.stalled bank rest }

/-- A bank serves its oldest operation; none while a frozen dump runs (R238, R265). Cores that were ungated early for it and
still wait sleep again (R289). -/
def bankApply (bank : Nat) (s : State) : State :=
  match tget [] s.spn.sync.queues bank with
  | [] => s
  | q :: rest =>
    if s.spn.sync.frozen then s
    else
      let s := { s with
        spn.sync.queues := tset [] s.spn.sync.queues bank rest, spn.sync.served := tset 0 s.spn.sync.served bank s.sc.time.tick }
      let s := unstall bank (applyOp q s)
      (s.waitersOf q.pid).foldl (fun s e => sleepAgain e.1 s) s

def execSoBankApply (bank : Nat) (s : State) : Out := run (bank < 16) (bankApply bank) s

/-- What a bank holds at a TICK in which it has served nothing is served first: a release wins over an expiry, and a signal over an owner
reset, of the same TICK (R254; log entry 155). -/
def serveFirst (bank : Nat) (s : State) : State :=
  if tget 0 s.spn.sync.served bank = s.sc.time.tick && s.sc.time.tick ≠ 0 then s else bankApply bank s

/-! ## The core sync port (R246, R255, R256) -/

/-- The core's operation waits at its sync port for a place in a bank queue (R238). -/
def State.syncStalled (s : State) (core : Nat) : Bool :=
  s.spn.sync.stalled.any (fun e => e.2.any (fun q => q.ofCore core s))

/-- A sync wait of the core is pending, or still on its way to its bank. -/
def State.syncBusy (s : State) (core : Nat) : Bool :=
  (s.cport core).pending
    || (s.spn.sync.queues ++ s.spn.sync.stalled).any (fun e => e.2.any (fun q => opWait q.op && q.ofCore core s))

/-- A wait of either port is pending on the core (R275). -/
def State.coreWaits (s : State) (core : Nat) : Bool := s.syncBusy core || (s.cport core).barPending

/-- The port shows a failure without touching a pending wait. -/
def portStatus (core status : Nat) (s : State) : State := s.modCport core (fun c => { c with status := status })

/-- An operation that fails before it is queued: its port shows the status, and a posted one is refused with its record as well (R258). -/
def failAtPort (q : QOp) (status : Nat) (s : State) : State :=
  let s := portStatus q.core status s
  if opPosted q.op then soRefuse q status s else s

/-- Payload of a SIGNAL cell (R256). -/
def signalBody (vid ctx op arg operand core dtc : Nat) : Bytes :=
  lay [(4, vid + 2 ^ 20 * ctx), (1, op), (1, 0), (2, arg), (8, operand), (2, core), (2, 0), (8, dtc)]

/-- REMOTE with words SO_OP0, SO_OP2 and SO_OP1: a SIGNAL cell on the named plane's port, or the signal is refused with PORT_DOWN
(R256). One that fails at its port is refused with its record as any posted operation is (R258). -/
def remoteOp (core : Nat) (op0 op1 : Word64) (s : State) : State :=
  let w := op0.toNat
  let w2 := (s.cport core).op2
  let rop := bits w2 32 4
  let port := bits w2 42 1
  let vid := bits w 8 20
  let ctx := bits w2 36 6
  let q : QOp := { pid := 0xFFFF, ctx := ctx, vid := vid, op := rop, arg := bits w 32 16, operand := op1.toNat,
                   src := localSrc (s.logOf core), core := core }
  let fails := fun (st : Nat) => soRefuse q st (portStatus core st s)
  if s.syncBusy core then fails 0x0A
  else if s.fenced core then fails 0x0C
  else if bits w 4 4 ≠ 0 || bits w 28 4 ≠ 0 || bits w2 43 21 ≠ 0 || !opPosted rop then fails 0x08
  else if s.spnPart = 0 then fails 0x0E
  else
    let s := portStatus core 0x01 s
    if (s.port .spn port).state = .up then
      sendCell .spn port { cls := clsSignal, typ := 0, dst := bits w2 0 32, part := s.spnPart, pepoch := s.spnPepoch,
                           body := signalBody vid ctx rop (bits w 32 16) op1.toNat (s.logOf core) s.dtc } s
    else soRefuse q 0x12 (s.portCount .spn port 0x38 1)

/-- An operation other than REMOTE, looked up and queued (R241, R246, R247). -/
def localOp (core : Nat) (op0 op1 : Word64) (s : State) : State :=
  let w := op0.toNat
  let op := bits w 0 4
  let vid := bits w 8 20
  let ctx := s.ctxOf core
  let pid := s.xlatPid ctx vid
  let q : QOp := { pid := pid.getD 0xFFFF, ctx := ctx, vid := vid, op := op, arg := bits w 32 16, operand := op1.toNat,
                   src := localSrc (s.logOf core), core := core, timeout := bits w 48 16 }
  if s.syncBusy core || (opWait op && (s.cport core).barPending) then failAtPort q 0x0A s
  else if s.fenced core then failAtPort q 0x0C s
  else if bits w 4 4 ≠ 0 || bits w 28 4 ≠ 0 || op = 0 || 0xA < op then failAtPort q 0x08 s
  else if pid.isNone then failAtPort q 0x06 s
  else enqueueOp q s

/-- A core writes SO_OP0 and SO_OP1, which issues the operation that SO_OP0 names (R246, R247). A core that is absent or stalled issues
none. -/
def coreOp (core : Nat) (op0 op1 : Word64) (s : State) : State :=
  if !s.corePresent core || s.syncStalled core then s
  else if bits op0.toNat 0 4 = 0xC then remoteOp core op0 op1 s
  else localOp core op0 op1 s

def execSoOpSignal (core : Nat) (op0 op1 : Word64) (s : State) : Out := run (core < 2048) (coreOp core op0 op1) s
def execSoOpSignalTo (core : Nat) (op0 op1 : Word64) (s : State) : Out := run (core < 2048) (coreOp core op0 op1) s
def execSoOpBroadcast (core : Nat) (op0 op1 : Word64) (s : State) : Out := run (core < 2048) (coreOp core op0 op1) s
def execSoOpWaitTake (core : Nat) (op0 op1 : Word64) (s : State) : Out := run (core < 2048) (coreOp core op0 op1) s
def execSoOpWait (core : Nat) (op0 op1 : Word64) (s : State) : Out := run (core < 2048) (coreOp core op0 op1) s
def execSoOpArriveWait (core : Nat) (op0 op1 : Word64) (s : State) : Out := run (core < 2048) (coreOp core op0 op1) s
def execSoOpClear (core : Nat) (op0 op1 : Word64) (s : State) : Out := run (core < 2048) (coreOp core op0 op1) s
def execSoOpRead (core : Nat) (op0 op1 : Word64) (s : State) : Out := run (core < 2048) (coreOp core op0 op1) s
def execSoOpInit (core : Nat) (op0 op1 : Word64) (s : State) : Out := run (core < 2048) (coreOp core op0 op1) s
def execSoOpSeqSet (core : Nat) (op0 op1 : Word64) (s : State) : Out := run (core < 2048) (coreOp core op0 op1) s

/-- A core writes SO_OP2 as well: the operation's destination where SO_OP0 names REMOTE (R246). -/
def execSoOpRemote (core : Nat) (op0 op2 op1 : Word64) (s : State) : Out :=
  run (core < 2048) (fun s =>
    if s.syncStalled core then s else coreOp core op0 op1 (s.modCport core (fun c => { c with op2 := op2.toNat }))) s

/-! ## Remote signals (R256 to R258) -/

/-- The partition of a remote signal is the die's, active or shadow (R68, R258). -/
def State.memberOf (s : State) (part pepoch : Nat) : Bool :=
  part ≠ 0 && ((part = s.spnPart && pepoch = s.spnPepoch)
    || (part = bankNat s.spn.banks.shadow bankPart 2 && pepoch = bankNat s.spn.banks.shadow bankPepoch 4))

/-- A remote or host signal: refused, or queued at its object's bank (R258). The reason of a refusal comes back. -/
def takeSignal (q : QOp) (ok : Bool) (s : State) : State × Option Nat :=
  let pid := s.xlatPid q.ctx q.vid
  let q := { q with pid := pid.getD 0xFFFF }
  let reason :=
    if !ok then some 0x11
    else if s.spn.sync.saved.contains q.ctx then some 0x10
    else if !opPosted q.op then some 0x08
    else match pid.bind (fun p => s.obj p) with
      | none => some 0x06
      | some o => opFails q o s
  match reason with
  | some r =>
    let s := match q.credit with
      | some port => freeCredit .spn port clsSignal s
      | none => s
    (soRefuse q r s, some r)
  | none => (enqueueOp q s, none)

def execSignalCellReceived (m : SignalMsg) (s : State) : Out :=
  run (m.port < 2) (fun s =>
    let q : QOp := { pid := 0, ctx := m.ctx % 64, vid := m.vid % 2 ^ 20, op := m.op % 256, arg := m.arg % 65536,
                     operand := m.operand.toNat, src := m.src % 2 ^ 32, core := m.core % 65536, sendDtc := some (m.sendDtc, 7 - m.hops), credit := some m.port }
    (takeSignal q (s.memberOf m.part m.pepoch) s).1) s

/-- A signal word at the fabric port (R257); one with a non-zero reserved bit is refused. -/
def execFabricSignalWord (w : BitVec 256) (s : State) : Out :=
  run true (fun s =>
    let v := w.toNat
    let clean := bits v 26 6 = 0 && bits v 40 8 = 0 && bits v 224 32 = 0
    let q : QOp := { pid := 0, ctx := bits v 20 6, vid := bits v 0 20, op := if clean then bits v 32 8 else 0, arg := bits v 48 16,
                     operand := bits v 64 64, src := bits v 128 32, core := bits v 160 16 }
    (takeSignal q (s.memberOf (bits v 176 16) (bits v 192 32)) s).1) s

/-! ## Expiry, owners, re-alignment (R254, R261 to R263) -/

/-- A wait completes with TIMEOUT: its event and record (R254). -/
def expireWait (core : Nat) (w : Waiter) (s : State) : State :=
  let o := s.obj w.pid
  let v := (o.map (·.value)).getD 0
  let s := releaseWait core 0x03 v s
  let s := ((s.bump .spn 0x0C10 1).setEv .spn 0x0C08 0).raise .spn 0x1601 s.spnPart [w.vid, w.ctx, w.pid, w.logical, core]
  soRecord 0x10 0x03 w.ctx w.vid w.pid o (some (w.logical, core)) v w.regDtc ((o.map (·.lastProd)).getD 0)
    ((o.map (·.lastCons)).getD 0) w.operand w.arg w.op s

/-- A wait reaches its TIMEOUT, unless an operation of the same TICK releases it (R254). -/
def soExpire (core : Nat) (s : State) : State :=
  match tfind s.spn.sync.waiters core with
  | none => s
  | some w =>
    if s.sc.time.tick < w.expiry then s
    else
      let s := serveFirst (w.pid % 16) s
      if tfind s.spn.sync.waiters core = some w then expireWait core w s else s

def execSoWaitExpiry (core : Nat) (s : State) : Out := run (core < 2048) (soExpire core) s

/-- Each pending wait on an object completes with ORPHAN, each with a record (R244, R263). Their number comes back. -/
def orphanWaits (pid : Nat) (s : State) : State × Nat :=
  let ws := s.waitersOf pid
  let o := s.obj pid
  let v := (o.map (·.value)).getD 0
  (ws.foldl (fun s e =>
    soRecord 0x11 0x04 e.2.ctx e.2.vid pid o (some (e.2.logical, e.1)) v 0 ((o.map (·.lastProd)).getD 0) ((o.map (·.lastCons)).getD 0)
      e.2.operand e.2.arg e.2.op (releaseWait e.1 0x04 v s)) s, ws.length)

/-- An owned object becomes ORPHANED (R263). -/
def orphanObj (pid : Nat) (s : State) : State :=
  let s := touchObj pid (s.modObj pid (fun o => { o with orphaned := true }))
  (orphanWaits pid (s.setEv .spn 0x0C08 1)).1

/-- What a core's reset takes out of the engine: its registered wait, and its operations on their way but for those posted (R263). -/
def dropCore (core : Nat) (s : State) : State :=
  { s with
    spn.sync.waiters := tdel s.spn.sync.waiters core, spn.bar.waits := tdel s.spn.bar.waits core
    spn.sync.ports := tdel s.spn.sync.ports core
    spn.sync.queues := s.spn.sync.queues.map (fun e => (e.1, e.2.filter (fun q => opPosted q.op || !q.ofCore core s)))
      |>.filter (fun (e : Nat × List QOp) => !e.2.isEmpty)
    spn.sync.stalled := s.spn.sync.stalled.map (fun e => (e.1, e.2.filter (fun q => !q.ofCore core s)))
      |>.filter (fun (e : Nat × List QOp) => !e.2.isEmpty) }

/-- Objects that a core owns in its context. -/
def State.ownedBy (core : Nat) (s : State) : List Nat :=
  (s.spn.sync.objs.filter (fun e => !e.2.orphaned && e.2.ownerCtx = s.ctxOf core && e.2.owner = s.logOf core)).map (·.1)

/-- Owners are reset: an operation of the same TICK is applied first, then the objects are orphaned (R254, R263). -/
def orphanAll (pids : List Nat) (s : State) : State :=
  let s := ((pids.map (· % 16)).eraseDups).foldl (fun s b => serveFirst b s) s
  pids.foldl (fun s pid => orphanObj pid s) s

/-- A core reset (R263): its own wait goes without status, wake or record, its ports read reset values, and every object it
owns in its context is orphaned. -/
def coreReset (core : Nat) (s : State) : State := orphanAll (s.ownedBy core) (dropCore core s)

def execCoreResetInput (core : Nat) (s : State) : Out := run (core < 2048) (coreReset core) s

/-- At D the pending waits of the cores that the doff fences complete with FENCED, those still on their way to a bank too; no wake is
sent (R252, R255). -/
def fenceWaits (s : State) : State :=
  let gone := fun (q : QOp) => opWait q.op && s.fenced q.core && q.ofCore q.core s
  let ops := (s.spn.sync.queues ++ s.spn.sync.stalled).flatMap (fun e => e.2.filter gone)
  let ws := s.spn.sync.waiters.filter (fun e => s.fenced e.1)
  let keep := fun (t : Tbl (List QOp)) => (t.map (fun e => (e.1, e.2.filter (fun q => !gone q)))).filter (fun (e : Nat × List QOp) => !e.2.isEmpty)
  let s := { s with spn.sync.queues := keep s.spn.sync.queues, spn.sync.stalled := keep s.spn.sync.stalled }
  let s := ops.foldl (fun s q => portDone q.core 0x0C 0 s) s
  ws.foldl (fun s e => releaseWait e.1 0x0C (((s.obj e.2.pid).map (·.value)).getD 0) s) s

/-- The undecided step that ended last takes a failure cause (R521). -/
def failEnded (cause : Nat) (s : State) : State :=
  { s with
      spn.launch.past := s.spn.launch.past.map (fun u =>
      if u.endedAt.isSome && !u.voted then { u with causes := u.causes ++ [cause] } else u) }

/-- Each snapshot of the last window end is checked (R261, R262). -/
def realignCheck (s : State) : State :=
  let snaps := s.spn.sync.snaps
  let s := { s with spn.sync.snaps := [] }
  let bad := snaps.any (fun (e : Nat × Nat × Nat × Nat) => match s.obj e.1 with
    | some o => !(e.2.2.1 = e.2.2.2 && e.2.1 = o.base)
    | none => false)
  let s := snaps.foldl (fun s (e : Nat × Nat × Nat × Nat) =>
    match s.obj e.1 with
    | none => s
    | some o =>
      if e.2.2.1 = e.2.2.2 && e.2.1 = o.base then
        if o.mismatch then touchObj e.1 (s.modObj e.1 (fun o => { o with mismatch := false })) else s
      else
        let x := (s.spn.sync.xlat.find? (fun x => x.2.pid = e.1)).map (·.2)
        let ctx := (x.map (·.ctx)).getD 0
        let vid := (x.map (·.vid)).getD 0
        let s := (s.setEv .spn 0x0C08 2).raise .spn 0x1605 s.spnPart [vid, ctx, e.1, o.lastProd, o.lastCons]
        let s := soRecord 0x12 0 ctx vid e.1 (some o) none e.2.1 (e.2.2.1 + 2 ^ 32 * e.2.2.2) o.lastProd o.lastCons o.base 0 0 s
        touchObj e.1 (s.modObj e.1 (fun o => { o with mismatch := true, base := e.2.1 % 2 ^ 32 }))) s
  if bad then failEnded 5 s else s

def execCountRealignCheck (s : State) : Out := run true realignCheck s

end Sys2Proof.Machine
end

