-- ==== Sys2Proof/Machine/Barrier.lean ====
section
/-! DEFINITION. Barrier channels and the die's side of ply rounds: group configurations, contributions, releases, waits, and what
a doff does to channels (R272 to R291, R297 to R311, R328, R329, R393). -/

namespace Sys2Proof.Machine

/-! ## Group configurations (R297, R298) -/

/-- A group's configuration. -/
structure GCfg where
  tree     : Nat
  valid    : Bool
  member   : Bool
  scaled   : Bool
  chan     : Nat
  op       : Nat
  fmt      : Nat
  outFmt   : Nat
  length   : Nat
  rmode    : Nat
  consumer : Nat
  source   : Nat
  seedIdx  : Nat
  rank     : Nat
  size     : Nat
  lseBias  : Nat
  bound    : Nat
deriving DecidableEq, Repr

/-- A configuration's 32 bytes read as its fields. -/
def gcfgOf (b : Bytes) : GCfg :=
  let f := rdLe b 2 1
  { tree := rdLe b 0 2, valid := f.testBit 0, member := f.testBit 1, scaled := f.testBit 2, chan := rdLe b 3 1, op := rdLe b 4 1,
    fmt := rdLe b 5 1, outFmt := rdLe b 6 1, length := rdLe b 7 1, rmode := rdLe b 8 1 % 8, consumer := rdLe b 9 1,
    source := rdLe b 10 1, seedIdx := rdLe b 11 1, rank := rdLe b 12 4, size := rdLe b 16 4, lseBias := rdLe b 20 4,
    bound := rdLe b 24 4 }

/-- Its bytes. -/
def GCfg.bytes (g : GCfg) : Bytes :=
  lay [(2, g.tree), (1, bitAt g.valid 0 + bitAt g.member 1 + bitAt g.scaled 2), (1, g.chan), (1, g.op), (1, g.fmt), (1, g.outFmt),
    (1, g.length), (1, g.rmode), (1, g.consumer), (1, g.source), (1, g.seedIdx), (4, g.rank), (4, g.size), (4, g.lseBias),
    (4, g.bound), (4, 0)]

/-- A group's configuration in a bank image. -/
def bankGroup (m : Mem) (g : Nat) : GCfg := gcfgOf (memRd m (bankGroups + 32 * g) 32)
def State.gcfg (s : State) (g : Nat) : GCfg := bankGroup s.spn.banks.active g

/-- Groups of the active bank that bind a channel, lowest first (R281, R298). -/
def State.binders (s : State) (ch : Nat) : List Nat :=
  (List.range 64).filter (fun g => let c := s.gcfg g; c.valid && c.member && c.source = 0 && c.chan = ch)

/-- The group that binds a channel; none for a LOCAL one. -/
def BarChan.bound (c : BarChan) : Nat := c.group.getD 0xFF

/-! ## Cells of a round (R307 to R311) -/

/-- Messages that fit whole cells: each part is filled to 40 bytes. -/
def plyCells (typ : Nat) (up : Bool) (tree part pepoch : Nat) (parts : List Bytes) : List Cell :=
  let c : Cell := { cls := clsPly, typ := typ, tree := true, up := up, dst := tree, part := part, pepoch := pepoch }
  cellsOf c 40 40 (parts.flatMap (padTo 40))

/-- Lanes cut into cells. -/
def laneCells (w per : Nat) : Nat → List Nat → List Bytes
  | 0, _ => []
  | _, [] => []
  | n + 1, ls => le 40 (packLanes w (ls.take per)) :: laneCells w per n (ls.drop per)

/-- The cells of a PLY_UP message. -/
def plyUpCells (m : PlyUp) : List Cell :=
  let head := lay [(4, m.c), (2, m.n), (1, m.op), (1, m.fmt), (1, m.outFmt), (1, m.length), (1, m.rmode + bitAt m.scaled 3),
    (1, bitAt m.empty 0 + bitAt m.failed 1), (4, m.counted), (8, m.tLast), (4, if m.failed then m.cause else 0), (2, m.ndtie)]
  let key := if m.rmode = rmSr then [lay [(8, m.seed), (8, m.idx)]] else []
  let sz := (kindOf m.op m.fmt m.scaled).size m.fmt
  plyCells 0 true m.tree m.part m.pepoch ([head] ++ key ++ (if m.empty then [] else laneCells sz.1 sz.2 m.lanes.length m.lanes))

/-- The cells of a PLY_DOWN message. -/
def plyDownCells (m : PlyDown) : List Cell :=
  let head := lay [(4, m.c), (2, m.n), (2, m.flags), (4, m.counted), (8, m.tLast), (2, m.ndtie), (2, 0), (8, m.nanMask),
    (8, m.ovfMask)]
  plyCells 1 false m.tree m.part m.pepoch (head :: (List.range (ceilDiv m.data.length 40)).map (fun i => (m.data.drop (40 * i)).take 40))

/-! ## Channels (R272, R273, R277, R281) -/

def State.bchan (s : State) (ch : Nat) : BarChan := tget {} s.spn.bar.chans ch
def State.modBchan (ch : Nat) (f : BarChan → BarChan) (s : State) : State :=
  { s with spn.bar.chans := tmod {} s.spn.bar.chans ch f }

/-- The cores missing on a channel, lowest first. -/
def State.missing (s : State) (ch : Nat) : List Nat :=
  let arrived := (s.bchan ch).arrived
  s.cores.filter (fun c => s.enabledOn ch c && !s.fenced c && !arrived.contains c)

/-- A channel without any enabled, unfenced core. -/
def State.chanEmpty (s : State) (ch : Nat) : Bool := !s.cores.any (fun c => s.enabledOn ch c && !s.fenced c)

/-- A barrier wait ends: the port shows its status and the generation; the core wakes unless it is FENCED (R286). -/
def endBarWait (core status gen : Nat) (s : State) : State :=
  let s := { s with spn.bar.waits := tdel s.spn.bar.waits core }.modCport core (fun c =>
    { c with barStatus := status, barPending := false, barGen := gen })
  if status = 0x0C then s.modCport core (fun c => { c with early := false }) else wakeCore core s

/-- Cores waiting on a channel for a generation, or for any. -/
def State.barWaiters (s : State) (ch : Nat) (gen : Option Nat) : List Nat :=
  (s.spn.bar.waits.filter (fun e => e.2.chan = ch && gen.all (fun g => e.2.gen = g))).map (·.1)

/-- A barrier or ply record (R291, R329) goes to the ring of SPN_SO_CFG. -/
def barPost (rec_ : Nat → Nat × Bool → Bytes) (s : State) : State :=
  let r := rec_ s.spn.sync.recSeq (s.stampOf .spn s.spnPart)
  { s with spn.sync.recSeq := (s.spn.sync.recSeq + 1) % 2 ^ 32 }.post .spn (bits (s.reg .spn 0x0C00) 0 4) r

/-- A barrier event record (R291). `w` is the waiting core, `n` the missing or cleared count, `first` the lowest missing core. -/
def barRecord (rtype ch gen : Nat) (w : Option Nat) (n : Nat) (first : Option Nat) (far local_ : Bool) (group regDtc : Nat)
    (s : State) : State :=
  barPost (fun seq st =>
    let log := fun (c : Option Nat) => (c.map s.logOf).getD 0xFFFF
    lay [(1, rtype), (1, ch), (2, gen), (2, log w), (2, w.getD 0xFFFF), (2, n), (2, log first), (2, first.getD 0xFFFF),
      (1, bitAt far 0 + bitAt local_ 1), (1, group), (8, st.1), (8, regDtc), (27, 0), (1, bitAt st.2 0), (4, seq)]) s

/-! ## Contributions (R282, R305, R306, R309, R393) -/

/-- Commit number of the step last launched on the die, 0 before the first in its partition. -/
def State.stepC (s : State) : Nat := (s.spn.launch.cur.map (·.c)).getD 0

/-- A seed of the generation that a step uses (R388 to R390): the step last launched on the die, or the generation in force. -/
def State.seedOf (s : State) (i : Nat) : Nat :=
  let gen := (s.spn.launch.cur.map (·.gen)).getD s.spn.det.gen
  tget 0 (tget [] s.spn.det.gens gen) i

/-- Index of the step last launched, or the one that the determinism unit holds (R309). -/
def State.stepIndex (s : State) : Nat := (s.spn.launch.cur.map (·.stepIdx)).getD s.spn.det.stepIdx

/-- Place of a channel's IN area, and of its OUT area. -/
def inBase (ch : Nat) : Nat := 0x800 * ch
def outBase (ch : Nat) : Nat := 0x800 * ch + 0x400

/-- The die's digest group, where SPN_DT_CFG enables one (R402). -/
def State.digGroup (s : State) : Option Nat :=
  let c := s.reg .spn 0x1000
  if c.testBit 14 then some (bits c 8 6) else none

/-- Whether a group is armed as R393 requires. -/
def GCfg.digest (g : GCfg) : Bool :=
  g.valid && g.member && g.op = opModsum && g.fmt = fmtRaw64 && g.outFmt = fmtRaw64 && 1 ≤ g.length && g.length ≤ 64 && g.consumer = 0
    && g.source = 0

/-- Lane j of the digest stream as it stands now (R393). Temperature and supply since launch are the die's, which no command tells:
they come drawn (log entry 37). -/
def digestLane (count temp volt nd : Nat) (s : State) (j : Nat) : Nat :=
  match j with
  | 0 => temp
  | 1 => volt
  | 2 => s.spn.clocks.regions.foldl (fun m (e : Nat × Region) => min m e.2.slackMin) 0xFF
  | 3 => nd
  | _ => if j < count + 4 then tget 0 s.spn.det.slots (j - 4) else 0

/-- DIGEST_COUNT of the step last launched. -/
def State.digestCount (s : State) : Nat := ((s.spn.launch.cur.bind (·.desc)).map (·.digests)).getD 0

/-- The lanes of the digest group's next round enter IN at the snapshot; lane 3 starts counting anew with round 0 (R393). -/
def digestIn (ch : Nat) (g : GCfg) (n : Nat) (s : State) : State :=
  let nd := s.spn.det.ndLane % 2 ^ 64
  let t := if n = 0 then s.draw else (0, s)
  let v := if n = 0 && 2 ≤ g.length || g.length * n = 1 then t.2.draw else (0, t.2)
  let s := v.2
  let ls := (List.range g.length).map (fun i => (8, digestLane s.digestCount (t.1 % 65536) (v.1 % 65536) nd s (g.length * n + i)))
  let s := { s with spn.ply.area := memWr s.spn.ply.area (inBase ch) (lay ls) }
  if n = 0 then { s with spn.det.ndLane := 0 } else s

/-- Sends cells in the plane of the active partition root (R64); nothing leaves in HOLD (R290) or without a partition. -/
def sendPly (cells : List Cell) (s : State) : State :=
  if s.sc.sec.power = 2 || s.spnPart = 0 then s else cells.foldl (fun s c => sendCell .spn (planeNat s.spn.banks.plane) c s) s

/-- The report of a group under a key, before its lanes. -/
def plyReport (tree c n : Nat) (g : GCfg) (s : State) : PlyUp :=
  { part := s.spnPart, pepoch := s.spnPepoch, tree := tree, c := c, n := n, op := g.op, fmt := g.fmt, outFmt := g.outFmt,
    length := g.length, rmode := g.rmode, scaled := g.scaled, empty := false, failed := false, counted := 0, tLast := s.dtc, cause := 0,
    ndtie := 0, seed := if g.rmode = rmSr then s.seedOf g.seedIdx else 0, idx := if g.rmode = rmSr then s.stepIndex else 0, lanes := [],
    rank := g.rank, gap := false, ecc := false }

/-- A FAR channel contributes to its group's round under the key (c, n) (R282, R305, R306). -/
def contributeKey (ch g c n : Nat) (s : State) : State :=
  let cfg := s.gcfg g
  let empty := s.chanEmpty ch
  let s := { s with spn.ply.held := tput s.spn.ply.held g (c, n) }.modBchan ch (fun b => { b with localDone := true })
  let s := if !empty && s.digGroup = some g && cfg.digest then digestIn ch cfg n s else s
  let area := memRd s.spn.ply.area (inBase ch) 0x221
  let void := (rdLe area 0x220 1).testBit 0
  let r := plyReport cfg.tree c n cfg s
  let m :=
    if empty then { r with empty := true }
    else if void then { r with lanes := List.replicate cfg.length (identityLane cfg.op cfg.fmt cfg.scaled) }
    else { r with counted := 1, lanes := dieLanes cfg.op cfg.fmt cfg.length cfg.rank cfg.lseBias cfg.scaled area }
  sendPly (plyUpCells m) s

/-- A contribution to the group's next round in the step last launched. -/
def contribute (ch g : Nat) (s : State) : State := contributeKey ch g s.stepC (tget 0 s.spn.ply.round g) s

/-- A service group's contribution: its lanes as they are (R305). -/
def contributeService (tree c n : Nat) (cfg : GCfg) (lanes : List Nat) (s : State) : State :=
  sendPly (plyUpCells { plyReport tree c n cfg s with counted := 1, lanes := lanes }) s

/-! ## Completion (R277, R282, R288) -/

/-- The channel's generation completes: arrivals clear and its waiters are released. A FAR channel that is EMPTY contributes to
the next round at once. -/
def completeChan (ch : Nat) (s : State) : State :=
  let gen := (s.bchan ch).gen
  let ws := s.barWaiters ch (some gen)
  let s := (s.modBchan ch (fun b => { b with gen := (b.gen + 1) % 65536, arrived := [], localDone := false })).setEv .spn 0x0D08 3
  let s := ws.foldl (fun s w => endBarWait w 0 gen s) s
  match (s.bchan ch).group with
  | some g => if s.chanEmpty ch then contribute ch g s else s
  | none => s

/-- RUNAHEAD_N in fast mode, outside HOLD. -/
def State.runahead (s : State) : Nat :=
  if s.fastMode && s.sc.sec.power ≠ 2 then bits (s.reg .spn 0x0D04) 0 3 else 0

/-- What follows an arrival: a LOCAL channel completes, a FAR one contributes, and in fast mode the waiters of a LOCAL channel
whose missing count falls to RUNAHEAD_N wake early (R277, R282, R288). -/
def checkChan (ch before : Nat) (s : State) : State :=
  let c := s.bchan ch
  let missing := (s.missing ch).length
  match c.group with
  | some g => if missing = 0 && !c.arrived.isEmpty && !c.localDone then contribute ch g s else s
  | none =>
    if missing = 0 && !c.arrived.isEmpty then completeChan ch s
    else if missing ≤ s.runahead && s.runahead < before then
      (s.barWaiters ch none).foldl (fun s w => ungateEarly w s) s
    else (s.barWaiters ch none).foldl (fun s w => sleepAgain w s) s

/-! ## Core operations (R274 to R276) -/

/-- The port shows a status and the current generation. -/
def barDone (core ch status : Nat) (s : State) : State :=
  s.modCport core (fun c => { c with barStatus := status, barGen := (s.bchan ch).gen })

/-- Registers a barrier wait for a generation; the core sleeps. -/
def registerBar (core ch gen timeout : Nat) (s : State) : State :=
  let w : BarWait := { chan := ch, gen := gen, expiry := s.sc.time.tick + timeoutNs timeout, regDtc := (s.stampOf .spn s.spnPart).1 }
  { s with spn.bar.waits := tput s.spn.bar.waits core w }.modCport core (fun c =>
    { c with barPending := true, awake := false, early := false })

/-- Marks an arrival. -/
def arrive (core ch : Nat) (s : State) : State :=
  let gen := (s.bchan ch).gen
  { s with spn.bar.lastArr := tset 0 s.spn.bar.lastArr (core * 8 + ch) (gen + 1) }.modBchan ch (fun b =>
    { b with arrived := b.arrived ++ [core] })

/-- What R273 and R276 refuse before the operation itself: FENCED, a reserved OP or reserved bits, NOT_ENABLED. -/
def barRefused (core ch w : Nat) (s : State) : Option Nat :=
  if s.fenced core then some 0x0C
  else if bits w 3 2 = 3 || bits w 5 11 ≠ 0 then some 0x08
  else if !s.enabledOn ch core then some 0x0F
  else none

/-- A BAR_OP write, whose OP is 0 ARRIVE, 1 ARRIVE_WAIT or 2 WAIT (R274, R275). -/
def barOp (core w : Nat) (s : State) : State :=
  let ch := bits w 0 3
  let op := bits w 3 2
  let timeout := bits w 16 16
  let test := timeout % 4096 = 0
  let b := s.bchan ch
  let before := (s.missing ch).length
  if !s.corePresent core then s
  else match barRefused core ch w s with
    | some st => barDone core ch st s
    | none =>
      if op = 2 then
        let last := tget 0 s.spn.bar.lastArr (core * 8 + ch)
        if last = 0 then barDone core ch 0x08 s
        else if s.coreWaits core then barDone core ch 0x0A s
        else if last - 1 ≠ b.gen then s.modCport core (fun c => { c with barStatus := 0, barGen := last - 1 })
        else if test then barDone core ch 0x02 s
        else registerBar core ch b.gen timeout s
      else if b.arrived.contains core || (op = 1 && s.coreWaits core) then barDone core ch 0x0A s
      else
        let s := arrive core ch s
        if op = 0 then checkChan ch before (barDone core ch 0x01 s)
        else if test then
          let s := checkChan ch before s
          if (s.bchan ch).gen ≠ b.gen then s.modCport core (fun c => { c with barStatus := 0, barGen := b.gen }) else barDone core ch 0x02 s
        else checkChan ch before (registerBar core ch b.gen timeout s)

def execBarArrive (core : Nat) (w : Word) (s : State) : Out := run (core < 2048) (barOp core w.toNat) s
def execBarArriveWait (core : Nat) (w : Word) (s : State) : Out := run (core < 2048) (barOp core w.toNat) s
def execBarWait (core : Nat) (w : Word) (s : State) : Out := run (core < 2048) (barOp core w.toNat) s

/-- A barrier wait expires (R280). -/
def barExpire (core : Nat) (s : State) : State :=
  match tfind s.spn.bar.waits core with
  | none => s
  | some w =>
    if s.sc.time.tick < w.expiry then s
    else
      let c := s.bchan w.chan
      let miss := s.missing w.chan
      let s := (endBarWait core 0x03 c.gen s).setEv .spn 0x0D08 0
      let first := (miss.head?.map s.logOf).getD 0xFFFF
      let s := s.raise .spn 0x1606 s.spnPart [w.chan, c.gen, s.logOf core, miss.length, first]
      barRecord 0x20 w.chan c.gen (some core) miss.length miss.head? c.group.isSome (c.group.isSome && c.localDone) c.bound w.regDtc s

def execBarrierWaitExpiry (core : Nat) (s : State) : Out := run (core < 2048) (barExpire core) s

/-! ## Releases (R282, R306, R328, R329) -/

/-- A ply event record (R329). -/
def plyRecord (rtype ch : Nat) (m : PlyDown) (bound : Nat) (s : State) : State :=
  barPost (fun seq st =>
    lay [(1, rtype), (1, ch), (1, m.tree), (1, bits m.flags 8 8), (4, m.c), (2, m.n), (2, m.flags), (4, m.counted), (8, m.tLast),
      (8, s.dtc), (4, bound), (23, 0), (1, bitAt st.2 0), (4, seq)]) s

/-- The step with a commit number is failed with a cause, once (R521). -/
def failStepC (c cause : Nat) (s : State) : State :=
  { s with
      spn.launch.past := s.spn.launch.past.map (fun u =>
      if u.c = c && !u.voted then { u with causes := (u.causes ++ [cause]).eraseDups } else u) }

/-- The release's OUT area: header, and lanes unless the round failed (R306, R323). -/
def writeOut (ch : Nat) (m : PlyDown) (cfg : GCfg) (s : State) : State :=
  let head := lay [(2, m.n), (2, m.flags), (4, m.counted), (4, m.c), (4, 0), (8, m.nanMask), (8, m.ovfMask)]
  let data := if m.flags.testBit 4 || cfg.length = 0 then [] else m.data.take 0x3E0
  { s with spn.ply.area := memWr s.spn.ply.area (outBase ch) (head ++ data) }

/-- What a release reports: failure, NaN, overflow, lateness (R306, R328, R330). -/
def releaseEvents (ch : Nat) (m : PlyDown) (cfg : GCfg) (s : State) : State :=
  let s := if m.flags.testBit 1 then s.setEv .spn 0x0F00 2 else s
  let s := if m.flags.testBit 2 then s.setEv .spn 0x0F00 3 else s
  let s := if m.flags.testBit 4 then
      let s := failStepC m.c 1 ((s.bump .spn 0x0F08 1).setEv .spn 0x0F00 1)
      plyRecord 0x24 ch m cfg.bound (s.raise .spn 0x1701 s.spnPart [m.tree, m.c, m.n, bits m.flags 8 8])
    else s
  if m.tLast + cfg.bound < s.dtc then
    let s := (s.bump .spn 0x0F04 1).setEv .spn 0x0F00 0
    plyRecord 0x23 ch m cfg.bound (s.raise .spn 0x1702 s.spnPart [m.tree, m.c, m.n, m.tLast, s.dtc])
  else s

/-- The group's release at the die: OUT is written, then the bound channel completes. A release for a round that the die does not
hold is counted and discarded. -/
def plyRelease (m : PlyDown) (s : State) : State :=
  let g := m.tree
  let cfg := s.gcfg g
  let ch := (s.spn.bar.chans.find? (fun (e : Nat × BarChan) => e.2.group = some g)).map (·.1)
  if !(m.part = s.spnPart && m.pepoch = s.spnPepoch && s.spnPart ≠ 0) then
    s.portCount .spn (planeNat s.spn.banks.plane) 0x28 (plyDownCells m).length
  else match ch with
    | none => s.bump .spn 0x0D14 1
    | some ch =>
      if tfind s.spn.ply.held g ≠ some (m.c, m.n) then s.bump .spn 0x0D14 1
      else
        let s := writeOut ch m cfg { s with
          spn.ply.held := tdel s.spn.ply.held g, spn.ply.round := tset 0 s.spn.ply.round g ((m.n + 1) % 65536) }
        let s := { s with spn.ply.digRounds := s.spn.ply.digRounds + (if s.digGroup = some g then 1 else 0) }
        let s := ndAdd 1 m.ndtie (s.setReg .spn 0x0F0C (m.n + 2 ^ 16 * g))
        completeChan ch (releaseEvents ch m cfg s)

def execPlyRelease (m : PlyDown) (s : State) : Out := run true (plyRelease m) s

/-! ## Channels at a doff (R281, R285, R306) -/

/-- Residue: a channel that holds arrivals at D is cleared, its waits end, and the step just ended fails (R285). -/
def clearArrivals (ch : Nat) (s : State) : State :=
  let c := s.bchan ch
  if c.arrived.isEmpty then s
  else
    let gen := (c.gen + 1) % 65536
    let s := s.modBchan ch (fun b => { b with gen := gen, arrived := [], localDone := false })
    let s := (s.barWaiters ch none).foldl (fun s w => endBarWait w (if s.fenced w then 0x0C else 0x10) gen s) s
    let s := (failEnded 4 (s.setEv .spn 0x0D08 1)).raise .spn 0x1607 s.spnPart [ch, c.arrived.length]
    barRecord 0x21 ch gen none c.arrived.length none c.group.isSome false c.bound 0 s

/-- The same at a doff, where LOCAL_DONE clears on every channel (R285). -/
def clearResidue (ch : Nat) (s : State) : State :=
  (clearArrivals ch s).modBchan ch (fun b => { b with localDone := false })

/-- Binding anew: the lowest group that names a channel binds it; every other is reported (R281). -/
def bindChan (ch : Nat) (s : State) : State :=
  match s.binders ch with
  | [] => s.modBchan ch (fun b => { b with group := none })
  | g :: rest =>
    rest.foldl (fun s x =>
      let s := (s.setEv .spn 0x0D08 2).raise .spn 0x1608 s.spnPart [ch, g, x]
      barRecord 0x22 ch (s.bchan ch).gen none 0 none true false x 0 s) (s.modBchan ch (fun b => { b with group := some g }))

/-- The channels' part of a doff, after the bank swap; `c` is the new step's commit number. -/
def barDoff (c : Nat) (s : State) : State :=
  let s := (List.range 8).foldl (fun s ch => clearResidue ch s) s
  let s := { s with spn.bar.lastArr := [], spn.ply.held := [] }
  let s := (List.range 8).foldl (fun s ch => bindChan ch s) s
  (List.range 8).foldl (fun s ch =>
    match (s.bchan ch).group with
    | some g => if s.chanEmpty ch then contributeKey ch g c 0 s else s
    | none => s) s

end Sys2Proof.Machine
end

