-- ==== Sys2Proof/Machine/Clocks.lean ====
section
/-! DEFINITION. The region clock governor: stretches, the stretch allowance and ledger, stalls, breaches, frequency changes and the
margin ceiling (R216 to R226, R237), and the cells that a member sends its partition root. -/

namespace Sys2Proof.Machine

/-! ## Cells to the partition root (R187, R368) -/

/-- A TREE = 0 cell from the die to the active root of its partition, in the root's plane. -/
def toRoot (typ : Nat) (body : Bytes) (s : State) : State :=
  if s.serves.1 = 0 then s
  else sendCell .spn (planeNat s.spn.banks.plane) { ctlCell typ s.serves.1 s.serves.2 body with dst := s.spn.launch.rootHea } s

/-- Tree ID of a partition's launch tree (R300). -/
def launchTree : Nat := 0x40

/-- A cell up the launch tree, in the root's plane. -/
def upLaunchTree (typ : Nat) (body : Bytes) (s : State) : State :=
  if s.serves.1 = 0 then s
  else sendCell .spn (planeNat s.spn.banks.plane)
    { ctlCell typ s.serves.1 s.serves.2 body with tree := true, up := true, dst := launchTree } s

/-- A STRAGGLER cell: launch, reason, cluster or region (R368). -/
def sendStraggler (l reason unit : Nat) (s : State) : State := toRoot 0x08 (lay [(8, l), (1, reason), (1, unit)]) s

/-- Launch count of the step last launched; 0 before the first. -/
def State.curL (s : State) : Nat := (s.spn.launch.cur.map (·.l)).getD 0

/-! ## Steps and settings (R216, R217) -/

/-- The effective step of a bank image. -/
def effOf (m : Mem) : Nat := min (bankNat m bankFstep 1 % 16) (bankNat m bankFceil 1 % 16)
def State.eff (s : State) : Nat := effOf s.spn.banks.active
/-- Frequency of a step in MHz. -/
def State.mhz (s : State) (k : Nat) : Nat := bits (s.reg .spn (0x0A40 + 4 * k)) 0 12
def State.stretchThr (s : State) : Nat := bits (s.reg .spn 0x0A08) 0 8
def State.warnThr (s : State) : Nat := bits (s.reg .spn 0x0A08) 8 8
def State.warnLimit (s : State) : Nat := bits (s.reg .spn 0x0A08) 16 16

/-- The frequency table with step `k` at `mhz` (R216). -/
def State.ftabWith (k mhz : Nat) (s : State) : List Nat := (List.range 16).map (fun i => if i = k then mhz else s.mhz i)

def State.region (s : State) (c : Nat) : Region := tget {} s.spn.clocks.regions c
def State.modRegion (c : Nat) (f : Region → Region) (s : State) : State :=
  { s with spn.clocks.regions := tmod {} s.spn.clocks.regions c f }

/-- A region whose clock runs at the effective step; a trip stops every one (R422). -/
def State.regionRuns (s : State) (c : Nat) : Bool :=
  (s.region c).present && !(s.region c).gated && !(s.region c).stopped && !s.spn.wh.tripped

/-- A region in the cycles of a launched step (R219). -/
def State.inStep (s : State) (c : Nat) : Bool := s.regionRuns c && (s.cluster c).running

/-! ## Breaches (R224, R235) -/

/-- `MARGIN_BREACH`: kind 1 EXCESS, 2 STALL_EMPTY, 3 STALL_FULL, with both regions; `c` is the stretched region. -/
def marginBreach (c kind a b : Nat) (s : State) : State :=
  let dtc := s.dtc
  let s := (s.bump .spn 0x0A1C 1).setEv .spn 0x0A04 0
  let s := if (s.reg .spn 0x0A10).testBit 31 then s
    else ((s.setReg .spn 0x0A10 (a + 2 ^ 8 * b + 2 ^ 16 * kind + 2 ^ 31)).setReg .spn 0x0A14 (dtc % 2 ^ 32)).setReg .spn 0x0A18 (dtc / 2 ^ 32)
  let s := s.modRegion c (fun r => { r with breached := true })
  (failStepC s.stepC 2 s).raise .spn 0x1501 s.spnPart [kind, a, b, dtc]

/-! ## Stretches and crossings (R218 to R223) -/

/-- The stretch debt W at the start of a region's cycle `n` of the step: one unit less for each unstretched cycle since the last cycle
that was stretched (R219). -/
def State.debtAt (s : State) (c n : Nat) : Nat := (s.region c).debt - (n - 1 - (s.region c).cyc)

/-- Eighths of a period by which a slack below STRETCH_THR lengthens the next cycle (R218). -/
def State.eighthsFor (s : State) (slack : Nat) : Nat :=
  min 8 (max 1 (ceilDiv ((s.stretchThr - slack) * 32 * s.mhz s.eff) 1_000_000))

/-- Cycle `n` of a launched step is stretched by `k` eighths: the debt, the ledger, and a breach of `kind` where the allowance does not
cover it. The flag of an excess stretch comes back. A cycle that is stretched already is only lengthened further. -/
def stretch (c n k : Nat) (s : State) : State × Bool :=
  let longer := fun (by_ : Nat) (s : State) => s.modCluster c (fun x => { x with s := min (x.s + by_) (2 ^ 32 - 1), eighths := x.eighths + k })
  if n ≤ (s.region c).cyc then (longer 0 s, false)
  else
    let w := s.debtAt c n
    let ovr := decide (33 < w)
    (longer 1 (s.modRegion c (fun r => { r with debt := w + 31, cyc := n, excess := r.excess + (if ovr then 1 else 0) })), ovr)

/-- Entries in a crossing queue. -/
def State.queued (s : State) (writer reader : Nat) : Nat := tget 0 s.spn.clocks.queues (32 * writer + reader)
def setQueued (writer reader n : Nat) (s : State) : State :=
  { s with spn.clocks.queues := tset 0 s.spn.clocks.queues (32 * writer + reader) n }

/-- A crossing lies between two regions of the die that are present and not disabled (R212). -/
def State.crossing (s : State) (writer reader : Nat) : Bool := writer ≠ reader && (s.region writer).present && (s.region reader).present

/-- A push of an entry into a queue of 16, and a pop of one from it (R221). -/
def pushEntry (writer reader : Nat) (s : State) : State :=
  if s.crossing writer reader then setQueued writer reader (min 16 (s.queued writer reader + 1)) s else s
def popEntry (writer reader : Nat) (s : State) : State :=
  if s.crossing writer reader then setQueued writer reader (s.queued writer reader - 1) s else s

/-- The region that an EXCESS breach names beside the stretching one: the lowest with an entry in flight on a crossing shared with it, 0xFF
for none (R224). -/
def neighbourOf (c : Nat) (s : State) : Nat :=
  ((List.range 32).find? (fun d => s.queued c d ≠ 0 || s.queued d c ≠ 0)).getD 0xFF

/-- Cycle `cyc` of a region since its launch, whose least slack is `slack` taps and in which it pushes to some regions and pops from some:
the least slack and warnings of the step, and a stretch of the next cycle (R218, R221). -/
def regionStretch (c cyc slack : Nat) (pushes pops : List Nat) (s : State) : State :=
  if !s.inStep c then s
  else
    let warn := if slack < s.warnThr then 1 else 0
    let s := s.modRegion c (fun r => { r with slackMin := min r.slackMin slack, warns := r.warns + warn })
    let s := pops.foldl (fun s w => popEntry w c s) (pushes.foldl (fun s r => pushEntry c r s) s)
    if s.stretchThr ≤ slack then s
    else match stretch c (cyc + 1) (s.eighthsFor slack) s with
      | (s, false) => s
      | (s, true) => marginBreach c 1 c (neighbourOf c s) s

def execRegionStretch (c : Nat) (r : RegionCycle) (s : State) : Out :=
  run (c < 32 && r.pushes.all (· < 32) && r.pops.all (· < 32)) (regionStretch c r.cyc r.slack r.pushes r.pops) s

/-- A pop on an empty or a push on a full crossing queue stalls its region's cycle `cyc` until the entry is usable or one frees, `eighths` of
a period on; then the pop or push takes place (R221). -/
def queueStall (writer reader : Nat) (full : Bool) (cyc eighths : Nat) (s : State) : State :=
  let c := if full then writer else reader
  if !s.inStep c || !s.crossing writer reader then s
  else
    let x := stretch c cyc eighths s
    let s := if full then pushEntry writer reader x.1 else popEntry writer reader x.1
    if x.2 then marginBreach c (if full then 3 else 2) writer reader s else s

def execCrossingQueueStall (writer reader : Nat) (q : QueueStall) (s : State) : Out :=
  run (writer < 32 && reader < 32) (queueStall writer reader q.full q.cyc q.eighths) s

/-! ## The governor at a doff (R223, R225, R226, R237) -/

/-- Entries left in crossing queues at D are discarded, named and fail the step just ended. -/
def crossingResidue (s : State) : State :=
  s.spn.clocks.queues.foldl (fun s e =>
    (failEnded 3 (s.setEv .spn 0x0A04 1)).raise .spn 0x1502 s.spnPart [e.1 / 32, e.1 % 32, e.2]) { s with spn.clocks.queues := [] }

/-- Regions whose clusters run no step are gated: between steps (R217, R284). -/
def gateIdle (s : State) : State :=
  { s with spn.clocks.regions := s.spn.clocks.regions.map (fun (e : Nat × Region) =>
      if e.2.present && !(s.cluster e.1).running then (e.1, { e.2 with gated := true }) else e) }

/-- At the launch every present region has its clock, those of clusters without a program too (R217). -/
def ungateAll (s : State) : State :=
  { s with spn.clocks.regions := s.spn.clocks.regions.map (fun (e : Nat × Region) =>
      if e.2.present then (e.1, { e.2 with gated := false }) else e) }

/-- The margin ceiling after the step that ran at effective step `eff`. `l` is the launch at this doff, which a STRAGGLER names. -/
def marginDoff (eff l : Nat) (s : State) : State :=
  let limit := s.warnLimit
  let bad := s.spn.clocks.regions.filter (fun e => limit < e.2.warns || e.2.breached)
  let old := s.spn.clocks.mceil
  match bad with
  | [] =>
    let n := s.spn.clocks.clean + 1
    if n < 4096 then { s with spn.clocks.clean := n }
    else
      let s := { s with spn.clocks.clean := 0, spn.clocks.mceil := min 15 (old + 1) }
      if old < 15 then s.setEv .spn 0x0A04 3 else s
  | e :: _ =>
    let s := { s with spn.clocks.clean := 0, spn.clocks.mceil := min old (eff - 1) }
    let s := if eff - 1 < old then s.setEv .spn 0x0A04 2 else s
    if eff = 0 then sendStraggler l 2 e.1 ((s.setEv .spn 0x0A04 6).raise .spn 0x1504 s.spnPart [e.1]) else s

/-- Regions whose frequency changes are stopped, and the change requested, at a doff that sets the effective step. -/
def freqDoff (new : Nat) (s : State) : State :=
  let moved := s.spn.clocks.regions.filter (fun e => e.2.present && e.2.fsel ≠ new)
  let s := { s with spn.clocks.doffAt := some s.sc.time.tick }
  if moved.isEmpty then s
  else moved.foldl (fun s e => s.modRegion e.1 (fun r => { r with fsel := new, stopped := true })) (s.setEv .spn 0x0A04 4)

/-- SPN_RC_REGn take the step just ended; the next step's figures start anew. -/
def latchRegions (s : State) : State :=
  s.spn.clocks.regions.foldl (fun s e => s.modRegion e.1 (fun r => { r with
    regSlack := r.slackMin, regWarns := min r.warns 255, regExcess := min r.excess 255, slackMin := 0xFF, warns := 0, excess := 0,
    breached := false })) s

/-- The generator of a region confirms: the region is clocked again. -/
def settleConfirm (c : Nat) (s : State) : State :=
  if (s.region c).stopped then
    { s with spn.clocks.settleFail := s.spn.clocks.settleFail.filter (· ≠ c) }.modRegion c (fun r => { r with stopped := false })
  else s

def execFreqSettleConfirm (c : Nat) (s : State) : Out := run (c < 32) (settleConfirm c) s

/-- 190 ns after D without a confirmation. -/
def settleTimeout (c : Nat) (s : State) : State :=
  if (s.region c).stopped && s.spn.clocks.doffAt.any (fun t => t + 190 ≤ s.sc.time.tick) && !s.spn.clocks.settleFail.contains c then
    let l := ((s.spn.launch.next_.map (·.l)).getD s.curL)
    let s := { s with spn.clocks.settleFail := s.spn.clocks.settleFail ++ [c] }.setEv .spn 0x0A04 5
    sendStraggler l 3 c (s.raise .spn 0x1503 s.spnPart [c])
  else s

def execClockSettleTimeout (c : Nat) (s : State) : Out := run (c < 32) (settleTimeout c) s

end Sys2Proof.Machine
end

