-- ==== Sys2Proof/Machine/Sampler.lean ====
section
/-! DEFINITION. The sampler of a partition root: bindings, slot records, the choice of a token, thinking and stops, and the
log-probability (R332 to R346). -/

namespace Sys2Proof.Machine

/-! ## The partition as its root holds it -/

def State.proot (s : State) (part : Nat) : Option PRoot := tfind s.crl.parts part
def State.modRoot (part : Nat) (f : PRoot → PRoot) (s : State) : State :=
  match tfind s.crl.parts part with
  | some r => { s with crl.parts := tput s.crl.parts part (f r) }
  | none => s

/-- The partition bank also holds the root's copy of what all members' banks hold alike: bank offset o lies here at this base
plus o. -/
def commonBase : Nat := 0x100_0000
/-- SLOT_MAP of a slot in a partition bank image: its request, where the entry is valid. -/
def slotMapOf (bank : Mem) (slot : Nat) : Option Nat :=
  let w := bankNat bank (commonBase + bankSlotMap + 4 * slot) 4
  if w.testBit 31 then some (bits w 0 19) else none

/-! ## Bindings and slot records (R332, R335) -/

/-- A sampler binding. -/
structure Binding where
  valid : Bool
  topk  : Nat
  lse   : Nat
  base  : Nat
  count : Nat
deriving DecidableEq, Repr

def bindingOf (b : Bytes) : Binding :=
  { valid := (rdLe b 0 1).testBit 0, topk := rdLe b 1 1, lse := rdLe b 2 1, base := rdLe b 4 2, count := rdLe b 6 2 }
def Binding.bytes (b : Binding) : Bytes :=
  lay [(1, bitAt b.valid 0), (1, b.topk), (1, b.lse), (1, 0), (2, b.base), (2, b.count), (8, 0)]
/-- The eight bindings of a partition bank. -/
def bindings (bank : Mem) : List Binding := (List.range 8).map (fun i => bindingOf (memRd bank (0x10 * i) 16))

/-- A slot record of 256 bytes. -/
structure SlotRec where
  req     : Nat
  topK    : Nat
  hank    : Bool
  thinkStart : Bool
  seed    : Nat
  tscale  : Nat
  topP    : Nat
  maxNew  : Nat
  budget  : Nat
  endThink : Nat
  stops   : List Nat
  seqs    : List (List Nat)
  hankBase : Nat
  hankSize : Nat
deriving DecidableEq, Repr

def slotRecOf (b : Bytes) : SlotRec :=
  { req := rdLe b 0 4, topK := rdLe b 4 1, hank := (rdLe b 5 1).testBit 0, thinkStart := (rdLe b 5 1).testBit 1, seed := rdLe b 8 8,
    tscale := rdLe b 16 4, topP := rdLe b 20 4, maxNew := rdLe b 24 4, budget := rdLe b 28 4, endThink := rdLe b 32 4,
    stops := ((List.range 8).map (fun i => rdLe b (40 + 4 * i) 4)).filter (· ≠ noRank)
    seqs := ((List.range 4).map (fun q => (List.range (rdLe b (36 + q) 1 % 16)).map (fun i => rdLe b (72 + 32 * q + 4 * i) 4))).filter
      (fun l => !l.isEmpty)
    hankBase := rdLe b 200 8, hankSize := rdLe b 208 4 }

def slotRecBase (slot : Nat) : Nat := 0x0001_0000 + 0x100 * slot
def bankSlot (bank : Mem) (slot : Nat) : SlotRec := slotRecOf (memRd bank (slotRecBase slot) 256)

/-! ## Slot state (R336) -/

/-- The step of a commit number that runs and counts. -/
def PRoot.stepOf (r : PRoot) (c : Nat) : Option RStep := r.launch.run.find? (fun x => x.c = c && !x.ignore)

/-- A slot's state as the steps launched so far leave it: the last one that advanced it, or the committed state. -/
def PRoot.slotNow (r : PRoot) (slot : Nat) : SlotState2 :=
  ((r.launch.run.reverse.findSome? (fun x => if x.ignore then none else tfind x.slots slot))).getD (tget {} r.slots slot)

/-! ## The choice (R339) -/

/-- Squares a number `n` times. -/
def squares : Nat → Nat → Nat
  | 0, x => x
  | n + 1, x => squares n (x * x)

/-- The integer nearest to 2^(32 - f / 65,536): the greatest k with (2k - 1)^65536 ≤ 2^(33 · 65536 - f), bit by bit. -/
def e2 (f : Nat) : Nat :=
  (List.range 33).foldl (fun k i =>
    let k' := k + 2 ^ (32 - i)
    if squares 16 (2 * k' - 1) ≤ 2 ^ (33 * 65536 - f) then k' else k) 0

/-- v[0] - v[i] as z of R339. -/
def zOf (tscale : Nat) (v0 v : Num) : Nat :=
  let val := fun (neg : Bool) (m : Nat) => if neg then -(m : Int) else (m : Int)
  match v0, v with
  | .fin n0 m0, .fin n1 m1 => min ((val n0 m0 - val n1 m1).toNat * tscale / 2 ^ 160) (2 ^ 32 - 1)
  | .inf a, .inf b => if a = b then 0 else 2 ^ 32 - 1
  | _, _ => 2 ^ 32 - 1

def weight (z : Nat) : Nat := e2 (z % 65536) / 2 ^ (z / 65536)

/-- Weights of candidates in order of value, each value's weight computed once. -/
def weights (tscale : Nat) (v0 : Num) : List Num → List Nat
  | [] => []
  | v :: vs => weight (zOf tscale v0 v) :: weights tscale v0 vs

/-- How many candidates top-p keeps: the running sum first reaches it. The sum and the number kept come back. -/
def topPCut (thr : Nat) : List Nat → Nat → Nat → Nat × Nat
  | [], acc, j => (acc, j)
  | w :: ws, acc, j => if acc * 65536 < thr then topPCut thr ws (acc + w) (j + 1) else (acc, j)

/-- The least index whose running sum exceeds r. -/
def firstAbove (r : Nat) : List Nat → Nat → Nat → Nat
  | [], _, i => i
  | w :: ws, acc, i => if r < acc + w then i else firstAbove r ws (acc + w) (i + 1)

/-- The index chosen among candidates' values, best first, with the draw `u`. -/
def chooseIdx (tscale topP u : Nat) (vs : List Num) : Nat :=
  let ws := weights tscale (vs.headD (.fin false 0)) vs
  let cut := topPCut (topP * ws.sum) ws.tail (ws.headD 0) 0
  firstAbove (u * cut.1 / 2 ^ 64) ws 0 0

/-! ## A TOPK round (R334, R340, R342, R343) -/

/-- What a sampler round gives: token, flags, stop reason, c, and the slot. -/
structure Pick where
  token  : Nat
  slot   : Nat
  flags  : Nat
  reason : Nat := 0
  c      : Nat := 0xFF
  val    : Option Nat := none
  after  : Option SlotState2 := none
deriving DecidableEq, Repr

/-- OUT bytes 0x020 to 0x02F. -/
def Pick.bytes (p : Pick) : Bytes := lay [(4, p.token), (2, p.slot), (1, p.flags), (1, p.reason), (1, p.c), (7, 0)]

/-- Steps 2 to 6 of R342 on a slot's record and state with a combined list; none where it has no candidate. -/
def pickToken (fmt : Nat) (cands : List Nat) (slot : Nat) (x : SlotRec) (st : SlotState2) : Option Pick :=
  let live := cands.filter (fun l => candClass fmt l = 2)
  let k := cands.length
  let m := min (if x.topK = 0 then k else min x.topK k) live.length
  let nan := cands.any (fun l => candClass fmt l = 1)
  let forced := st.think && x.budget ≤ st.thinkCount
  let chosen : Option (Nat × Nat) :=
    if forced then some (x.endThink, 0xFF)
    else if m = 0 then none
    else if x.tscale = 0 then some (candToken (live.headD 0), 0xFF)
    else
      let u := bobbinWord x.seed x.req st.t 0
      let c := chooseIdx x.tscale x.topP u ((live.take m).map (fun l => numOf fmt 127 (laneVal l)))
      some (candToken (live.getD c 0), c)
  match chosen with
  | none => none
  | some (tok, c) =>
    let ends := st.think && tok = x.endThink
    let hist := st.hist ++ [tok]
    let st' : SlotState2 := { t := st.t + 1, think := st.think && !ends, thinkCount := st.thinkCount + (if st.think && !ends then 1 else 0),
                              hist := hist.drop (hist.length - 7), done := false, lastTok := tok }
    let reason :=
      if x.stops.contains tok then 1
      else if x.seqs.any (fun q => q.length ≤ hist.length && hist.drop (hist.length - q.length) = q) then 2
      else if st'.t = x.maxNew then 3 else 0
    some { token := tok, slot := slot, reason := reason, c := c,
           flags := bitAt (reason ≠ 0) 0 + bitAt forced 1 + bitAt (st.think && !ends) 2 + bitAt ends 3 + bitAt nan 5 + bitAt (x.tscale = 0) 7
           val := (live.find? (fun l => candToken l = tok)).map laneVal, after := some { st' with done := reason ≠ 0 } }

/-- What a pick counts and signals (R350). -/
def pickEvents (p : Pick) (s : State) : State :=
  let s := if p.flags.testBit 1 then (s.bump .crl 0x410C 1).setEv .crl 0x4100 3
    else if p.after.isSome then s.bump .crl 0x4104 1 else s
  if p.reason ≠ 0 then s.bump .crl 0x4108 1 else s

/-- Files a pick with the step of its commit number. -/
def fileTok (part c fmt : Nat) (bias : Option Nat) (pos : Nat) (p : Pick) (s : State) : State :=
  let t : Tok := { slot := p.slot, token := p.token, flags := p.flags, reason := p.reason, pos := pos,
                   val := p.val.map (fun v => (fmt, v)), bias := bias }
  s.modRoot part (fun r => { r with
    launch.run := r.launch.run.map (fun x =>
      if x.c = c && !x.ignore then
        { x with toks := x.toks ++ [t], slots := match p.after with
                                                 | some st => tput x.slots p.slot st
                                                 | none => x.slots }
      else x) })

/-- The sampler's work on a TOPK round: the OUT bytes from 0x020 on before the list, or the fail cause. -/
def sampleTopk (part g c n fmt : Nat) (cands : List Nat) (s : State) : State × Except Nat Bytes :=
  match s.proot part with
  | none => (s, .error 4)
  | some r =>
    let bank := match r.stepOf c with
      | some x => x.image
      | none => r.bank
    match (bindings bank).find? (fun b => b.valid && b.topk = g) with
    | none => (s.setEv .crl 0x4100 1, .error 4)
    | some b =>
      if b.count ≤ n then (s.setEv .crl 0x4100 1, .error 4)
      else
        let slot := b.base + n
        let st := r.slotNow slot
        let bias := if b.lse = 0xFF then none else (tfind r.groups b.lse).map (·.bias)
        if (slotMapOf bank slot).isNone || st.done then
          let p : Pick := { token := noRank, slot := slot, flags := 0x40 }
          (if (slotMapOf bank slot).isSome then fileTok part c fmt bias st.t p s else s, .ok p.bytes)
        else match pickToken fmt cands slot (bankSlot bank slot) st with
          | none => ((s.setEv .crl 0x4100 0).raise .crl 0x1705 part [part, slot, c, n], .error 5)
          | some p => (fileTok part c fmt bias st.t p (pickEvents p s), .ok p.bytes)

/-- An LSE round's lanes belong to slots of its binding (R334); the fail cause where no valid binding names the group. -/
def sampleLse (part g c m : Nat) (lanes : List Nat) (s : State) : State × Option Nat :=
  match s.proot part with
  | none => (s, some 4)
  | some r =>
    let bank := match r.stepOf c with
      | some x => x.image
      | none => r.bank
    match (bindings bank).find? (fun b => b.valid && b.lse = g) with
    | none => (s.setEv .crl 0x4100 1, some 4)
    | some b =>
      let mine := (lanes.zipIdx.map (fun e => (64 * m + e.2, e.1))).filter (fun e => e.1 < b.count)
      (s.modRoot part (fun r => { r with
        launch.run := r.launch.run.map (fun x =>
          if x.c = c && !x.ignore then { x with lse := mine.foldl (fun t e => tput t (b.base + e.1) e.2) x.lse } else x) }), none)

/-! ## The log-probability (R346) -/

/-- 2^`p` · 2 · atanh(num / den) for 0 ≤ num / den ≤ 1 / 3, from below by less than `n` + 2 units: `n` terms of its series. -/
def atanhSeries (p num den : Nat) : Nat → Nat → Nat → Nat → Nat
  | 0, _, _, acc => acc
  | n + 1, i, t, acc => atanhSeries p num den n (i + 2) (t * num * num / (den * den)) (acc + 2 * t / i)
def lnLow (p num den : Nat) : Nat := atanhSeries p num den (p / 3 + 8) 1 (num * 2 ^ p / den) 0

/-- Floor of 2^152 · (v - b - E ln 2 - ln S) for v, b in units of 2^-152, S = m / 2^23, not both E = 0 and S = 1; none where the
bracket of `p` bits does not decide it. -/
def logFloor (p : Nat) (vb e : Int) (m : Nat) : Option Int :=
  let l2 : Int := lnLow p 1 3
  let ls : Int := lnLow p (m - 2 ^ 23) (m + 2 ^ 23)
  let err : Int := (e.natAbs + 2) * (4 * p + 64)
  let x : Int := vb * 2 ^ (p - 152) - e * l2 - ls
  let lo := (x - err) / 2 ^ (p - 152)
  let hi := (x + err) / 2 ^ (p - 152)
  if lo = hi then some lo else none

/-- v - (b + E ln 2 + ln S) rounded by RNE to FP32, for finite v. Where the logarithm is not 0 it is irrational, so a wide enough
bracket decides; a floor that stands on a multiple of 4 units is moved off it, since the value lies above. -/
def logProbBits (vb e : Int) (m : Nat) : Nat :=
  if e = 0 && m = 2 ^ 23 then (if vb = 0 then 0 else (roundFlt 0 0 0 vb).raw)
  else
    let x := (([256, 512, 1024, 2048].findSome? (fun p => logFloor p vb e m))).getD 0
    let x := if x % 4 = 0 then x + 1 else x
    (roundFlt 0 0 0 x).raw

/-- A token's logprob and whether it is valid. `lane` is the slot's LSE lane. -/
def logProb (t : Tok) (lane : Option Nat) : Nat × Bool :=
  match t.val, t.bias, lane with
  | some (fmt, raw), some bias, some l =>
    let sb := l % 2 ^ 32
    match numOf 0 127 sb, numOf 0 127 bias, numOf fmt 127 raw with
    | .fin _ sm, .fin bn bm, v =>
      if sm = 0 then (0x7FC0_0000, false)
      else
        let b : Int := if bn then -(bm : Int) else bm
        match v with
        | .fin vn vm => (logProbBits ((if vn then -(vm : Int) else vm) - b) (toSigned 32 (l / 2 ^ 32)) (sm / 2 ^ 129), true)
        | .inf neg => (if neg then 0xFF80_0000 else 0x7F80_0000, true)
        | .nan => (0x7FC0_0000, false)
    | _, _, _ => (0x7FC0_0000, false)
  | _, _, _ => (0x7FC0_0000, false)

end Sys2Proof.Machine
end

