-- ==== Sys2Proof/Machine/PlyEngine.lean ====
section
/-! DEFINITION. The Creel's ply engine: keys, reports, abandoned and failed rounds, combining, completion at the turn, and
forwarding (R312 to R325). -/

namespace Sys2Proof.Machine

/-! ## Keys and rounds (R312) -/

/-- Key 1 is newer than key 2. -/
def keyNewer (c1 n1 c2 n2 : Nat) : Bool :=
  let d := (c1 + 2 ^ 32 - c2 % 2 ^ 32) % 2 ^ 32
  let e := (n1 + 65536 - n2 % 65536) % 65536
  (1 ≤ d && d < 2 ^ 31) || (d = 0 && 1 ≤ e && e < 2 ^ 15)

def plyKey (part tree : Nat) : Nat := part * 65536 + tree
def State.round (s : State) (k : Nat) : Round := tget {} s.crl.ply.rounds k
def State.modRound (k : Nat) (f : Round → Round) (s : State) : State :=
  { s with crl.ply.rounds := tmod {} s.crl.ply.rounds k f }

/-- A port whose peer is UNTRUSTED counts as EMPTY for every key. -/
def State.plyExcluded (port : Nat) (s : State) : Bool := (s.port .crl port).keys.peerUntrusted

/-- The first cause that arises here fails the round and is counted (R313). -/
def plyFail (k cause : Nat) (s : State) : State :=
  if (s.round k).failed.isSome then s
  else ((s.modRound k (fun r => { r with failed := some cause })).bump .crl 0x4008 1).setEv .crl 0x4004 (cause - 1)

/-- Whether two reports can be combined (cause 2). -/
def plyAlike (a b : PlyUp) : Bool :=
  a.op = b.op && a.fmt = b.fmt && a.outFmt = b.outFmt && a.length = b.length && a.rmode = b.rmode && a.scaled = b.scaled &&
    a.seed = b.seed && a.idx = b.idx

/-- What a report with data or VOID does to its open round: its own failures, and a mismatch with the first report. -/
def plyJoin (k port : Nat) (m : PlyUp) (s : State) : State :=
  let first := (s.round k).reports.head?.map (·.2)
  let s := s.modRound k (fun r => { r with
    reports := r.reports ++ [(port, m)], held := r.held.filter (fun e => e.1 ≠ port) })
  let s := if m.gap then plyFail k 1 s else s
  let s := match first with
    | some f => if plyAlike f m || m.gap || f.gap then s
      else (plyFail k 2 s).raise .crl 0x1704 m.part [m.tree, m.c, m.n]
    | none => s
  let s := if m.ecc then plyFail k 3 s else s
  if m.failed && (s.round k).failed.isNone then s.modRound k (fun r => { r with failed := some m.cause }) else s

/-- Whether a child has reported for a key. -/
def State.plyReported (k port c n : Nat) (s : State) : Bool :=
  let r := s.round k
  s.plyExcluded port || r.held.any (fun e => e.1 = port && e.2.c = c && e.2.n = n)
    || (r.isOpen && r.c = c && r.n = n && r.reports.any (fun e => e.1 = port))

/-! ## Combining (R314, R318, R320, R325) -/

/-- The reports that are combined: unbroken, alike the first, in the mode's order. -/
def plyOrder (fast : Bool) (reports : List (Nat × PlyUp)) : List PlyUp :=
  let ms := (reports.map (·.2)).filter (fun m => !m.gap)
  let ms := match ms with
    | [] => []
    | f :: _ => ms.filter (plyAlike f)
  if fast then ms else sortBy (·.rank) ms

/-- One report of several: lanes combined, counts added, the latest T_LAST, ties added up. -/
def plyCombine (fast : Bool) : List PlyUp → Option PlyUp
  | [] => none
  | m :: ms => some (ms.foldl (fun a b =>
    let r := combineLanes a.op a.fmt a.length a.scaled (!fast) a.lanes b.lanes
    { a with lanes := r.1, counted := a.counted + b.counted, tLast := max a.tLast b.tLast, ndtie := min (a.ndtie + b.ndtie + r.2) 0xFFFF,
             rank := min a.rank b.rank }) m)

/-! ## Completion (R313, R315, R322, R340) -/

/-- The result lanes of a round at its turn. -/
def plyResult (m : PlyUp) : List LaneOut :=
  if m.op = opNone then []
  else if m.counted = 0 then List.replicate m.length (emptyLane m.op m.fmt m.outFmt)
  else m.lanes.zipIdx.map (fun e =>
    finishLane m.op m.fmt m.outFmt m.rmode (if m.rmode = rmSr then srDraw m.seed m.idx m.n m.tree e.2 else 0) m.scaled e.1)

/-- A release before sampling: flags and masks from the lanes; a failed round carries none. -/
def plyDownOf (m : PlyUp) (failed : Option Nat) (ls : List LaneOut) : PlyDown :=
  let ok := failed.isNone
  let flags := bitAt (m.counted = 0) 0 + (if ok then bitAt (ls.any (·.nan)) 1 + bitAt (ls.any (·.ovf)) 2 + bitAt (ls.any (·.inexact)) 3 else 0)
    + bitAt (!ok) 4 + 256 * failed.getD 0
  { part := m.part, pepoch := m.pepoch, tree := m.tree, c := m.c, n := m.n, flags := flags, counted := m.counted, tLast := m.tLast,
    ndtie := m.ndtie, nanMask := if ok then laneMask (·.nan) ls else 0, ovfMask := if ok then laneMask (·.ovf) ls else 0,
    data := if ok then outBytes m.op m.outFmt ls else [] }

/-- Marks a release FAILED with a cause of the sampler. -/
def downFail (d : PlyDown) (cause : Nat) : PlyDown :=
  { d with flags := d.flags % 2 + 16 + 256 * cause, nanMask := 0, ovfMask := 0, data := [] }

/-- Sends a release on every child port of its tree. -/
def sendDown (d : PlyDown) (s : State) : State :=
  match s.plyTree (plyKey d.part d.tree) with
  | none => s
  | some t => (plyDownCells d).foldl (fun s c => sendOn .crl t.kids { c with hops := d.hops } s) s

/-- The root keeps the lanes of its digest group with the step (R393). -/
def fileDigest (m : PlyUp) (ls : List LaneOut) (s : State) : State :=
  s.modRoot m.part (fun r =>
    if r.digGroup ≠ m.tree then r
    else { r with
      launch.run := r.launch.run.map (fun x =>
        if x.c = m.c && !x.ignore then
          { x with dig := x.dig ++ ls.map (·.raw), counted := if x.rounds = 0 then m.counted else x.counted, rounds := x.rounds + 1 }
        else x) })

/-- The root notes with the step why a round of it failed (R539). -/
def filePlyFail (m : PlyUp) (failed : Option Nat) (s : State) : State :=
  if failed.isNone then s
  else s.modRoot m.part (fun r => { r with
    launch.run := r.launch.run.map (fun x => if x.c = m.c && !x.ignore then { x with plyCause := x.plyCause.orElse (fun _ => failed) } else x) })

/-- A round that the sampler fails: its cause arises at this Creel and is counted with those of R313 (log entry 157). -/
def samplerFail (m : PlyUp) (cause : Nat) (s : State) : State := filePlyFail m (some cause) (s.bump .crl 0x4008 1)

/-- A completed hall power round: its lanes wait at the plant-connected root for the law, which `HALL_POWER_RESULT` runs (R406, R412). -/
def fileHall (m : PlyUp) (failed : Option Nat) (ls : List LaneOut) (s : State) : State :=
  if failed.isNone then { s with crl.whorl.round := some (m.c, ls.map (fun l => toSigned 32 l.raw)) } else s

/-- What the turn does with a finished round: by the group's consumer, the members, the sampler, the clocks, or Whorl. -/
def plyTurn (m : PlyUp) (failed : Option Nat) (s : State) : State :=
  let ls := plyResult m
  let d := plyDownOf m failed ls
  if m.part = 0xFFFF then fileHall m failed ls s
  else if m.tree = 63 then
    if failed.isNone && m.counted ≠ 0 then
      s.modRoot m.part (fun r => { r with freq.mceilP := (ls.headD { raw := 15 }).raw % 16 })
    else s
  else
    let sampler := ((s.proot m.part).bind (fun r => tfind r.groups m.tree)).any (fun g => g.consumer = 1)
    if !sampler || failed.isSome then sendDown d (if failed.isNone then fileDigest m ls s else filePlyFail m failed s)
    else if m.op = opTopk then
      match sampleTopk m.part m.tree m.c m.n m.fmt m.lanes s with
      | (s, .ok b) => sendDown { d with data := b ++ outBytes m.op m.outFmt ls } s
      | (s, .error cause) => sendDown (downFail d cause) (samplerFail m cause s)
    else
      match sampleLse m.part m.tree m.c m.n (ls.map (·.raw)) s with
      | (s, none) => sendDown { d with data := [] } s
      | (s, some cause) => sendDown (downFail d cause) (samplerFail m cause s)

/-- Completes this Creel's part of a key for which every child has reported: one PLY_UP from below the turn, a result at it. A
round of EMPTY reports alone is passed on below the turn and never completed at it; it leaves an open round of an older key as it is. -/
def plyComplete (k c n : Nat) (s : State) : State :=
  match s.plyTree k with
  | none => s
  | some t =>
    if t.kids.isEmpty || !t.kids.all (fun port => s.plyReported k port c n) then s
    else
      let r := s.round k
      let mine := r.held.filter (fun e => e.2.c = c && e.2.n = n)
      let late := (mine.map (·.2.tLast)).foldl max 0
      let close := fun (s : State) => s.modRound k (fun r => { r with
        isOpen := false, reports := [], failed := none, done := some (c, n), held := r.held.filter (fun e => !(e.2.c = c && e.2.n = n)) })
      if r.isOpen && r.c = c && r.n = n then
        match (plyCombine t.fast (plyOrder t.fast r.reports)).orElse (fun _ => r.reports.head?.map (·.2)) with
        | none => s
        | some m =>
          let m := { m with tLast := max m.tLast late, failed := r.failed.isSome, cause := r.failed.getD 0, gap := false, ecc := false }
          match t.up with
          | some up => close ((plyUpCells m).foldl (fun s x => sendCell .crl up x s) s)
          | none => plyTurn m r.failed (close s)
      else match t.up, mine.head? with
        | some up, some e => ((plyUpCells { e.2 with tLast := late }).foldl (fun s x => sendCell .crl up x s) s).modRound k
            (fun r => { r with done := some (c, n), held := r.held.filter (fun e => !(e.2.c = c && e.2.n = n)) })
        | _, _ => s

/-! ## A child's report (R312, R313) -/

/-- Abandons the open round for a newer key. -/
def plyAbandon (k : Nat) (m : PlyUp) (s : State) : State :=
  let r := s.round k
  ((s.bump .crl 0x400C 1).setEv .crl 0x4004 3).raise .crl 0x1703 m.part [m.tree, r.c, r.n, m.c, m.n]

/-- Whether a report is older than the open round, or not newer than the round last completed. -/
def Round.stale (r : Round) (m : PlyUp) : Bool :=
  (r.isOpen && keyNewer r.c r.n m.c m.n) || r.done.any (fun d => !keyNewer m.c m.n d.1 d.2)

/-- A rack Creel keeps the last hall contribution of each down port (R408). -/
def keepPower (port : Nat) (m : PlyUp) (s : State) : State :=
  if m.part = 0xFFFF && s.cc.topo.tier = 1 && !m.empty && !m.gap && (s.port .crl port).state = .up then
    { s with crl.powerRep := tput s.crl.powerRep port (m, 0) }
  else s

/-- A report of an UNTRUSTED die is dropped; the port counts as EMPTY for its key, which it may have been the last to report for. -/
def plyExclude (k port : Nat) (m : PlyUp) (s : State) : State :=
  if (s.round k).stale m then s
  else
    let m := { m with empty := true, failed := false, counted := 0, tLast := 0, ndtie := 0, seed := 0, idx := 0, lanes := [], gap := false, ecc := false }
    plyComplete k m.c m.n (s.modRound k (fun r => { r with held := r.held.filter (fun e => e.1 ≠ port) ++ [(port, m)] }))

/-- A report on a port. One that is not of the partition's epoch, or not from a child of the group's tree, is none of the
engine's. -/
def plyUp (port : Nat) (m : PlyUp) (s : State) : State :=
  let k := plyKey m.part m.tree
  let s := { s with crl.ply.heads := tdel s.crl.ply.heads (port * 2 ^ 32 + k) }
  if m.pepoch ≠ (if m.part = 0xFFFF then 0 else tget 0 s.crl.epochs m.part) then
    s.portCount .crl port 0x28 (plyUpCells m).length
  else if !(s.plyTree k).any (fun t => t.kids.contains port) then s
  else if s.plyExcluded port then plyExclude k port m (s.bump .crl 0x4014 1)
  else
    let s := keepPower port m s
    let r := s.round k
    if r.stale m then s.bump .crl 0x4010 1
    else if m.empty then
      plyComplete k m.c m.n (s.modRound k (fun r => { r with held := r.held.filter (fun e => e.1 ≠ port) ++ [(port, m)] }))
    else if r.isOpen && r.c = m.c && r.n = m.n then
      if r.reports.any (fun e => e.1 = port) then s else plyComplete k m.c m.n (plyJoin k port m s)
    else
      let s := if r.isOpen then plyAbandon k m s else s
      let s := s.modRound k (fun r => { r with isOpen := true, c := m.c, n := m.n, reports := [], failed := none })
      plyComplete k m.c m.n (plyJoin k port m s)

def execPlyUpReceived (port : Nat) (m : PlyUp) (s : State) : Out := run (port < 129) (plyUp port m) s

/-- A child's message breaks off: it counts as its report, with cause 1. Its key is that of the header it began with, else of the
open round. -/
def plyGap (part tree port : Nat) (s : State) : State :=
  let k := plyKey part tree
  let r := s.round k
  let head := (tfind s.crl.ply.heads (port * 2 ^ 32 + k)).orElse (fun _ => if r.isOpen then r.reports.head?.map (·.2) else none)
  match head with
  | some m => plyUp port { m with empty := false, failed := false, counted := 0, lanes := [], gap := true } s
  | none => s

def execPlyCellGapTimeout (part tree port : Nat) (s : State) : Out := run (part < 0x1_0000 && port < 129) (plyGap part tree port) s

/-- PLY_DOWN is forwarded on every child port of its tree, with one HOP less; cells that have none left are dropped (R58, R66). -/
def plyForward (d : PlyDown) (s : State) : State :=
  let n := (plyDownCells d).length
  let up := ((s.plyTree (plyKey d.part d.tree)).bind (·.up))
  let drop := fun (o : Nat) => match up with
    | some port => s.portCount .crl port o n
    | none => s
  if d.hops = 0 then drop 0x2C
  else if d.pepoch = (if d.part = 0xFFFF then 0 else tget 0 s.crl.epochs d.part) then sendDown { d with hops := d.hops - 1 } s
  else drop 0x28

def execPlyDownForward (m : PlyDown) (s : State) : Out := run true (plyForward m) s

end Sys2Proof.Machine
end

