-- ==== Sys2Proof/Machine/Determ.lean ====
section
/-! DEFINITION. The determinism unit: counters, seeds, layer digests, per-die records and expected digests (R386 to R404). -/

namespace Sys2Proof.Machine

/-! ## Counters (R387, R403) -/

/-- A write to SPN_DT_ND_CTRL: SNAP takes the values before CLR. -/
def writeNdCtrl (v : Nat) (s : State) : State :=
  let d := s.spn.det
  let d := if v.testBit 0 then { d with ndSnap := d.nd, snapSeq := (d.snapSeq + 1) % 65536 } else d
  let s := { s with spn.det := d }
  if v.testBit 1 then ndClear s else s

def execNdSnap (v : Word) (s : State) : Out := run true (writeNdCtrl (v.toNat ||| 1)) s
def execNdClr (v : Word) (s : State) : Out := run true (writeNdCtrl (v.toNat ||| 2)) s

/-! ## Seeds (R389, R390) -/

/-- A launch of the die with this commit number is pending. -/
def State.pendingC (s : State) (c : Nat) : Bool := s.spn.launch.pend.any (fun p => p.c = c)

def judgeSeedSet (p : Part) (s : State) (pl : Bytes) : Except Refuse (State → Effect) := do
  let n := rdLe pl 0 1
  let k := min n 8
  let c := rdLe pl 4 4
  checkPl ([(0, 1), (4, 4)] ++ (List.range k).flatMap (fun i => [(8 + 16 * i, 1), (16 + 16 * i, 8)])) [(0, 1 ≤ n && n ≤ 8)] pl
  guardE (p = .spn) wrongTarget
  guardE (s.pendingC c || s.spn.launch.lastC < c) (0x0100, 0)
  pure (fun s => okWith { s with
    spn.det.seedPend := s.spn.det.seedPend ++
      [{ target := c, pairs := (List.range k).map (fun i => (rdLe pl (8 + 16 * i) 1, rdLe pl (16 + 16 * i) 8)) }] })

def execSeedSet (p : Part) (q : Req) (pl : Bytes) (s : State) : Out := run (q.wf p) (runCmd p q 0x0700 2 pl (judgeSeedSet p)) s

/-- Seeds that waited for a withdrawn launch apply at the next doff. -/
def retargetSeeds (c : Nat) (s : State) : State :=
  { s with spn.det.seedPend := s.spn.det.seedPend.map (fun x => if x.target = c then { x with target := 0 } else x) }

/-- The generations that a step not yet committed needs, and the one in force. -/
def pruneGens (s : State) : State :=
  let need := s.spn.det.gen :: (s.spn.launch.past.map (·.gen) ++ s.spn.launch.cur.toList.map (·.gen))
  { s with spn.det.gens := s.spn.det.gens.filter (fun (e : Nat × Tbl Nat) => need.contains e.1) }

/-- The doff of the launch with commit number `c`: each `SEED_SET` that waited for it, or for a launch that never came to its doff, is
a new generation, in the order of acceptance. -/
def applySeeds (c : Nat) (s : State) : State :=
  let due := fun (x : SeedPend) => x.target = c || x.target = 0 || (x.target < c && !s.pendingC x.target)
  let now := s.spn.det.seedPend.filter due
  if now.isEmpty then s
  else
    let s := { s with spn.det.seedPend := s.spn.det.seedPend.filter (fun x => !due x) }
    let s := now.foldl (fun s x =>
      let d := s.spn.det
      let tab := x.pairs.foldl (fun t e => tset 0 t e.1 e.2) (tget [] d.gens d.gen)
      { s with spn.det := { d with gen := d.gen + 1, gens := tset [] d.gens (d.gen + 1) tab } }) s
    pruneGens (s.setEv .spn 0x1010 5)

/-! ## Layer digests (R391, R392, R543) -/

/-- The digest's mixing function. -/
def mix (z : Nat) : Nat :=
  let z := z % 2 ^ 64
  let z := (z ^^^ (z / 2 ^ 30)) * 0xbf58_476d_1ce4_e5b9 % 2 ^ 64
  let z := (z ^^^ (z / 2 ^ 27)) * 0x94d0_49bb_1331_11eb % 2 ^ 64
  z ^^^ (z / 2 ^ 31)

/-- A slot after a word. -/
def tapInto (t : Tbl Nat) (slot x a : Nat) : Tbl Nat := tmod 0 t slot (fun v => (v + mix (x ^^^ a)) % 2 ^ 64)

/-- The descriptor of the next step to launch, as far as the die knows it. -/
def State.nextDesc (s : State) : Option Desc :=
  match s.spn.launch.next_ with
  | some n => n.desc
  | none => s.spn.launch.pend.head?.bind (fun p => tfind s.spn.launch.table p.idx)

/-- One tap pair: of the running step, or after D, late and for the next one; after a leave doff it is counted and added unchecked. -/
def tapPair (slot x a : Nat) (s : State) : State :=
  let range := fun (s : State) => s.setEv .spn 0x1010 6
  if s.spn.launch.doffL.isSome || s.spn.launch.held then
    let s := (s.bump .spn 0x1018 1).setEv .spn 0x1010 1
    if s.spnPart = 0 then { s with spn.det.slots := tapInto s.spn.det.slots slot x a }
    else if slot < (s.nextDesc.map (·.digests)).getD 0 then { s with spn.det.late := tapInto s.spn.det.late slot x a } else range s
  else if slot < s.digestCount then { s with spn.det.slots := tapInto s.spn.det.slots slot x a }
  else range s

/-- A tap word's two pairs. -/
def tapWord (w : Nat) (s : State) : State :=
  [0, 1].foldl (fun s i =>
    let b := w / 2 ^ (128 * i)
    if b.testBit 120 then tapPair (bits b 112 8) (bits b 0 64) (bits b 64 48) s else s) s

def execFabricTapWord (w : BitVec 256) (s : State) : Out := run true (tapWord w.toNat) s

/-! ## The check and the record at D (R394, R395) -/

/-- FOLD over the slots of a step. -/
def State.foldOf (s : State) (count : Nat) : Nat :=
  ((List.range count).map (fun i => mix (tget 0 s.spn.det.slots i ^^^ i))).sum % 2 ^ 64

/-- Whether the step just ended lacks digest rounds. -/
def State.digestShort (s : State) : Bool :=
  let dc := s.digestCount
  dc > 0 && (match s.digGroup with
    | none => true
    | some g => let c := s.gcfg g; !c.digest || s.spn.ply.digRounds < ceilDiv (dc + 4) c.length)

/-- The per-die record of the step that ends at D. -/
def dieRecord (short : Bool) (temp vmin : Nat) (s : State) : State :=
  match s.spn.launch.cur with
  | none => s
  | some cur =>
    let cfg := s.reg .spn 0x1000
    let compute := (cur.desc.map (·.kind)).any (· = 0)
    if !(cfg.testBit 4 && compute) then s
    else
      let failed := s.spn.launch.past.any (fun u => u.l = cur.l && !u.causes.isEmpty)
      let dc := s.digestCount
      let fold := s.foldOf dc
      let want := s.spn.det.expect.filter (fun (e : Nat × Nat) => e.1 = cur.stepIdx)
      let slack := s.spn.clocks.regions.foldl (fun m (e : Nat × Region) => min m e.2.slackMin) 0xFF
      let rec_ := lay [(1, 0x50), (1, bitAt failed 0 + bitAt short 1 + bitAt s.fastMode 2 + bitAt (!want.isEmpty) 3 +
          bitAt (want.any (fun e => e.2 ≠ fold)) 4), (2, dc), (4, cur.c), (8, cur.stepIdx), (8, fold), (2, temp), (2, vmin),
        (1, s.eff + 16 * s.spn.clocks.mceil), (1, slack), (1, min cur.attempt 255), (1, 0), (4, bankNat s.spn.banks.active bankRank 4),
        (4, cur.gen), (8, s.spn.det.ndStep % 2 ^ 48), (8, s.dtc), (4, 0), (4, s.spn.det.recSeq)]
      { s with spn.det.recSeq := (s.spn.det.recSeq + 1) % 2 ^ 32 }.post .spn (bits cfg 0 4) rec_

/-- The determinism unit at D, for the step just ended: the check, the record, and the fold that its commit will compare. -/
def digestDoff (temp vmin : Nat) (s : State) : State :=
  let short := s.digestShort
  let s := if short then (s.setEv .spn 0x1010 0).raise .spn 0x1901 s.spnPart [] else s
  let s := dieRecord short temp vmin s
  let fold := s.foldOf s.digestCount
  { s with
      spn.det.ndStep := 0
      spn.launch.past := s.spn.launch.past.map (fun u => if some u.l = s.spn.launch.cur.map (·.l) then { u with fold := fold } else u) }

/-! ## Expected digests (R398, R399) -/

/-- Items of a `DIGEST_EXPECT` list: step index, lane, value; a Spindle's have no lane. -/
def expectItems (p : Part) (n : Nat) (b : Bytes) : List (Nat × Nat × Nat) :=
  (List.range n).map (fun i =>
    match p with
    | .spn => (rdLe b (16 * i) 8, 0, rdLe b (16 * i + 8) 8)
    | .crl => (rdLe b (24 * i) 8, rdLe b (24 * i + 8) 2, rdLe b (24 * i + 16) 8))
def expectSize : Part → Nat
  | .spn => 16
  | .crl => 24

/-- Offset of the first item that stands below the one before it. -/
def firstDescent (size : Nat) : List (Nat × Nat × Nat) → Nat → Option Nat
  | a :: b :: l, i => if b.1 < a.1 then some (size * (i + 1)) else firstDescent size (b :: l) (i + 1)
  | _, _ => none

/-- Offset of the first item of a root's list whose unlisted bytes 10 to 15 are not zero (R10). -/
def firstUnlisted (p : Part) (n : Nat) (b : Bytes) : Option Nat :=
  match p with
  | .spn => none
  | .crl => ((List.range n).find? (fun i => rdLe b (24 * i + 10) 6 ≠ 0)).map (fun i => 24 * i + 10)

/-- Items of lists accepted and not yet loaded, for a partition of a root. -/
def expectStaged (p : Part) (part : Nat) (s : State) : Nat :=
  (((s.core p).jobs.filter (fun b => b.code = 0x0701 && b.args.getD 0 0 = part)).map (fun b =>
    ((expectItems p b.total b.staged).filter (fun e => b.args.getD 1 0 ≤ e.1)).length)).sum

/-- `DIGEST_EXPECT` on either part; `cur` is the current step's index and `room` the items that still fit. -/
def judgeExpectOn (p : Part) (q : Req) (part cur room : Nat) (s : State) (pl : Bytes) : Except Refuse (State → Effect) := do
  let n := rdLe pl 16 4
  let list := s.rd p (rdLe pl 8 8) (expectSize p * n)
  let items := expectItems p n list
  match ((firstDescent (expectSize p) items 0).toList ++ (firstUnlisted p n list).toList).min? with
  | some o => .error (invalidField 3 o)
  | none => pure ()
  let keep := items.filter (fun e => cur ≤ e.1)
  guardE (keep.length + expectStaged p part s ≤ room) (0x0800, 0)
  guardE (!classBFull p 2 s) (0x0100, 0)
  pure (fun s => later (addJob p { q := q, code := 0x0701, core := 2, args := [part, cur], total := n, staged := list } s))

def judgeExpectSpn (q : Req) (s : State) (pl : Bytes) : Except Refuse (State → Effect) := do
  checkPl [(8, 12)] [(8, !badHostRange .spn (rdLe pl 8 8) (16 * rdLe pl 16 4))] pl
  guardE (s.featureOn .spn 3) (0x0104, 0)
  judgeExpectOn .spn q 0 s.stepIndex (1024 - s.spn.det.expect.length) s pl

def judgeExpectCrl (q : Req) (s : State) (pl : Bytes) : Except Refuse (State → Effect) := do
  checkPl [(0, 2), (8, 12)] [(8, !badHostRange .crl (rdLe pl 8 8) (24 * rdLe pl 16 4))] pl
  guardE (s.featureOn .crl 3) (0x0104, 0)
  guardE s.cc.topo.hasRoot wrongTarget
  match (s.proot (rdLe pl 0 2)).filter (·.inService) with
  | none => .error (0x0404, 0)
  | some r => judgeExpectOn .crl q (rdLe pl 0 2) r.launch.stepIdx (65536 - r.expect.length) s pl

/-- `DIGEST_EXPECT` as each part judges it. -/
def judgeDigestExpect (p : Part) (q : Req) : State → Bytes → Except Refuse (State → Effect) :=
  match p with
  | .spn => judgeExpectSpn q
  | .crl => judgeExpectCrl q

def execDigestExpect (p : Part) (q : Req) (pl : Bytes) (s : State) : Out :=
  run (q.wf p) (runCmd p q 0x0701 2 pl (judgeDigestExpect p q)) s

/-- The last slice holds the items from the current step on, but for those whose step has been committed since; the completion counts those
discarded at acceptance. -/
def expectCommit (p : Part) (b : BJob) (s : State) : State :=
  let items := expectItems p b.total b.staged
  let cur := b.args.getD 1 0
  let keep := items.filter (fun e => cur ≤ e.1)
  let s := match p with
    | .spn =>
      let open_ := keep.filter (fun e => !((s.spn.launch.past.map (·.stepIdx)).min?).any (e.1 < ·))
      { s with spn.det.expect := sortBy (·.1) (s.spn.det.expect ++ open_.map (fun e => (e.1, e.2.2))) }
    | .crl => s.modRoot (b.args.getD 0 0) (fun r => { r with
        expect := sortBy (·.1) (r.expect ++ keep.filter (fun e => r.launch.stepIdx ≤ e.1)) })
  complete p b.q b.code b.core 0 0 (le 4 (items.length - keep.length)) s

/-- A committed step at the die: its FOLD against the items of its index, which are consumed. -/
def foldCommit (u : Uncommitted) (s : State) : State :=
  let n := s.spn.det.commits + 1
  let s := { s with spn.det.commits := n, spn.det.mism := s.spn.det.mism.filter (fun (e : Nat × Nat) => n < e.1 + 4096) }
  if !u.compute then s
  else
    let want := s.spn.det.expect.filter (fun (e : Nat × Nat) => e.1 = u.stepIdx)
    let s := { s with spn.det.expect := s.spn.det.expect.filter (fun (e : Nat × Nat) => e.1 ≠ u.stepIdx) }
    if want.all (fun e => e.2 = u.fold) then s
    else
      let s := { s with spn.det.mism := s.spn.det.mism ++ [(n, u.stepIdx)] }
      let s := ((s.bump .spn 0x1014 1).setEv .spn 0x1010 2).raise .spn 0x1902 s.spnPart [u.stepIdx, u.fold]
      let fence := bits (s.reg .spn 0x1000) 16 4
      if fence ≠ 0 && s.spn.det.mism.length = fence then
        (s.setEv .spn 0x1010 3).raise .spn 0x1903 s.spnPart
          ([s.hea .spn, bankNat s.spn.banks.active bankRank 4] ++ s.spn.det.mism.map (·.2))
      else s

/-! ## The root's trace (R396, R399, R404) -/

/-- A write to the trace's base or size takes effect at the next entry, which then stands at offset 0; a value whose low bits are not
zero is ignored (log entry 39). -/
def writeTrace (off v : Nat) (s : State) : State :=
  if (off = 0x4300 && v % 64 ≠ 0) || (off = 0x4308 && v % 4096 ≠ 0) then s
  else { s.setReg .crl off v with crl.traceNew := true }

def execTraceBaseWrite (off : Nat) (v : Word) (s : State) : Out :=
  run (off = 0x4300 || off = 0x4304 || off = 0x4308) (writeTrace off v.toNat) s

/-- Writes a trace entry into the buffer, with padding before its end where the entry does not fit. -/
def traceWrite (entry : Nat → Bytes) (len : Nat) (s : State) : State :=
  let size := s.reg .crl 0x4308
  let base := s.reg .crl 0x4300 + 2 ^ 32 * s.reg .crl 0x4304
  if size < len then s
  else
    let s := if s.crl.traceNew then { s with crl.traceNew := false, crl.traceWr := 0 } else s
    let wrap := fun (s : State) => { s with crl.traceWr := 0, crl.traceWraps := (s.crl.traceWraps + 1) % 2 ^ 32 }.setEv .crl 0x4314 2
    let at_ := s.crl.traceWr
    let s := if at_ + len ≤ size then s
      else wrap (s.wr .crl (base + at_) (padTo (min 64 (size - at_)) (lay [(1, 0x51), (1, 16), (10, 0), (4, size - at_)])))
    let at_ := s.crl.traceWr
    let s := s.wr .crl (base + at_) (entry s.crl.traceSeq)
    let s := { s with crl.traceSeq := (s.crl.traceSeq + 1) % 2 ^ 32, crl.traceWr := at_ + len }
    if at_ + len = size then wrap s else s

/-- The trace entry of a committed COMPUTE step, its comparison with the items of its index, and the items consumed. Whether rounds
are missing depends on DIGEST_COUNT, which the root is not told: it is free unless no count could need more (log entry 5). -/
def traceCommit (part : Nat) (x : RStep) (s : State) : State :=
  match s.proot part with
  | none => s
  | some r =>
    if x.kind ≠ 0 then s
    else
      let want := r.expect.filter (fun (e : Nat × Nat × Nat) => e.1 = x.stepIdx)
      let bad := want.filter (fun e => x.dig[e.2.1]? ≠ some e.2.2)
      let s := s.modRoot part (fun r => { r with expect := r.expect.filter (fun (e : Nat × Nat × Nat) => e.1 ≠ x.stepIdx) })
      if x.rounds = 0 then s
      else
        let s := bad.foldl (fun s e =>
          ((s.bump .crl 0x4318 1).setEv .crl 0x4314 0).raise .crl 0x1902 part [x.stepIdx, e.2.1]) s
        let d := if x.dig.length < 260 then s.draw else (0, s)
        let short := x.dig.length < 260 && d.1 % 2 = 1
        let s := if short then d.2.setEv .crl 0x4314 1 else d.2
        let gt := s.gt .crl
        let n := x.dig.length
        let entry := fun (seq : Nat) =>
          lay [(1, 0x51), (1, bitAt r.fast 0 + bitAt short 1 + bitAt (!bad.isEmpty) 2 + bitAt (!want.isEmpty) 3), (2, part), (4, r.epoch), (4, x.c),
            (4, 64 + 8 * n), (8, x.stepIdx), (8, x.l), (8, gtSec gt), (4, gtNs gt), (4, x.counted), (1, x.eff + 16 * r.freq.mceilP),
            (1, min x.retries 255), (1, x.rounds), (1, 0), (2, n), (2, 0), (4, seq), (4, 0)] ++ lay (x.dig.map (fun v => (8, v)))
        traceWrite entry (64 + 8 * n) s

end Sys2Proof.Machine
end

