-- ==== Sys2Proof/Machine/SyncCmd.lean ====
section
/-! DEFINITION. Host commands on synchronisation objects: mapping, signals, contexts and the skein dump (R242 to R245, R263 to
R266, R470). -/

namespace Sys2Proof.Machine

/-! ## Mappings (R242, R243, R470) -/

/-- A mapping of 24 bytes. -/
structure Mapping where
  vid     : Nat
  ctx     : Nat
  share   : Bool
  typ     : ObjType
  control : Bool
  realign : Bool
  owner   : Nat
  value   : Nat
  ofVid   : Nat
  ofCtx   : Nat
deriving DecidableEq, Repr

def mappingAt (b : Bytes) (o : Nat) : Mapping :=
  let w := rdLe b o 4
  let t := rdLe b (o + 4) 1
  let sh := rdLe b (o + 16) 4
  { vid := bits w 0 20, ctx := bits w 20 6, share := w.testBit 26, typ := objTypeOf t, control := t.testBit 2,
    realign := t.testBit 3, owner := rdLe b (o + 6) 2, value := rdLe b (o + 8) 8, ofVid := bits sh 0 20, ofCtx := bits sh 20 6 }

/-- The field checks of a mapping at byte `o`: reserved bits, and what SHARE requires zero. -/
def mappingFields (b : Bytes) (o : Nat) : List (Nat × Bool) :=
  let share := (rdLe b o 4).testBit 26
  let gate := rdLe b (o + 4) 1 % 4 = 3
  ([(o, bits (rdLe b o 4) 27 5 = 0)] : List (Nat × Bool)) ++
    (if share then ([(o + 4, rdLe b (o + 4) 1 = 0), (o + 5, rdLe b (o + 5) 1 = 0), (o + 6, rdLe b (o + 6) 2 = 0),
      (o + 8, rdLe b (o + 8) 8 = 0), (o + 16, bits (rdLe b (o + 16) 4) 26 6 = 0)] : List (Nat × Bool))
    else [(o + 4, bits (rdLe b (o + 4) 1) 4 4 = 0), (o + 5, rdLe b (o + 5) 1 = 0), (o + 6, rdLe b (o + 6) 2 < 2048),
      (o + 8, !gate || rdLe b (o + 8) 2 = 0), (o + 16, rdLe b (o + 16) 4 = 0)]) ++
    ([(o + 20, rdLe b (o + 20) 4 = 0)] : List (Nat × Bool))

/-- Mappings that accepted `SO_MAP_BULK` lists still have to make: their objects and entries are reserved (R242). -/
def State.reservedMaps (s : State) : List Mapping :=
  (s.sc.jobs.filter (fun b => b.code = 0x0401)).flatMap (fun b => (List.range (b.staged.length / 24)).map (fun i => mappingAt b.staged (24 * i)))

/-- Objects that the SHARE mappings of accepted lists name: they stay until the lists are made (R242). -/
def State.heldShares (s : State) : List Nat := (s.sc.jobs.filter (fun b => b.code = 0x0401)).flatMap (fun b => b.args.drop 2)

/-- Whether `objs` more objects and `entries` more entries fit beside what accepted lists have reserved (R242, R264). -/
def State.soFits (s : State) (objs entries : Nat) : Bool :=
  let held := s.reservedMaps
  s.spn.sync.objs.length + (held.filter (fun m => !m.share)).length + objs ≤ 16384 && s.spn.sync.xlat.length + held.length + entries ≤ 16384

/-- The refusals of R242 and R243 in their order. `off` gives a mapping's place in structure `st`. -/
def judgeMaps (ms : List Mapping) (st : Nat) (off : Nat → Nat) (s : State) : Except Refuse Unit := do
  let held := s.reservedMaps
  let keys := (held ++ ms).map (fun m => (m.ctx, m.vid))
  guardE (ms.all (fun m => (s.xlatPid m.ctx m.vid).isNone) && keys.eraseDups.length = keys.length) (0x0500, 0)
  guardE (s.soFits (ms.filter (fun m => !m.share)).length ms.length) (0x0501, 0)
  guardE (!ms.any (fun m => s.spn.sync.saved.contains m.ctx)) (0x0502, 0)
  match ms.zipIdx.find? (fun e => !e.1.share && e.1.realign && e.1.typ ≠ .count) with
  | some e => .error (invalidField st (off e.2 + 4))
  | none => pure ()
  match ms.zipIdx.find? (fun e => !e.1.share && e.1.typ = .gate && gateParties e.1.value = 0) with
  | some e => .error (invalidField st (off e.2 + 8))
  | none => pure ()
  guardE (ms.all (fun m => !m.share || (s.xlatPid m.ofCtx m.ofVid).isSome)) (0x0509, 0)
  guardE (ms.all (fun m => !m.share || ((s.xlatPid m.ofCtx m.ofVid).bind (fun p => s.obj p)).any (·.control))) (0x0503, 0)

/-- The object that a SHARE mapping names. -/
def Mapping.source (m : Mapping) (s : State) : Option Nat := if m.share then s.xlatPid m.ofCtx m.ofVid else none

/-- Makes a mapping: a new object under the lowest free physical ID, or one more entry of the shared one `src`. Its physical ID comes
back. -/
def makeMap (m : Mapping) (src : Option Nat) (s : State) : State × Nat :=
  let e := s.spn.sync
  let idx := lowestFree e.xlat 0
  if m.share then
    match src with
    | some pid =>
      let mark := fun (x : Nat × Xlat) => if x.2.pid = pid then (x.1, { x.2 with shared := true }) else x
      ({ s with spn.sync.xlat := tput (e.xlat.map mark) idx { ctx := m.ctx, vid := m.vid, pid := pid, shared := true } }, pid)
    | none => (s, 0xFFFF)
  else
    let pid := lowestFree e.objs 0
    let o : Obj := { typ := m.typ, control := m.control, realign := m.realign, ownerCtx := m.ctx, owner := m.owner, value := m.value,
                     base := m.value % 2 ^ 32, lastProd := hostSrc, lastCons := hostSrc }
    ({ s with spn.sync.objs := tput e.objs pid o, spn.sync.xlat := tput e.xlat idx { ctx := m.ctx, vid := m.vid, pid := pid } }, pid)

/-- Makes mappings one after another, each with the object it shares; their physical IDs come back in order. -/
def makeMaps : List (Mapping × Option Nat) → State → State × List Nat
  | [], s => (s, [])
  | m :: ms, s =>
    let r := makeMap m.1 m.2 s
    let t := makeMaps ms r.1
    (t.1, r.2 :: t.2)

def judgeSoMap (p : Part) (s : State) (pl : Bytes) : Except Refuse (State → Effect) := do
  let n := rdLe pl 0 1
  let k := min n 4
  let ms := (List.range k).map (fun i => mappingAt pl (8 + 24 * i))
  checkPl [(0, 1), (8, 24 * k)] ([(0, 1 ≤ n && n ≤ 4)] ++ (List.range k).flatMap (fun i => mappingFields pl (8 + 24 * i))) pl
  guardE (p = .spn) wrongTarget
  judgeMaps ms 2 (fun i => 8 + 24 * i) s
  pure (fun s =>
    let r := makeMaps (ms.map (fun m => (m, m.source s))) s
    okWith r.1 (lay (r.2.map (fun pid => (2, pid)))))

def execSoMap (p : Part) (q : Req) (pl : Bytes) (s : State) : Out := run (q.wf p) (runCmd p q 0x0400 2 pl (judgeSoMap p)) s

/-- `SO_MAP_BULK`: the list is read and checked whole at acceptance, and what it takes is reserved (R242). -/
def judgeSoMapBulk (p : Part) (q : Req) (s : State) (pl : Bytes) : Except Refuse (State → Effect) := do
  let a := rdLe pl 0 8
  let n := rdLe pl 8 4
  checkPl [(0, 12)] [(0, !badHostRange p a (24 * min n 16384)), (8, 1 ≤ n && n ≤ 16384)] pl
  guardE (p = .spn) wrongTarget
  let list := s.rd p a (24 * n)
  match (((List.range n).flatMap (fun i => mappingFields list (24 * i))).filter (fun f => !f.2)).map (·.1) |>.min? with
  | some o => .error (invalidField 3 o)
  | none => pure ()
  let ms := (List.range n).map (fun i => mappingAt list (24 * i))
  judgeMaps ms 3 (fun i => 24 * i) s
  guardE (!classBFull p 2 s) (0x0100, 0)
  pure (fun s => later (addJob p {
    q := q, code := 0x0401, core := 2, args := [a, n] ++ ms.filterMap (fun m => m.source s), total := n, staged := list } s))

def execSoMapBulk (p : Part) (q : Req) (pl : Bytes) (s : State) : Out := run (q.wf p) (runCmd p q 0x0401 2 pl (judgeSoMapBulk p q)) s

/-- Mappings with the objects that their SHAREs named at acceptance, in order. -/
def withSources : List Mapping → List Nat → List (Mapping × Option Nat)
  | [], _ => []
  | m :: ms, srcs => if m.share then (m, srcs.head?) :: withSources ms srcs.tail else (m, none) :: withSources ms srcs

/-- The last slice of a bulk map makes its mappings. -/
def mapBulkCommit (b : BJob) (s : State) : State :=
  let ms := (List.range (b.staged.length / 24)).map (fun i => mappingAt b.staged (24 * i))
  complete .spn b.q b.code b.core 0 0 [] (makeMaps (withSources ms (b.args.drop 2)) s).1

/-! ## `SO_UNMAP` and `SO_SIGNAL` (R244, R266) -/

/-- Takes an entry off; an object with no entry left, and none promised, is FREE. -/
def dropEntry (idx pid : Nat) (s : State) : State :=
  let s := { s with spn.sync.xlat := tdel s.spn.sync.xlat idx }
  if s.spn.sync.xlat.any (fun e => e.2.pid = pid) || s.heldShares.contains pid then s
  else { s with
    spn.sync.objs := tdel s.spn.sync.objs pid, spn.sync.joins := s.spn.sync.joins.filter (fun j => !(j.home.isNone && j.pid = pid)) }

def judgeSoUnmap (p : Part) (s : State) (pl : Bytes) : Except Refuse (State → Effect) := do
  let w := rdLe pl 0 4
  let force := (rdLe pl 4 1).testBit 0
  checkPl [(0, 5)] [(0, bits w 26 6 = 0), (4, rdLe pl 4 1 < 2)] pl
  guardE (p = .spn) wrongTarget
  match s.xlatFind (bits w 20 6) (bits w 0 20) with
  | none => .error (0x0509, 0)
  | some (idx, x) =>
    let last := (s.spn.sync.xlat.filter (fun e => e.2.pid = x.pid)).length = 1 && !s.heldShares.contains x.pid
    guardE (!last || force || (s.waitersOf x.pid).isEmpty) (0x0504, 0)
    pure (fun s =>
      if last && !(s.waitersOf x.pid).isEmpty then
        let r := orphanWaits x.pid (s.setEv .spn 0x0C08 1)
        okWith (dropEntry idx x.pid r.1) (lay [(2, r.2)])
      else okWith (dropEntry idx x.pid s) (lay [(2, 0)]))

def execSoUnmap (p : Part) (q : Req) (pl : Bytes) (s : State) : Out := run (q.wf p) (runCmd p q 0x0402 2 pl (judgeSoUnmap p)) s

/-- `SO_SIGNAL` completes when its operation is applied; refused under R258, with the record's reason (R470). -/
def judgeSoSignal (p : Part) (r : Req) (_ : State) (pl : Bytes) : Except Refuse (State → Effect) := do
  let w := rdLe pl 0 4
  let op := rdLe pl 4 1
  checkPl [(0, 5), (6, 10)] [(0, bits w 26 6 = 0), (4, opPosted op)] pl
  guardE (p = .spn) wrongTarget
  pure (fun s =>
    let q : QOp := { pid := 0, ctx := bits w 20 6, vid := bits w 0 20, op := op, arg := rdLe pl 6 2, operand := rdLe pl 8 8,
                     src := hostSrc, core := 0xFFFF, cmd := some r }
    match takeSignal q true s with
    | (s, some reason) => (s, some (0x0508, reason, []))
    | (s, none) => later s)

def execSoSignal (p : Part) (q : Req) (pl : Bytes) (s : State) : Out := run (q.wf p) (runCmd p q 0x0403 2 pl (judgeSoSignal p q)) s

/-! ## `CTX_RESET` (R263) -/

def judgeCtxReset (p : Part) (_ : State) (pl : Bytes) : Except Refuse (State → Effect) := do
  let ctx := rdLe pl 0 1
  checkPl [(0, 1)] [(0, ctx < 64)] pl
  guardE (p = .spn) wrongTarget
  pure (fun s =>
    let mine := s.spn.sync.objs.filter (fun e => e.2.ownerCtx = ctx && !e.2.orphaned)
    okWith (orphanAll (mine.map (·.1)) s) (lay [(4, mine.length)]))

def execCtxReset (p : Part) (q : Req) (pl : Bytes) (s : State) : Out := run (q.wf p) (runCmd p q 0x0405 2 pl (judgeCtxReset p)) s

/-! ## Images (R265, R266) -/

/-- Header of a dump or a context image. -/
def skeinHeader (flags hea first last part pepoch nx no nw : Nat) : Bytes :=
  lay [(8, 0x3130304E49454B53), (2, 1), (2, flags), (4, hea), (8, first), (8, last), (2, part), (2, 0), (4, pepoch), (4, nx), (4, no),
    (2, nw), (2, 0), (4, 64 + 8 * nx), (4, 64 + 8 * nx + 48 * no), (4, 0)]

/-- Translation record. -/
def xlatRecord (x : Option Xlat) : Bytes :=
  match x with
  | none => le 8 0
  | some x => le 8 (x.vid + 2 ^ 20 * x.ctx + 2 ^ 26 + bitAt x.shared 27 + 2 ^ 32 * x.pid)

/-- Object record; a FREE object shows its ID and no producer or consumer. -/
def objRecord (pid waiters : Nat) (o : Option Obj) : Bytes :=
  match o with
  | none => lay [(8, 0), (6, 0), (2, pid), (32, 0)]
  | some o =>
    lay [(8, o.value), (1, o.typ.code + bitAt o.control 2 + (if o.orphaned then 16 else 8) + bitAt o.realign 5 + bitAt o.mismatch 6),
      (1, o.ownerCtx), (2, o.owner), (2, waiters), (2, pid), (4, o.sigWin), (4, o.takeWin), (4, o.base), (4, o.lastProd), (4, o.lastCons),
      (4, o.mod), (8, 0)]

/-- Waiter record; `time` is an expiry or the remaining ns. In an image an ARRIVE_WAIT's OPERAND holds its generation (log entry
32). -/
def waiterRecord (core time operand : Nat) (cleared : Bool) (w : Waiter) : Bytes :=
  lay [(2, w.logical), (2, core), (1, 1 + bitAt cleared 1), (1, w.ctx), (1, w.op), (1, 0), (4, w.vid), (2, w.pid), (2, w.arg),
    (8, operand), (8, time)]

/-! ## `CTX_SWITCH` (R264) -/

/-- What a switch saves of the outgoing context: entries, objects that go with it, waiters with whether they are CTX_CLEARED; and
the DATA objects that are freed. -/
structure CtxPlan where
  entries : List (Nat × Xlat)
  objs    : List (Nat × Obj)
  waits   : List (Nat × Waiter × Bool)
  freed   : List Nat
deriving DecidableEq, Repr

/-- The plan for context `out` and its moved cores. -/
def ctxPlan (out : Nat) (moved : List Nat) (s : State) : CtxPlan :=
  let mine := s.spn.sync.xlat.filter (fun e => e.2.ctx = out)
  let pids := (mine.map (fun e => e.2.pid)).eraseDups
  let control := pids.filter (fun pid => (s.obj pid).any (·.control))
  let data := pids.filter (fun pid => !(s.obj pid).any (·.control))
  let alone := control.filter (fun pid => !s.spn.sync.xlat.any (fun e => e.2.pid = pid && e.2.ctx ≠ out) && !s.heldShares.contains pid)
  let ws := s.spn.sync.waiters.filter (fun e => e.2.ctx = out && (alone.contains e.2.pid || moved.contains e.1))
  { entries := mine.filter (fun e => control.contains e.2.pid)
    objs := alone.filterMap (fun pid => (s.obj pid).map (fun o => (pid, o)))
    waits := ws.map (fun e => (e.1, e.2, data.contains e.2.pid))
    freed := data }

/-- The save area's image. -/
def ctxImage (c : CtxPlan) (s : State) : Bytes :=
  let st := (s.stampOf .spn s.spnPart).1
  let now := s.sc.time.tick
  skeinHeader 6 (s.hea .spn) st st s.spnPart s.spnPepoch c.entries.length c.objs.length c.waits.length
    ++ c.entries.flatMap (fun e => xlatRecord (some e.2))
    ++ c.objs.flatMap (fun e => objRecord e.1 (s.waitersOf e.1).length (some e.2))
    ++ c.waits.flatMap (fun e =>
        waiterRecord e.1 (e.2.1.expiry - now) (if e.2.1.op = 6 then e.2.1.gen else e.2.1.operand) e.2.2 e.2.1)

/-- The outgoing context leaves: waits of cores that stay end with CTX_CLEARED on freed objects, saved waits go, objects and
entries go; what it shares is remembered by its entries, wherever the object goes (R252, R264). -/
def ctxLeave (out : Nat) (c : CtxPlan) (s : State) : State :=
  let s := c.waits.foldl (fun s e => { s with spn.sync.waiters := tdel s.spn.sync.waiters e.1 }) s
  let s := c.freed.foldl (fun s pid => (s.waitersOf pid).foldl (fun s e =>
    releaseWait e.1 0x0D (((s.obj pid).map (·.value)).getD 0) s) s) s
  let kept := c.objs.map (·.1)
  let gone := c.freed ++ kept
  let joins := s.spn.sync.joins.map (fun j => if j.home.isNone && kept.contains j.pid then { j with home := some out } else j)
  let mine := (c.entries.filter (fun e => !kept.contains e.2.pid)).map (fun e => ({ ctx := out, vid := e.2.vid, pid := e.2.pid } : Join))
  { s with
    spn.sync.joins := joins ++ mine
    spn.sync.xlat := s.spn.sync.xlat.filter (fun e => e.2.ctx ≠ out)
    spn.sync.objs := s.spn.sync.objs.filter (fun e => !gone.contains e.1)
    spn.sync.saved := (s.spn.sync.saved ++ [out]).eraseDups }

/-- Counts of an image. -/
def imageCounts (b : Bytes) : Nat × Nat × Nat := (rdLe b 40 4, rdLe b 44 4, rdLe b 48 2)

/-- An object as an image holds it. -/
def objFrom (b : Bytes) : Obj :=
  let f := rdLe b 8 1
  { typ := objTypeOf f, control := f.testBit 2, orphaned := bits f 3 2 = 2, realign := f.testBit 5, mismatch := f.testBit 6,
    ownerCtx := rdLe b 9 1 % 64, owner := rdLe b 10 2, value := rdLe b 0 8, sigWin := rdLe b 16 4, takeWin := rdLe b 20 4,
    base := rdLe b 24 4, lastProd := rdLe b 28 4, lastCons := rdLe b 32 4, mod := rdLe b 36 4 }

/-- Restores an image's objects under the lowest free IDs; old and new IDs come back. -/
def restoreObjs : List Bytes → State → State × List (Nat × Nat)
  | [], s => (s, [])
  | b :: bs, s =>
    let pid := lowestFree s.spn.sync.objs 0
    let t := restoreObjs bs { s with spn.sync.objs := tput s.spn.sync.objs pid (objFrom b) }
    (t.1, (rdLe b 14 2, pid) :: t.2)

/-- Puts an entry under the lowest free index. -/
def putEntry (ctx vid pid : Nat) (shared : Bool) (s : State) : State :=
  { s with spn.sync.xlat := tput s.spn.sync.xlat (lowestFree s.spn.sync.xlat 0) { ctx := ctx, vid := vid, pid := pid, shared := shared } }

/-- Saved entries for objects that are resident are re-joined, those of contexts that are resident too (R264). -/
def rejoinShared (s : State) : State :=
  let due := fun (j : Join) => j.home.isNone && !s.spn.sync.saved.contains j.ctx
  let js := s.spn.sync.joins.filter due
  js.foldl (fun s j => putEntry j.ctx j.vid j.pid true s)
    { s with spn.sync.joins := s.spn.sync.joins.filter (fun j => !due j) }

/-- A saved waiter resumes with its remaining time; one saved as CTX_CLEARED, or whose object is nowhere, completes so (R264, log entry
156). -/
def resumeWait (b : Bytes) (s : State) : State :=
  let core := rdLe b 2 2
  let ctx := rdLe b 5 1
  let op := rdLe b 6 1
  let clear := wakeCore core (portDone core 0x0D 0 s)
  if (rdLe b 4 1).testBit 1 then clear
  else match s.xlatPid ctx (rdLe b 8 4) with
    | none => clear
    | some pid =>
      let w : Waiter := { logical := rdLe b 0 2, ctx := ctx, op := op, vid := rdLe b 8 4, pid := pid, arg := rdLe b 14 2,
                          operand := rdLe b 16 8, expiry := s.sc.time.tick + rdLe b 24 8, regTick := s.sc.time.tick,
                          regDtc := (s.stampOf .spn s.spnPart).1, gen := if op = 6 then rdLe b 16 8 else 0 }
      { s with spn.sync.waiters := tput s.spn.sync.waiters core w }.modCport core (fun c => { c with pending := true })

/-- The incoming context's image is restored (R264): objects, their entries, the entries of shared objects, then waiters. -/
def ctxEnter (into : Nat) (img : Bytes) (s : State) : State :=
  let n := imageCounts img
  let tr := (List.range n.1).map (fun i => rdLe img (64 + 8 * i) 8)
  let ob := (List.range n.2.1).map (fun i => (img.drop (64 + 8 * n.1 + 48 * i)).take 48)
  let wt := (List.range n.2.2).map (fun i => (img.drop (64 + 8 * n.1 + 48 * n.2.1 + 32 * i)).take 32)
  let r := restoreObjs ob s
  let newPid := fun (old : Nat) => (r.2.find? (fun e => e.1 = old)).map (·.2)
  let s := tr.foldl (fun s w =>
    match newPid (bits w 32 14) with
    | some pid => putEntry (bits w 20 6) (bits w 0 20) pid (w.testBit 27) s
    | none => s) r.1
  let s := { s with
    spn.sync.saved := s.spn.sync.saved.filter (· ≠ into)
    spn.sync.joins := s.spn.sync.joins.map (fun j =>
      if j.home = some into then { j with home := none, pid := (newPid j.pid).getD j.pid } else j) }
  let s := rejoinShared s
  let s := wt.foldl (fun s b => resumeWait b s) s
  let mine := ((s.spn.sync.xlat.filter (fun e => e.2.ctx = into)).map (fun e => e.2.pid)).eraseDups
  mine.foldl (fun s pid => evaluate pid none s) s

/-- The cores that a switch moves: those of the outgoing context that the map names. -/
def movedCores (out mapAddr : Nat) (s : State) : List Nat :=
  let m := s.rd .spn mapAddr 256
  s.cores.filter (fun c => s.ctxOf c = out && (mapAddr = 0 || (m.getD (c / 8) 0).getLsbD (c % 8)))

/-- The incoming image's length, by its counts. -/
def imageLen (a : Nat) (s : State) : Nat :=
  let n := imageCounts (s.rd .spn a 64)
  64 + 8 * n.1 + 48 * n.2.1 + 32 * n.2.2

/-- Whether the incoming image fits once the outgoing context has left (R264). -/
def ctxFits (out img map : Nat) (s : State) : Bool :=
  let after := ctxLeave out (ctxPlan out (movedCores out map s) s) s
  let n := if img = 0 then (0, 0, 0) else imageCounts (s.rd .spn img 64)
  after.soFits n.2.1 n.1

def judgeCtxSwitch (p : Part) (q : Req) (s : State) (pl : Bytes) : Except Refuse (State → Effect) := do
  let out := rdLe pl 0 1
  let into := rdLe pl 1 1
  let area := rdLe pl 8 8
  let img := rdLe pl 16 8
  let map := rdLe pl 24 8
  checkPl [(0, 2), (8, 24)] [(0, out < 64), (1, into < 64), (8, !badHostRange p area 64), (16, !badHostRange p img 64),
    (24, !badHostRange p map 256)] pl
  guardE (p = .spn) wrongTarget
  guardE (!s.cores.any (fun c => s.ctxOf c = out && (s.cluster (s.cluOf c)).running)) (0x0505, 0)
  let plan := ctxPlan out (movedCores out map s) s
  let n := if img = 0 then (0, 0, 0) else imageCounts (s.rd p img 64)
  guardE (ctxFits out img map s) (0x0501, 0)
  guardE (!classBFull p 2 s) (0x0100, 0)
  let items := 1 + plan.entries.length + plan.objs.length + plan.waits.length + n.1 + n.2.1 + n.2.2
  pure (fun s => later (addJob p { q := q, code := 0x0404, core := 2, args := [out, into, area, img, map], total := items } s))

def execCtxSwitch (p : Part) (q : Req) (pl : Bytes) (s : State) : Out := run (q.wf p) (runCmd p q 0x0404 2 pl (judgeCtxSwitch p q)) s

/-- The switch: the outgoing context is saved, the incoming one restored, and the cores change context. -/
def ctxChange (b : BJob) (s : State) : State :=
  let arg := fun (i : Nat) => b.args.getD i 0
  let moved := movedCores (arg 0) (arg 4) s
  let plan := ctxPlan (arg 0) moved s
  let img := if arg 3 = 0 then [] else s.rd .spn (arg 3) (imageLen (arg 3) s)
  let s := (ctxLeave (arg 0) plan s).wr .spn (arg 2) (ctxImage plan s)
  let s := moved.foldl (fun s c => { s with spn.sync.coreCtx := tset 0 s.spn.sync.coreCtx c (arg 1) }.modCport c (fun k =>
    { k with pending := false })) s
  let s := if img.isEmpty then rejoinShared { s with spn.sync.saved := s.spn.sync.saved.filter (· ≠ arg 1) } else ctxEnter (arg 1) img s
  s.setEv .spn 0x0C08 7

/-- The last slice of a switch; an image that no longer fits leaves everything as it is (log entry 156). -/
def ctxCommit (b : BJob) (s : State) : State :=
  if ctxFits (b.args.getD 0 0) (b.args.getD 3 0) (b.args.getD 4 0) s then complete .spn b.q b.code b.core 0 0 [] (ctxChange b s)
  else complete .spn b.q b.code b.core 0x0501 0 [] s

/-! ## `SKEIN_DUMP` (R265) -/

/-- Records of a dump: the header, then translation, object and waiter records. -/
def skeinRecords : Nat := 1 + 16384 + 16384 + 2048

/-- Record `i` with its offset in the image, as it stands now. -/
def skeinRecord (i first : Nat) (frozen : Bool) (s : State) : Nat × Bytes :=
  let st := (s.stampOf .spn s.spnPart).1
  if i = 0 then (0, skeinHeader (bitAt frozen 0) (s.hea .spn) first st s.spnPart s.spnPepoch 16384 16384 2048)
  else if i ≤ 16384 then (64 + 8 * (i - 1), xlatRecord (tfind s.spn.sync.xlat (i - 1)))
  else if i ≤ 32768 then
    let pid := i - 16385
    (0x20040 + 48 * pid, objRecord pid (s.waitersOf pid).length (s.obj pid))
  else
    let core := i - 32769
    (0xE0040 + 32 * core, match tfind s.spn.sync.waiters core with
      | some w => waiterRecord core w.expiry w.operand false w
      | none => List.replicate 32 0)

/-- A slice of a dump writes records; at least 4 KiB of them. -/
def skeinSlice (b : BJob) (from_ n : Nat) (s : State) : State :=
  let s := (List.range n).foldl (fun s k =>
    let r := skeinRecord (from_ + k) (b.args.getD 2 0) (b.args.getD 1 0 = 1) s
    s.wr .spn (b.args.getD 0 0 + r.1) r.2) s
  { s with spn.sync.slices := (s.spn.sync.slices + 1) % 65536 }

/-- A dump that `CMD_ABORT` ends lets the queues go. -/
def skeinAbort (s : State) : State := { s with spn.sync.frozen := false, spn.sync.dumping := false }

/-- The last slice: the header with the last record's stamp and COMPLETE, and DUMP_DONE. -/
def skeinCommit (b : BJob) (s : State) : State :=
  let st := (s.stampOf .spn s.spnPart).1
  let h := skeinHeader (b.args.getD 1 0 + 2) (s.hea .spn) (b.args.getD 2 0) st s.spnPart s.spnPepoch 16384 16384 2048
  let s := s.wr .spn (b.args.getD 0 0) h
  complete .spn b.q b.code b.core 0 0 [] ((skeinAbort s).setEv .spn 0x0C08 6)

def judgeSkeinDump (p : Part) (q : Req) (s : State) (pl : Bytes) : Except Refuse (State → Effect) := do
  let a := rdLe pl 0 8
  let freeze := rdLe pl 8 1
  checkPl [(0, 9)] [(0, a % 64 = 0 && !badHostRange p a 983104), (8, freeze < 2)] pl
  guardE (p = .spn) wrongTarget
  guardE (freeze = 0 || s.lsState = 0 || s.lsState = 3 || s.lsState = 4) (0x0506, 0)
  guardE (!s.spn.sync.dumping) (0x0507, 0)
  guardE (!classBFull p 2 s) (0x0100, 0)
  pure (fun s =>
    let st := (s.stampOf .spn s.spnPart).1
    let s := { s with spn.sync.dumping := true, spn.sync.frozen := freeze = 1, spn.sync.slices := 0 }
    later (addJob p { q := q, code := 0x0406, core := 2, args := [a, freeze, st], total := skeinRecords } s))

def execSkeinDump (p : Part) (q : Req) (pl : Bytes) (s : State) : Out := run (q.wf p) (runCmd p q 0x0406 2 pl (judgeSkeinDump p q)) s

end Sys2Proof.Machine
end

