-- ==== Sys2Proof/Machine/Launch.lean ====
section
/-! DEFINITION. The launch sequencer of a member: launch tables, pending launches, settings banks and transactions, readiness, doff
and launch, votes and retries (R182 to R206, R521 to R529, R532). -/

namespace Sys2Proof.Machine

/-! ## Pending launches (R189, R198, R208) -/

/-- The next pending launch. -/
def State.nextPend (s : State) : Option Pend := s.spn.launch.pend.head?
/-- Count at which a launch is to take place: as GO names it, else as committed. -/
def Pend.at_ (p : Pend) : Nat := (p.go.map (·.1)).getD p.l

/-- SPN_LS_SEQ follows changes of CUR and NEXT. -/
def noteSeq (s s' : State) : State :=
  if s.curL = s'.curL && s.nextPend.map (·.l) = s'.nextPend.map (·.l) then s'
  else { s' with spn.launch.seq := (s'.spn.launch.seq + 1) % 65536 }

/-- Replaces the pending launches, ordered by L. -/
def setPend (l : List Pend) (s : State) : State := noteSeq s { s with spn.launch.pend := sortBy (·.l) l }

/-- A LAUNCH_SET; one that repeats a commit number it holds changes nothing. -/
def launchSet (l idx c : Nat) (s : State) : State :=
  if s.pendingC c then s
  else
    let late := decide (l < s.ldtc + 2 * s.spn.launch.trdy)
    let s := setPend (s.spn.launch.pend ++ [{ l := l, idx := idx, c := c }]) s
    if late then (s.setEv .spn 0x081C 6).raise .spn 0x1401 s.serves.1 [] else s

def execLaunchSetReceived (l idx c : Nat) (s : State) : Out := run true (launchSet l idx c) s

/-- Moves every pending launch from `l` on, with its transactions, by `by_`: readiness is judged anew. -/
def shiftLaunches (l by_ : Nat) (s : State) : State :=
  let s := { s with
    spn.banks.ptxns := s.spn.banks.ptxns.map (fun t => if l ≤ t.target then { t with target := t.target + by_ } else t) }
  setPend (s.spn.launch.pend.map (fun p =>
    if l ≤ p.l then { p with l := p.l + by_, go := none, ready := false, sent := false } else p)) s

/-- An applied slip: its event, and in fast mode the count of slips off the quantum's grid (R386). -/
def applySlip (l by_ : Nat) (s : State) : State :=
  let s := (shiftLaunches l by_ s).setEv .spn 0x081C 1
  if by_ % max 1 s.spn.launch.q ≠ 0 then ndAdd 3 1 s else s

/-- GO: the count at which to launch and the step's index. -/
def takeGo (l at_ idx : Nat) (s : State) : State :=
  setPend (s.spn.launch.pend.map (fun p => if p.l = l then { p with go := some (at_, idx) } else p)) s

def execGoReceived (l at_ idx : Nat) (s : State) : Out := run true (takeGo l at_ idx) s

/-! ## Transactions (R192 to R194, R206, R210) -/

/-- The bytes that the host and firmware own. -/
def dieScope (o : Nat) : Bool := bankFence ≤ o && o < 0x0920
/-- The bytes that the partition root owns. -/
def partScope (o : Nat) : Bool := o < 0x0004 || (0x0004 ≤ o && o < 0x0013) || (bankGroups ≤ o && o < 0x1800) || (bankSlotMap ≤ o && o < 0xE000)

/-- DENIED. -/
def denied (s : State) : State := s.setEv .spn 0x0824 2

/-- A transaction enters the shadow bank as a whole; a byte written before since the last doff shows OVERLAP. -/
def enterTxn (ws : List (Nat × Byte)) (s : State) : State :=
  let b := s.spn.banks
  let ovr := ws.any (fun w => b.touched.contains w.1)
  let s := { s with
    spn.banks.shadow := ws.foldl (fun m w => memPut m w.1 w.2) b.shadow
    spn.banks.touched := (b.touched ++ ws.map (·.1)).eraseDups }
  if ovr then s.setEv .spn 0x0824 3 else s

/-- Between the bank cut-off of the next doff and the end of the refill after it, no transaction enters. -/
def State.bankClosed (s : State) : Bool :=
  s.spn.launch.refill || s.nextPend.any (fun p => p.at_ ≤ s.ldtc + s.spn.launch.trdy)

/-- A die-scope transaction that closes enters now, or in the refill. -/
def enterOrHold (ws : List (Nat × Byte)) (s : State) : State :=
  if s.bankClosed then { s with spn.banks.heldTxns := s.spn.banks.heldTxns ++ [ws] } else enterTxn ws s

/-- The open transaction of a writer of the die scope: the host, or a firmware core through its own staging (R192). -/
def Banks.staged (w : Option Nat) (b : Banks) : Option Txn :=
  match w with
  | none => b.host
  | some c => (tget {} b.fw c).txn

/-- Replaces a writer's open transaction. -/
def stage (w : Option Nat) (t : Option Txn) (s : State) : State :=
  match w with
  | none => { s with spn.banks.host := t }
  | some c => { s with spn.banks.fw := tput s.spn.banks.fw c { tget {} s.spn.banks.fw c with txn := t } }

/-- PAGE and VIEW of a writer: the register's, or a core's own. -/
def State.bankCtl (w : Option Nat) (s : State) : Nat :=
  match w with
  | none => s.reg .spn 0x0820
  | some c => (tget {} s.spn.banks.fw c).ctl
def setBankCtl (w : Option Nat) (v : Nat) (s : State) : State :=
  match w with
  | none => s.setReg .spn 0x0820 v
  | some c => { s with spn.banks.fw := tput s.spn.banks.fw c { tget {} s.spn.banks.fw c with ctl := v } }

/-- A closed transaction of a writer; PENDING tells of the host's (R210). -/
def closeStaged (w : Option Nat) (t : Txn) (s : State) : State :=
  if t.conflict then s.setEv .spn 0x0824 1
  else enterOrHold t.writes (if w.isNone then { s with spn.banks.pending := true } else s)

/-- A write to SPN_BANK_CTRL, or of a firmware core to its own staging: ABORT before END, both before BEGIN (R192, R210). -/
def writeBankCtrl (w : Option Nat) (v : Nat) (s : State) : State :=
  let s := setBankCtl w (v &&& 0x70) s
  let s := match s.spn.banks.staged w with
    | none => if v.testBit 1 && !v.testBit 2 then denied s else s
    | some t =>
      if v.testBit 2 then stage w none s
      else if v.testBit 1 then closeStaged w t (stage w none s)
      else s
  if v.testBit 0 && (s.spn.banks.staged w).isNone then stage w (some {}) s else s

/-- A writer of the die scope: the host, or a firmware core of the Spindle. -/
def writerOk (w : Option Nat) : Bool := w.all (· < 35)

def execBankBegin (x : BankPort) (s : State) : Out := run (writerOk x.core) (writeBankCtrl x.core (x.word.toNat ||| 1)) s
def execBankEnd (x : BankPort) (s : State) : Out := run (writerOk x.core) (writeBankCtrl x.core (x.word.toNat ||| 2)) s
def execBankAbort (x : BankPort) (s : State) : Out := run (writerOk x.core) (writeBankCtrl x.core (x.word.toNat ||| 4)) s

/-- A word written to the settings-bank window. -/
def windowWrite (w : Option Nat) (off v : Nat) (s : State) : State :=
  let ctl := s.bankCtl w
  let at_ := 0x4000 * bits ctl 4 2 + (off - 0xC000)
  match s.spn.banks.staged w with
  | none => denied s
  | some t =>
    if ctl.testBit 6 then denied s
    else
      let ws := (List.range 4).map (fun i => (at_ + i, BitVec.ofNat 8 (v / 2 ^ (8 * i))))
      let mine := ws.filter (fun x => dieScope x.1)
      let s := if mine.length < 4 then denied s else s
      let t : Txn := { writes := t.writes ++ mine, conflict := t.conflict || mine.any (fun x => t.writes.any (fun y => y.1 = x.1)) }
      stage w (some t) s

def execBankWindowWrite (off : Nat) (x : BankPort) (s : State) : Out :=
  run (writerOk x.core && 0xC000 ≤ off && off < 0x1_0000 && off % 4 = 0) (windowWrite x.core off x.word.toNat) s

/-- The bytes that a partition-scope transaction's cells write. -/
def PTxn.writes (t : PTxn) : List (Nat × Byte) := t.cells.flatMap (fun c => c.2.zipIdx.map (fun b => (c.1 + b.2, b.1)))
def PTxn.complete (t : PTxn) : Bool := t.total = some t.cells.length
/-- A byte stands in two writes. -/
def twice : List Nat → Bool
  | [] => false
  | a :: l => l.contains a || twice l

/-- Whether a bank image names a partition and epoch. -/
def bankNames (m : Mem) (part pepoch : Nat) : Bool := bankNat m bankPart 2 = part && bankNat m bankPepoch 4 = pepoch

/-- Whether a complete transaction is the die's: its partition is named, or it writes the MEMBERSHIP that names it (R68). -/
def PTxn.mine (t : PTxn) (s : State) : Bool :=
  bankNames s.spn.banks.active t.part t.pepoch || bankNames s.spn.banks.shadow t.part t.pepoch
    || bankNames (t.writes.foldl (fun m w => memPut m w.1 w.2) []) t.part t.pepoch

/-- A complete transaction whose entry point has come enters, or is discarded for a conflict or as another's. -/
def enterPtxn (t : PTxn) (s : State) : State :=
  let ws := t.writes
  let drop := fun (s : State) => { s with spn.banks.ptxns := s.spn.banks.ptxns.filter (fun x => !(x.tno = t.tno && x.part = t.part && x.pepoch = t.pepoch)) }
  if !t.mine s then drop s
  else if twice (ws.map (·.1)) then drop (s.setEv .spn 0x0824 1)
  else
    let s := { s with
      spn.banks.ptxns := s.spn.banks.ptxns.map (fun x => if x.tno = t.tno && x.part = t.part && x.pepoch = t.pepoch then { x with entered := true } else x) }
    let s := if ws.any (fun w => !partScope w.1) then denied s else s
    let s := enterTxn (ws.filter (fun w => partScope w.1)) s
    let part := bankNat s.spn.banks.shadow bankPart 2
    if part = 0 || !ws.any (fun w => w.1 < bankFstep) then s
    else sendConfirm { s with spn.banks.confirm := some (part, bankNat s.spn.banks.shadow bankPepoch 4, [.a, .b]) }

/-- Enters every complete transaction whose target is the next pending launch, while the shadow bank is open. A transaction of
set-up, with target 0, enters at once (log entry 42). -/
def enterReady (s : State) : State :=
  s.spn.banks.ptxns.foldl (fun s t =>
    let due := t.target = 0 || (!s.bankClosed && s.nextPend.all (fun p => t.target ≤ p.l))
    if t.complete && !t.entered && due then enterPtxn t s else s) s

/-- What waits for its entry point enters, unless the shadow bank is closed: held transactions in their order of closing, then those that
target the next launch (R193). -/
def enterHeld (s : State) : State :=
  if s.bankClosed then s
  else
    let held := s.spn.banks.heldTxns
    enterReady (held.foldl (fun s ws => enterTxn ws s) { s with spn.banks.heldTxns := [] })

/-- WITHDRAW: later launches keep their counts; what waited for the launch waits for the next (R188). -/
def withdraw (l : Nat) (s : State) : State :=
  match s.spn.launch.pend.find? (fun p => p.l = l) with
  | none => s
  | some p => enterHeld (retargetSeeds p.c (setPend (s.spn.launch.pend.filter (fun p => p.l ≠ l)) s))

def execWithdrawReceived (l : Nat) (s : State) : Out := run true (withdraw l) s

/-- Puts a cell of a transaction with those the die holds; `f` adds what the cell brings. -/
def stagePtxn (part pepoch target tno : Nat) (tree : Bool) (f : PTxn → PTxn) (s : State) : State :=
  let named := bankNames s.spn.banks.active part pepoch || bankNames s.spn.banks.shadow part pepoch
  if tree && !named then s.portCount .spn (planeNat s.spn.banks.plane) 0x28 1
  else
    let isIt := fun (x : PTxn) => x.tno = tno && x.part = part && x.pepoch = pepoch
    let l := s.spn.banks.ptxns
    let l := if l.any isIt then l else l ++ [{ tno := tno, target := target, part := part, pepoch := pepoch }]
    enterReady { s with spn.banks.ptxns := l.map (fun x => if isIt x then f x else x) }

/-- BANK_WRITE; a repeat of a cell that it holds is ignored. -/
def bankWrite (m : BankWriteMsg) (s : State) : State :=
  stagePtxn m.part m.pepoch m.target m.tno m.tree (fun t =>
    if t.entered || t.cells.contains (m.off, m.data) then t else { t with cells := t.cells ++ [(m.off, m.data)] }) s

def execBankWriteReceived (m : BankWriteMsg) (s : State) : Out := run true (bankWrite m) s

def bankEndCell (m : BankEndMsg) (s : State) : State :=
  stagePtxn m.part m.pepoch m.target m.tno m.tree (fun t => { t with total := some m.cells }) s

def execBankEndReceived (m : BankEndMsg) (s : State) : Out := run true (bankEndCell m) s

/-- The refill after a doff: what was held enters, then what targets the next launch. -/
def shadowRefill (s : State) : State :=
  if !s.spn.launch.refill then s
  else
    let held := s.spn.banks.heldTxns
    let s := { s with spn.launch.refill := false, spn.banks.heldTxns := [] }
    enterReady (held.foldl (fun s ws => enterTxn ws s) s)

def execShadowRefill (s : State) : Out := run true shadowRefill s

/-- SLIP; a transaction that its new count leaves time for may enter. -/
def takeSlip (l l' : Nat) (s : State) : State := enterReady (applySlip l (l' - l) s)

def execSlipReceived (l l' n hea reason : Nat) (s : State) : Out := run (n < 2 ^ 32 && hea < 2 ^ 32 && reason < 256) (takeSlip l l') s

/-! ## Readiness (R195 to R197, R204) -/

/-- Clusters that run the current step. -/
def State.stepClusters (s : State) : List Nat :=
  let m := ((s.spn.launch.cur.bind (·.desc)).map (·.clusters)).getD 0
  (List.range 32).filter (fun c => m.testBit c)

/-- Cycles of NOMINAL that a cluster has still to run. -/
def State.cyclesLeft (s : State) (c : Nat) : Nat :=
  let x := s.cluster c
  if !x.running then 0
  else
    let nominal := ((s.spn.launch.cur.bind (·.desc)).map (·.nominal)).getD 0
    let ps := (s.ldtc - s.curL) * 1000 - x.resid
    nominal - (ps * s.mhz s.eff * 8 / 1_000_000 - x.eighths) / 8

/-- A running cluster's projected end. -/
def State.projEnd (s : State) (c : Nat) : Nat :=
  let r := s.cyclesLeft c
  s.ldtc + ceilDiv ((r + 2 + r / 32) * 1000) (max 1 (s.mhz s.eff))

/-- The guard test. -/
def State.guardOk (s : State) (c : Nat) : Bool :=
  let x := s.cluster c
  let r := s.cyclesLeft c
  let guard_ := ((s.spn.launch.cur.bind (·.desc)).map (·.guard_)).getD 0
  (if x.running then x.s + 2 + r / 32 else x.s) ≤ guard_

/-- Whether the local state lets the die launch (R196). -/
def State.timeReady (s : State) : Bool :=
  let l := s.localState .spn
  l = 0 || l = 3 || (l = 1 && s.spn.launch.everLocked && !s.sc.time.reacq)

/-- Whether a step may launch: not in power state HOLD, nor after it until LOCKED (R47, R49, R120). -/
def State.launchTime (s : State) : Bool := s.sc.sec.power ≠ 2 && !s.sc.time.reacq

/-- The first failing condition for the launch at `l`, with its cluster; none when ready. -/
def notReadyFor (l : Nat) (s : State) : Option (Nat × Nat) :=
  let running := s.stepClusters.filter (fun c => (s.cluster c).running)
  if !s.timeReady then some (1, 0)
  else if !s.spn.launch.pend.any (fun p => p.l = l && (tfind s.spn.launch.table p.idx).isSome) then some (2, 0)
  else match s.stepClusters.find? (fun c => !s.guardOk c) with
    | some c => some (3, c)
    | none =>
      match running.find? (fun c => l < s.projEnd c + 256) with
      | some c => some (4, c)
      | none =>
        if s.spn.banks.ptxns.any (fun t => t.target ≠ 0 && t.target ≤ l && !t.complete) then some (5, 0)
        else if 2 ≤ s.sc.sec.power || s.sc.sec.debug = 2 || s.spn.wh.tripped || s.spn.clocks.settleFail.any (fun c => (s.region c).stopped) then
          some (6, 0)
        else none

/-- The READY cell of a member (R187). -/
def readyBody (l : Nat) (why : Option Nat) (early : Bool) (hea e : Nat) : Bytes :=
  lay [(8, l), (1, bitAt why.isNone 0 + 2 * why.getD 0), (1, bitAt early 0), (4, if why.isSome then 1 else 0),
    (4, if why.isSome then hea else noHea), (8, e)]

/-- The readiness evaluation for the launch at `l`: at L - T_RDY, or earlier where it is the next launch and every condition holds; once
for each count. -/
def evalReady (l : Nat) (s : State) : State :=
  let pend := s.spn.launch.pend.find? (fun p => p.l = l)
  let why := notReadyFor l s
  let before := s.ldtc + s.spn.launch.trdy < l
  let next := s.spn.launch.next_.isNone && s.nextPend.any (fun p => p.l = l)
  if s.serves.1 = 0 || pend.any (·.sent) || (before && (why.isSome || !next)) then s
  else
    let running := s.stepClusters.filter (fun c => (s.cluster c).running)
    let e := if running.isEmpty then l - s.spn.launch.trdy else (running.map s.projEnd).foldl max 0
    let early := (pend.bind (fun p => tfind s.spn.launch.table p.idx)).any (fun d => d.flags.testBit 0)
    let s := match why with
      | none => s
      | some (3, c) =>
        let g := ((s.spn.launch.cur.bind (·.desc)).map (·.guard_)).getD 0
        sendStraggler l 1 c (((s.setEv .spn 0x081C 2).setEv .spn 0x081C 3).raise .spn 0x1403 s.serves.1 [c, (s.cluster c).s, g])
      | some _ => s.setEv .spn 0x081C 2
    let s := upLaunchTree 0x02 (readyBody l (why.map (·.1)) early (s.hea .spn) e) s
    { s with
        spn.launch.pend := s.spn.launch.pend.map (fun p => if p.l = l then { p with sent := true, ready := why.isNone } else p) }

def execReadinessEvaluation (l : Nat) (s : State) : Out := run true (evalReady l) s

/-- Every core of the cluster that is not fenced has ended, with no wait and no arrival: the cluster has ended its step, and its
region is gated until the next launch; with the last the others are too (R217, R284, R290). -/
def clusterEnd (c : Nat) (s : State) : State :=
  let mine := s.cores.filter (fun core => s.cluOf core = c && !s.fenced core)
  let busy := mine.any (fun core => s.coreWaits core || (List.range 8).any (fun ch => (s.bchan ch).arrived.contains core))
  if !(s.cluster c).running || busy then s
  else
    let s := idleCores c (s.modCluster c (fun x => { x with running := false }))
    let s := if s.spn.clocks.regions.any (fun e => e.1 = c) then s.modRegion c (fun r => { r with gated := true }) else s
    if s.spn.launch.clusters.any (fun (e : Nat × Cluster) => e.2.running) then s else gateIdle s

def execClusterStepEnd (c : Nat) (s : State) : Out := run (c < 32) (clusterEnd c) s

/-- SPN_STEPFAIL fails the step that ended less than 1,000 ns ago, else the running one (R544). -/
def stepFail (s : State) : State :=
  if s.spn.launch.past.any (fun u => u.endedAt.any (fun t => s.ldtc < t + 1000) && !u.voted) then failEnded 9 s else failStepC s.stepC 9 s

def execStepfailInput (s : State) : Out := run true stepFail s

/-! ## The doff (R200 to R202, R524, R532) -/

/-- LAUNCH_FAULT: 1 `LAUNCH_MISSED`, 2 `STEP_OVERRUN`. -/
def sendFault (l kind : Nat) (s : State) : State := toRoot 0x07 (lay [(8, l), (1, kind)]) s

/-- The step last launched ends at `d`. -/
def endCurrent (d : Nat) (s : State) : State :=
  let l := s.spn.launch.cur.map (·.l)
  { s with
      spn.launch.past := s.spn.launch.past.map (fun u => if some u.l = l && u.endedAt.isNone then { u with endedAt := some d } else u) }

/-- The bank image that a launch starts from: the kept one of the attempt it repeats, else the shadow bank. -/
def launchImage (p : Pend) (s : State) : Mem :=
  let b := s.spn.banks
  match p.retryOf.bind (fun l => s.spn.launch.past.find? (fun u => u.l = l)) with
  | some u => [bankFstep, bankFceil, bankBallast].foldl (fun m o => memPut m o (memByte b.shadow o)) u.image
  | none => b.shadow

/-- The generation of a launch: that of the attempt it repeats, else the one in force (R390). -/
def launchGen (p : Pend) (s : State) : Nat :=
  match p.retryOf.bind (fun l => s.spn.launch.past.find? (fun u => u.l = l)) with
  | some u => u.gen
  | none => s.spn.det.gen

/-- Drops the kept entry of the attempt that a launch repeats. -/
def dropRetried (p : Pend) (s : State) : State :=
  { s with spn.launch.past := s.spn.launch.past.filter (fun u => some u.l ≠ p.retryOf) }

/-- The determinism unit at D, once for each step that ends: not again at a doff after a missed launch. -/
def digestEnd (m : DoffIn) (s : State) : State := if s.spn.launch.held then s else digestDoff m.temp m.vmin s

/-- A launch for which neither GO nor SLIP has come at D: the step before ends there too. -/
def missLaunch (p : Pend) (m : DoffIn) (s : State) : State :=
  let img := launchImage p s
  let desc := tfind s.spn.launch.table p.idx
  let u : Uncommitted :=
    { l := p.l, c := p.c, idx := p.idx, stepIdx := s.stepIndex, image := img, gen := launchGen p s, causes := [6], endedAt := some (p.l - 256),
      part := s.serves.1, pepoch := s.serves.2, attempt := p.attempt, compute := desc.any (fun d => d.kind = 0), noRetry := desc.any (fun d => d.flags.testBit 1) }
  let s := (List.range 8).foldl (fun s ch => clearArrivals ch s) (crossingResidue (gateIdle (endCurrent (p.l - 256) s)))
  let s := dropRetried p (digestEnd m s)
  let s := { s with
    spn.launch.past := s.spn.launch.past ++ [u], spn.launch.held := true, spn.launch.missRun := s.spn.launch.missRun + 1 }
  let s := enterHeld (setPend (s.spn.launch.pend.filter (fun x => x.c ≠ p.c)) s)
  let s := sendFault p.l 1 ((s.setEv .spn 0x081C 4).raise .spn 0x1404 s.serves.1 [])
  if 2 ≤ s.spn.launch.missRun then rootLostReport s else s

/-- Window snapshots of re-aligned objects at a doff whose commit number is a multiple of REALIGN_K (R261). -/
def realignSnap (c : Nat) (s : State) : State :=
  let k := bits (s.reg .spn 0x0C00) 8 16
  if k = 0 || c % k ≠ 0 then s
  else
    let mine := s.spn.sync.objs.filter (fun (e : Nat × Obj) => e.2.typ = .count && e.2.realign)
    let s := { s with spn.sync.snaps := mine.map (fun e => (e.1, e.2.value, e.2.sigWin, e.2.takeWin)) }
    mine.foldl (fun s e => touchObj e.1 (s.modObj e.1 (fun o => { o with sigWin := 0, takeWin := 0 }))) s

/-- What a die that leaves its partition frees: DATA objects with their waits, IN and OUT, digest slots, and what it holds of
launches but for the step that just ended, on which it still votes. -/
def leavePartition (s : State) : State :=
  let data := (s.spn.sync.objs.filter (fun (e : Nat × Obj) => !e.2.control)).map (·.1)
  let s := data.foldl (fun s pid => (s.waitersOf pid).foldl (fun s e =>
    releaseWait e.1 0x0D (((s.obj pid).map (·.value)).getD 0) s) s) s
  let s := { s with
    spn.sync.objs := s.spn.sync.objs.filter (fun (e : Nat × Obj) => e.2.control)
    spn.sync.xlat := s.spn.sync.xlat.filter (fun (e : Nat × Xlat) => !data.contains e.2.pid)
    spn.ply.area := []
    spn.det.slots := [], spn.det.late := [], spn.det.expect := [], spn.det.mism := [] }
  { s with
      spn.launch.past := s.spn.launch.past.filter (fun u => u.endedAt.isSome && !u.voted), spn.launch.cur := none, spn.launch.next_ := none, spn.launch.held := false, spn.launch.missRun := 0,
      spn.launch.lastC := 0, spn.launch.seenC := 0, spn.launch.everLocked := false, spn.takenOver := none }

/-- What a die that joins a partition begins with (R387). -/
def joinPartition (s : State) : State :=
  let l := s.localState .spn
  let s := ndClear s
  { s with
      spn.det.ndStep := 0, spn.det.ndLane := 0, spn.launch.everLocked := l = 0 || l = 3
      spn.launch.lastC := 0, spn.launch.seenC := 0 }

/-- The settings that act from D on: the active bank's, with the ballast unless a trip holds it at 0 (R544). -/
def swapBanks (p : Pend) (img : Mem) (s : State) : State :=
  let fresh := p.retryOf.isNone
  let s := { s with
    spn.banks.active := img, spn.banks.doffs := (s.spn.banks.doffs + 1) % 65536, spn.launch.refill := true
    spn.wh.ballast := if s.spn.wh.tripped then 0 else bankNat img bankBallast 1 }
  if fresh then
    { s with
        spn.banks.pending := !s.spn.banks.heldTxns.isEmpty, spn.banks.touched := []
        spn.banks.ptxns := s.spn.banks.ptxns.filter (fun t => !t.entered) }
  else s

/-- At D the step before ends and is judged: overrun clusters, residues at the crossings, barriers, margins and the digest. -/
def doffEnd (p : Pend) (at_ : Nat) (m : DoffIn) (s : State) : State :=
  let ovr := (List.range 32).filter (fun c => (s.cluster c).running)
  let part := s.spnPart
  let eff := s.eff
  let s := ovr.foldl (fun s c => (s.setEv .spn 0x081C 5).raise .spn 0x1405 part [c]) s
  let s := if ovr.isEmpty then s else sendFault p.l 2 s
  let s := realignSnap p.c (crossingResidue (gateIdle (endCurrent (at_ - 256) s)))
  let s := if (List.range 8).any (fun ch => !(s.bchan ch).arrived.isEmpty) then failEnded 4 s else s
  digestEnd m (marginDoff eff at_ s)

/-- The banks swap; a partition that the new bank leaves or joins is left or joined. -/
def doffSwap (p : Pend) (img : Mem) (s : State) : State :=
  let oldPart := s.spnPart
  let s := swapBanks p img (latchRegions (dropRetried p s))
  let s := if oldPart ≠ 0 && s.spnPart ≠ oldPart then leavePartition s else s
  if s.spnPart ≠ 0 && s.spnPart ≠ oldPart then joinPartition s else s

/-- What a doff leaves for the launch and the wind unit. -/
def doffMarks (p : Pend) (at_ : Nat) (s : State) : State :=
  { s with
      spn.launch.lastC := max s.spn.launch.lastC p.c, spn.launch.doffL := some at_, spn.wh.lastD := some s.sc.time.tick, spn.wh.pulse := some s.sc.time.tick }

/-- The launch that doffs is pending no longer; a die that serves no partition has none. -/
def doffPend (p : Pend) (s : State) : State :=
  let l := if s.spnPart = 0 then [] else s.spn.launch.pend.filter (fun x => x.c ≠ p.c)
  setPend l (s.setEv .spn 0x081C 7)

/-- Channels, seeds and clocks take up what the new bank says. -/
def doffUnits (p : Pend) (at_ : Nat) (s : State) : State :=
  let s := applySeeds p.c (barDoff p.c (fenceWaits s))
  doffPend p (doffMarks p at_ (freqDoff s.eff s))

/-- The launch waits for L, and the clock round of the partition takes the die's ceiling. -/
def doffArm (p : Pend) (n : Cur) (u : Uncommitted) (s : State) : State :=
  if s.spnPart = 0 then s
  else
    let s := { s with spn.launch.past := s.spn.launch.past ++ [u] }
    let s := { s with spn.launch.next_ := some n }
    let c := s.gcfg 63
    if c.valid && c.member && c.source = 1 then contributeService 63 p.c 0 c [s.spn.clocks.mceil] s else s

/-- The doff of a launch that has its GO: the step before ends and is judged, the banks swap, channels, seeds, clocks and the clock
round follow, and the launch waits for L. -/
def doffNow (p : Pend) (at_ idx : Nat) (m : DoffIn) (s : State) : State :=
  let desc := tfind s.spn.launch.table p.idx
  let ovr := (List.range 32).any (fun c => (s.cluster c).running)
  let s := doffEnd p at_ m s
  let img := launchImage p s
  let retryGen := launchGen p s
  let s := doffUnits p at_ (doffSwap p img s)
  let gen := if p.retryOf.isSome then retryGen else s.spn.det.gen
  let u : Uncommitted :=
    { l := at_, c := p.c, idx := p.idx, stepIdx := idx, image := img, gen := gen, causes := if ovr then [7] else [], attempt := p.attempt,
      part := s.spnPart, pepoch := s.spnPepoch, compute := desc.any (fun d => d.kind = 0), noRetry := desc.any (fun d => d.flags.testBit 1) }
  let n : Cur := { l := at_, committedL := p.l, idx := p.idx, c := p.c, stepIdx := idx, desc := desc, gen := gen, attempt := p.attempt }
  doffArm p n u s

/-- D of the next pending launch, once it has come. In HOLD, and until LOCKED after it, the launch is missed (R47, R49; log entry 141). -/
def doff (m : DoffIn) (s : State) : State :=
  match s.nextPend with
  | none => s
  | some p =>
    if s.ldtc + 256 < p.at_ || s.spn.launch.next_.isSome then s
    else match p.go with
      | some (at_, idx) => if s.launchTime then doffNow p at_ idx m s else missLaunch p m s
      | none => missLaunch p m s

def execDoff (m : DoffIn) (s : State) : Out := run true (doff m) s

/-! ## The launch (R203, R211, R225) -/

/-- Starts a cluster at its launch wire. The residual lies within a period of its clock and 350 ps; its value is free (log entry
5). -/
def startCluster (c : Nat) (s : State) : State :=
  let d := s.draw
  let period := 1_000_000 / max 1 (s.mhz s.eff)
  let s := d.2.modCluster c (fun _ => { running := true, s := 0, eighths := 0, resid := d.1 % (period + 351) })
  s.modRegion c (fun r => { r with gated := false, debt := 0, cyc := 0 })

/-- The launch wire fires: every cluster of the step whose region runs begins; another fails the step with cause 6. -/
def launchNow (n : Cur) (s : State) : State :=
  let mask := (n.desc.map (·.clusters)).getD 0
  let want := (List.range 32).filter (fun c => mask.testBit c && !(s.cluster c).running)
  let canRun := fun (c : Nat) => (s.region c).present && !(s.region c).stopped && !s.spn.wh.tripped && s.launchTime
  let s := { s with
    spn.launch.cur := some n, spn.launch.next_ := none, spn.launch.doffL := none, spn.launch.held := false, spn.launch.missRun := 0
    spn.det.slots := s.spn.det.late, spn.det.late := [], spn.det.stepIdx := n.stepIdx
    spn.ply.round := [], spn.ply.digRounds := 0
    spn.launch.clusters := s.spn.launch.clusters.filter (fun (e : Nat × Cluster) => e.2.running) }
  let s := if s.spn.wh.tripped then s else ungateAll s
  let s := (want.filter canRun).foldl (fun s c => startCluster c s) s
  let s := if want.all canRun then s else failStepC n.c 6 s
  let s := if n.l < n.committedL then ndAdd 2 1 s else s
  s.setEv .spn 0x081C 0

def launch (s : State) : State :=
  match s.spn.launch.next_ with
  | none => s
  | some n => if s.ldtc < n.l then s else noteSeq s (launchNow n s)

def execLaunch (s : State) : Out := run true launch s

/-! ## Votes and verdicts (R521 to R524) -/

/-- The vote on a step that ended. -/
def voteBody (u : Uncommitted) (hea : Nat) : Bytes :=
  let ok := u.causes.isEmpty
  lay [(8, u.l), (1, bitAt ok 0 + 2 * (if ok then 0 else u.causes.foldl min 127)), (1, bitAt u.noRetry 0), (4, if ok then 0 else 1),
    (4, if ok then noHea else hea)]

/-- A vote goes up the launch tree of the partition that launched the step. -/
def sendVote (u : Uncommitted) (s : State) : State :=
  sendCell .spn (planeNat s.spn.banks.plane)
    { ctlCell 0x0C u.part u.pepoch (voteBody u (s.hea .spn)) with tree := true, up := true, dst := launchTree } s

/-- Votes that are due: 1,100 ns after the D at which a step ended. Of a partition that the die has left it keeps nothing more. -/
def sendVotes (s : State) : State :=
  let now := (dtcOf (s.gt .spn) s.spn.banks.epochS s.spn.banks.dcor).getD 0
  let due := s.spn.launch.past.filter (fun u => !u.voted && u.endedAt.any (fun t => t + 1100 ≤ now))
  let s := due.foldl (fun s u => sendVote u s) s
  let past := s.spn.launch.past.map (fun u => if due.any (fun x => x.l = u.l) then { u with voted := true } else u)
  { s with spn.launch.past := past.filter (fun u => !u.voted || (u.part = s.serves.1 && !u.dead)) }

def execCommitVoteSend (s : State) : Out := run true sendVotes s

/-- The retry launches of a failed step and of the one after it, as far as the member launched them. -/
def retryPends (m : CommitMsg) (u next : Option Uncommitted) : List Pend :=
  (u.toList.map (fun u => ({ l := m.rl, idx := u.idx, c := m.rc, retryOf := some u.l, attempt := u.attempt + 1 } : Pend)))
  ++ next.toList.map (fun v =>
    ({ l := m.rl + (v.l - m.l), idx := v.idx, c := m.rc + 1, retryOf := some v.l, attempt := v.attempt + 1 } : Pend))

/-- The undecided steps after a failure without a retry: the failed one goes, and the step after it falls with it (unless the failure is
a held launch's, cause 11): it goes at once or, where its vote is still due, after that. -/
def failedForGood (m : CommitMsg) (next : Option Uncommitted) (past : List Uncommitted) : List Uncommitted :=
  let falls (u : Uncommitted) : Bool := m.cause ≠ 11 && next.any (fun v => v.l = u.l)
  ((past.filter (fun u => u.l ≠ m.l)).filter (fun u => !(falls u && u.voted))).map (fun u => if falls u then { u with dead := true } else u)

/-- A verdict: a committed step's fold is compared and its image dropped; a failed one moves every pending launch and brings the two
retry launches, or none where the verdict names none. A member that did not launch the failed step takes the rest. -/
def takeVerdict (m : CommitMsg) (s : State) : State :=
  let u := s.spn.launch.past.find? (fun u => u.l = m.l)
  if m.committed then
    match u with
    | none => s
    | some u => pruneGens (foldCommit u { s with spn.launch.past := s.spn.launch.past.filter (fun x => x.l ≠ m.l), spn.launch.seenC := m.c })
  else
    let next := (sortBy (·.l) (s.spn.launch.past.filter (fun x => m.l < x.l))).head?
    if m.rl = 0 then { s with spn.launch.past := failedForGood m next s.spn.launch.past } else
    let s := if s.spn.launch.pend.isEmpty || m.sigma = 0 then s else applySlip 0 m.sigma s
    setPend (s.spn.launch.pend ++ retryPends m u next) s

def execCommitReceived (m : CommitMsg) (s : State) : Out := run true (takeVerdict m) s

/-- TAKEOVER: from here on the partition's cells come from the new root's plane, from the root beside the old one. -/
def takeTakeover (plane : Plane) (_c : Nat) (s : State) : State :=
  if s.spnPart = 0 then s
  else
    let root := if s.spn.banks.plane = plane then s.spn.launch.rootHea else s.spn.launch.rootHea ^^^ 16
    { s with spn.takenOver := some plane, spn.banks.plane := plane, spn.launch.rootHea := root }

def execTakeoverReceived (plane : Plane) (c : Nat) (s : State) : Out := run true (takeTakeover plane c) s

/-! ## The launch table (R183 to R185, R435) -/

def descOf (b : Bytes) : Desc :=
  { kind := rdLe b 2 1, flags := rdLe b 3 1, prog := rdLe b 4 4, clusters := rdLe b 8 4, nominal := rdLe b 12 4, guard_ := rdLe b 16 2,
    seedIdx := rdLe b 18 1, digests := rdLe b 20 2, tag := rdLe b 24 8, arg := rdLe b 32 8, tableId := rdLe b 48 4 }

/-- Offset of the first of some checks that fails. -/
def firstBad (checks : List (Nat × Bool)) : Option Nat := (checks.find? (fun c => !c.2)).map (·.1)

/-- The first field of a descriptor whose value is reserved (R10, R182). -/
def descReserved (b : Bytes) : Option Nat :=
  let d := descOf b
  firstBad [(0, rdLe b 0 2 = 1), (2, d.kind < 3), (3, d.flags < 4), (19, rdLe b 19 1 = 0), (20, d.digests ≤ 256), (22, rdLe b 22 2 = 0),
    (40, rdLe b 40 8 = 0), (52, rdLe b 52 4 = 0)]

/-- The first field of a descriptor that R183 refuses. -/
def descBad (b : Bytes) : Option Nat :=
  let d := descOf b
  let idle := d.kind = 2
  firstBad [(4, d.prog % 64 = 0 && (!idle || d.prog = 0)), (8, if idle then d.clusters = 0 else (d.kind ≠ 0 || d.clusters ≠ 0)),
    (12, if idle then d.nominal = 0 else (d.kind ≠ 0 || d.nominal ≠ 0))]

/-- The checks of written descriptors, each kind over all of them, in their order: reserved values, CHECK, fields (R183, R445). -/
def descCheck (ds : List Bytes) (imageId : Nat) : Except Refuse Unit :=
  match ds.findSome? descReserved with
  | some o => .error (invalidField 4 o)
  | none =>
    if ds.any (fun b => (sha384 (b.take 56)).take 8 ≠ (b.drop 56).take 8) then .error (0x0407, 0)
    else match ds.findSome? descBad with
      | some o => .error (invalidField 4 o)
      | none => if ds.any (fun b => rdLe b 48 4 ≠ imageId) then .error (invalidField 4 48) else .ok ()

/-- Launch-table indices that a pending, running or undecided launch pins (R185, R523). -/
def State.pinned (s : State) : List Nat :=
  let l := s.spn.launch
  l.pend.map (·.idx) ++ l.next_.toList.map (·.idx) ++ ((l.cur.toList.filter (fun c => l.past.any (fun u => u.l = c.l && u.endedAt.isNone))).map (·.idx))
    ++ (l.past.filter (fun u => 0 < u.attempt)).map (·.idx)

/-- Refuses a range with a pinned index, naming the first. -/
def notPinned (first n : Nat) (s : State) : Except Refuse Unit :=
  match ((s.pinned.filter (fun i => first ≤ i && i < first + n)).min?) with
  | some i => .error (0x0408, i)
  | none => .ok ()

/-- Descriptor `k` of a launch-table image. -/
def imageDesc (img : Bytes) (k : Nat) : Bytes := ((imgPayload img).drop (64 + 64 * k)).take 64

/-- A launch-table image that SEC accepts. -/
def tableImage (img : Bytes) (s : State) : Bool :=
  rdLe img 6 1 = 3 && imgAccepted .spn img s &&
    (let n := rdLe (imgPayload img) 0 4
     1 ≤ n && n ≤ 4096 && 64 + 64 * n ≤ imgLen img && rdLe (imgPayload img) 8 56 = 0)

def judgeDescWrite (p : Part) (s : State) (pl : Bytes) : Except Refuse (State → Effect) := do
  let idx := rdLe pl 0 2
  let k := rdLe pl 2 2
  let a := rdLe pl 8 8
  let n := rdLe pl 16 4
  checkPl [(0, 4), (8, 12)] [(0, idx < 4096), (8, !badHostRange .spn a n)] pl
  guardE (p = .spn) wrongTarget
  let img := s.rd .spn a n
  guardE (tableImage img s) (0x0202, 0)
  field (k < rdLe (imgPayload img) 0 4) 2
  descCheck [imageDesc img k] (rdLe img 24 4)
  notPinned idx 1 s
  pure (fun s => okWith { s with spn.launch.table := tput s.spn.launch.table idx (descOf (imageDesc img k)) })

def execDescWrite (p : Part) (q : Req) (pl : Bytes) (s : State) : Out := run (q.wf p) (runCmd p q 0x0309 2 pl (judgeDescWrite p)) s

/-- `LAUNCH_TABLE_LOAD` names an image and the range of its entries to load. -/
def judgeTableLoad (p : Part) (q : Req) (s : State) (pl : Bytes) : Except Refuse (State → Effect) := do
  let a := rdLe pl 0 8
  let n := rdLe pl 8 4
  let first := rdLe pl 12 2
  let count := rdLe pl 14 2
  checkPl [(0, 16)] [(0, !badHostRange .spn a n), (12, first < 4096)] pl
  guardE (p = .spn) wrongTarget
  let img := s.rd .spn a n
  let base := rdLe (imgPayload img) 4 4
  let total := rdLe (imgPayload img) 0 4
  let lo := if count = 0 then base else first
  let cnt := if count = 0 then total else count
  guardE (tableImage img s) (0x0202, 0)
  field (base ≤ lo && lo + cnt ≤ base + total && lo + cnt ≤ 4096) 12
  descCheck ((List.range cnt).map (fun i => imageDesc img (lo + i - base))) (rdLe img 24 4)
  notPinned lo cnt s
  guardE (!classBFull .spn 2 s) (0x0100, 0)
  pure (fun s => later (addJob .spn { q := q, code := 0x0308, core := 2, args := [a, n, lo, cnt, base], total := cnt, staged := img } s))

def execLaunchTableLoad (p : Part) (q : Req) (pl : Bytes) (s : State) : Out := run (q.wf p) (runCmd p q 0x0308 2 pl (judgeTableLoad p q)) s

/-- The last slice writes the range whole; entries that a LAUNCH_SET has pinned meanwhile refuse it. -/
def tableCommit (b : BJob) (s : State) : State :=
  let lo := b.args.getD 2 0
  let cnt := b.args.getD 3 0
  let base := b.args.getD 4 0
  match notPinned lo cnt s with
  | .error r => complete .spn b.q b.code b.core r.1 r.2 [] s
  | .ok _ =>
    let t := (List.range cnt).foldl (fun t i => tput t (lo + i) (descOf (imageDesc b.staged (lo + i - base)))) s.spn.launch.table
    complete .spn b.q b.code b.core 0 0 (le 4 cnt) { s with spn.launch.table := t }

end Sys2Proof.Machine
end

