-- ==== Sys2Proof/Machine/Requests.lean ====
section
/-! DEFINITION. Requests at the root: the request table's entries, the nodes they pin, and their mirroring to the standby root (R351, R353,
R363, R376, R453). -/

namespace Sys2Proof.Machine

/-! ## The request table and pinned nodes (R351, R363) -/

def State.req (s : State) (idx : Nat) : Option ReqEnt := tfind s.crl.planner.reqs idx
/-- Changes an entry: GEN counts each change. -/
def State.modReq (idx : Nat) (f : ReqEnt → ReqEnt) (s : State) : State :=
  match s.req idx with
  | some e => { s with crl.planner.reqs := tput s.crl.planner.reqs idx (let e := f e; { e with gen := (e.gen + 1) % 2 ^ 32 }) }
  | none => s
/-- Changes what the model keeps of an entry beside its bytes. -/
def noteReq (idx : Nat) (f : ReqEnt → ReqEnt) (s : State) : State :=
  match s.req idx with
  | some e => { s with crl.planner.reqs := tput s.crl.planner.reqs idx (f e) }
  | none => s
/-- The entry of a submission number, with its index. -/
def State.reqSeq (s : State) (seq : Nat) : Option (Nat × ReqEnt) := s.crl.planner.reqs.find? (fun (e : Nat × ReqEnt) => e.2.seq = seq)

/-- A change of STATE at a partition's count. -/
def setReqState (idx : Nat) (st : ReqState) (s : State) : State :=
  let now := s.crlDtc (((s.req idx).map (·.part)).getD 0)
  s.modReq idx (fun e => { e with state := st, tState := now })

def State.modNode (n : Nat) (f : PNode → PNode) (s : State) : State :=
  match tfind s.crl.planner.nodes n with
  | some x => { s with crl.planner.nodes := tput s.crl.planner.nodes n (f x) }
  | none => s

/-- A node that no request pins and that has no child joins the LRU list at its new end. -/
def noteLru (n : Nat) (s : State) : State :=
  match tfind s.crl.planner.nodes n with
  | some x =>
    if x.pins = 0 && x.kids = 0 then
      if s.crl.planner.lru.contains n then s else { s with crl.planner.lru := s.crl.planner.lru ++ [n] }
    else { s with crl.planner.lru := s.crl.planner.lru.filter (· ≠ n) }
  | none => { s with crl.planner.lru := s.crl.planner.lru.filter (· ≠ n) }

def unpin (n : Nat) (s : State) : State := noteLru n (s.modNode n (fun x => { x with pins := x.pins - 1 }))

/-! ## Mirroring (R351, R376, R453) -/

def ReqState.code : ReqState → Nat
  | .queued => 1
  | .joining => 2
  | .running => 3
  | .leaving => 4
  | .moving => 5

/-- The 128 bytes of an entry. -/
def ReqEnt.bytes (e : ReqEnt) (qlink : Nat) : Bytes :=
  lay [(4, e.id), (1, e.state.code),
    (1, e.cls + bitAt e.hank 3 + bitAt e.dlrec 4 + bitAt e.cancel 5 + bitAt e.cancelLate 6 + bitAt e.mirrored 7), (2, e.slot), (2, e.part),
    (1, e.band), (1, e.miss), (4, e.pepoch), (4, e.adapter), (2, e.aEpoch), (2, e.newSlot), (8, e.param), (8, e.prompt)]
  ++ lay [(4, e.plen), (4, e.ns), (4, e.ttftTgt), (4, e.tbtTgt), (8, e.tSubmit), (8, e.tLast), (4, e.tokens), (4, e.ttft), (4, e.tbtMiss),
    (4, e.tbtMax), (2, e.hit), (2, min e.moves 0xFFFF), (4, e.hitNode), (4, e.targetC), (4, e.seq), (8, e.tag), (4, e.gen), (4, qlink), (8, e.tState)]

/-- Whether the standby root is sent what changes. -/
def State.mirrors (s : State) : Bool := (s.port .crl pxPort).state = .up && !s.crl.planner.solo

/-- A journal message to the standby root. Where in the journal it goes, its channel and its number are free (log entry 43). -/
def journal (part c kind n : Nat) (items : Bytes) (s : State) : State :=
  let d := s.draw
  let h := lay [(2, part), (2, 0), (4, c), (1, kind), (3, 0), (4, n)]
  let a := 0x7800_0000 + 64 * (d.1 % 2 ^ 20)
  (bulkCells (s.hea .crl ^^^ 16) a (d.1 / 2 ^ 20 % 65536) (d.1 / 2 ^ 36 % 65536) (h ++ items)).foldl (fun s x => sendCell .crl pxPort x s) d.2

/-- Messages of at most 1,024 entries each. -/
def journalEntries (part c : Nat) (items : List Bytes) (s : State) : State :=
  (List.range (ceilDiv items.length 1024)).foldl (fun s i =>
    let l := (items.drop (1024 * i)).take 1024
    journal part c 1 l.length l.flatten s) s

/-- Commit number that a journal message of a partition carries: its last doff's. -/
def State.journalC (s : State) (part : Nat) : Nat := ((s.proot part).bind (·.launch.recent.getLast?)).getD 0

/-- Sends the entries of a partition that changed since they were last sent; they stand mirrored. QLINK carries an item's index (log entry
43). -/
def mirrorEntries (part : Nat) (s : State) : State :=
  if !s.mirrors then s
  else
    let ch := s.crl.planner.reqs.filter (fun (e : Nat × ReqEnt) => e.2.part = part && e.2.mgen ≠ some e.2.gen)
    let s := { s with
      crl.planner.reqs := s.crl.planner.reqs.map (fun (e : Nat × ReqEnt) =>
        if e.2.part = part then (e.1, { e.2 with mgen := some e.2.gen, mirrored := true }) else e) }
    journalEntries part (s.journalC part) (ch.map (fun (e : Nat × ReqEnt) => { e.2 with mirrored := true }.bytes e.1)) s

/-- A join that waits for a launch is taken back. -/
def dropJoin (idx : Nat) (r : PRoot) : PRoot :=
  { r with txns := r.txns.map (fun t =>
      if t.target = 0 && !t.sent then { t with acts := t.acts.filter (fun a => !a.joins idx), reqs := t.reqs.filter (· ≠ idx) } else t) }

/-- An entry becomes FREE: its pins go, its reserved slots are free, the standby root is told. -/
def freeReq (idx : Nat) (s : State) : State :=
  match s.req idx with
  | none => s
  | some e =>
    let s := e.pins.foldl (fun s n => unpin n s) { s with crl.planner.reqs := tdel s.crl.planner.reqs idx }
    let s := s.modRoot e.part (dropJoin idx)
    if s.mirrors then journalEntries e.part (s.journalC e.part) [lay [(4, e.id), (4, 0), (2, e.part), (2, 0), (4, e.pepoch), (96, 0), (4, idx), (12, 0)]] s
    else s

end Sys2Proof.Machine
end

