-- ==== Sys2Proof/Machine/RootBase.lean ====
section
/-! DEFINITION. What a partition root does everywhere: which members a launch awaits, its cells, its partition-scope transactions and
their targets, group configurations, the frequency step it writes, and its ledger's intervals (R187, R194, R228, R297 to R300, R327,
R538). -/

namespace Sys2Proof.Machine

/-! ## Members and ports -/

/-- Hundredths of ns of a fibre of `m` metres, one way. -/
def fibreHns (m : Nat) : Nat := 500 * m

/-- Count of the pending launch of a commit number. -/
def PRoot.pendL (r : PRoot) (c : Nat) : Option Nat := (r.launch.pend.find? (fun p => p.c = c)).map (·.l)

/-- Whether a member takes part in the launch at `l`: it has joined by then and has not left (R202, R527). -/
def PRoot.takes (r : PRoot) (l : Nat) (m : Member) : Bool :=
  (match m.joinC with
    | none => true
    | some c => (r.pendL c).any (fun x => x ≤ l))
  && (match m.leaveC with
    | none => true
    | some c => (r.pendL c).all (fun x => l < x))

/-- HEAs of the members that take part in the launch at `l`, ascending. -/
def PRoot.whoAt (r : PRoot) (l : Nat) : List Nat := sortBy id ((r.members.filter (r.takes l)).map (·.hea))
/-- HEAs of the members whose membership has entered. -/
def PRoot.heas (r : PRoot) : List Nat := r.members.map (·.hea)

/-- The root's port toward a die: the route's, or its sibling to the same row Creel where trees avoid it (R527). -/
def State.rootPort (s : State) (r : PRoot) (hea : Nat) : Option Nat :=
  (routePort s.cc.topo hea).bind (fun n =>
    if !r.broken.contains (s.hea .crl, n) then some n
    else if s.cc.topo.tier = 3 && !r.broken.contains (s.hea .crl, n ^^^ 1) then some (n ^^^ 1)
    else none)

/-- Down ports that lead to dies, each once, ascending. -/
def State.rootPorts (s : State) (r : PRoot) (heas : List Nat) : List Nat := sortBy id (heas.filterMap (s.rootPort r)).eraseDups

/-- The lowest HEA of a list below a port. -/
def State.lowestBelow (s : State) (r : PRoot) (heas : List Nat) (port : Nat) : Nat :=
  ((heas.filter (fun h => s.rootPort r h = some port)).min?).getD noHea

/-! ## Cells (R187) -/

/-- A LAUNCH/CONTROL cell from the root down the partition's launch tree. -/
def rootTree (part : Nat) (r : PRoot) (typ : Nat) (body : Bytes) (s : State) : State :=
  sendOn .crl r.kids { ctlCell typ part r.epoch body with tree := true, dst := launchTree } s

/-- The same to one member, TREE = 0. -/
def rootTo (part : Nat) (r : PRoot) (hea typ : Nat) (body : Bytes) (s : State) : State :=
  match s.rootPort r hea with
  | some n => sendCell .crl n { ctlCell typ part r.epoch body with dst := hea } s
  | none => s

def launchSetBody (l idx c : Nat) : Bytes := lay [(8, l), (2, idx), (2, 0), (4, c)]

/-! ## Plan records (R378) -/

def PlanRec.bytes (x : PlanRec) (part at_ seq : Nat) : Bytes :=
  lay [(1, x.rtype), (1, x.sub), (2, part), (4, x.id), (4, x.idx), (2, x.slot), (2, x.slot2), (1, x.band), (1, x.band2), (2, x.epoch), (4, x.c),
    (4, x.val), (4, x.hea), (4, x.page), (4, x.tgt), (8, at_), (8, x.tag), (4, 0), (4, seq)]

/-- Commit number of the last doff, to which output belongs that no step's verdict brings. -/
def PRoot.nowC (r : PRoot) : Nat := (r.launch.recent.getLast?).getD 0

/-- Adds a plan record to the partition's output. -/
def planRec (part : Nat) (x : PlanRec) (s : State) : State :=
  match s.proot part with
  | none => s
  | some r =>
    let at_ := if x.rtype = 0x43 then s.cc.time.tick else s.crlDtc part
    let p : OPiece := { kind := .plan, c := r.nowC, body := x.bytes part at_ r.out.planSeq }
    s.modRoot part (fun r => { r with out.held := r.out.held ++ [p], out.planSeq := (r.out.planSeq + 1) % 2 ^ 32 })

/-! ## Transactions (R192 to R194) -/

/-- Writes cut into the at most 22 bytes that a BANK_WRITE cell carries. -/
def cutWrites (hea : Option Nat) (off : Nat) (b : Bytes) : List (Option Nat × Nat × Bytes) :=
  (List.range (ceilDiv b.length 22)).map (fun i => (hea, off + 22 * i, (b.drop (22 * i)).take 22))

/-- Byte writes of a byte string. -/
def byteWrites (off : Nat) (b : Bytes) : List (Nat × Byte) := b.zipIdx.map (fun e => (off + e.2, e.1))

/-- A write to all members' banks, with the root's copy of it. -/
def RTxn.all (t : RTxn) (off : Nat) (b : Bytes) : RTxn :=
  { t with cells := t.cells ++ cutWrites none off b, bank := t.bank ++ byteWrites (commonBase + off) b }
/-- A write to one member's bank. -/
def RTxn.one (t : RTxn) (hea off : Nat) (b : Bytes) : RTxn := { t with cells := t.cells ++ cutWrites (some hea) off b }
/-- A write to the partition bank. -/
def RTxn.own (t : RTxn) (off : Nat) (b : Bytes) : RTxn := { t with bank := t.bank ++ byteWrites off b }

def bankWriteBody (target tno off : Nat) (b : Bytes) : Bytes := lay [(8, target), (4, tno), (4, off), (2, b.length)] ++ padTo 22 b
def bankEndBody (target tno n : Nat) : Bytes := lay [(8, target), (4, tno), (4, n)]

/-- Sends every cell of a transaction, then BANK_END: to all members, or to each member that a cell is for with the count of the cells
that it gets. -/
def sendTxn (part : Nat) (t : RTxn) (s : State) : State :=
  match s.proot part with
  | none => s
  | some r =>
    let s := t.cells.foldl (fun s (c : Option Nat × Nat × Bytes) =>
      let body := bankWriteBody t.target t.tno c.2.1 c.2.2
      match c.1 with
      | none => rootTree part r 0x05 body s
      | some h => rootTo part r h 0x05 body s) s
    let common := (t.cells.filter (fun c => c.1.isNone)).length
    let heas := (t.cells.filterMap (·.1)).eraseDups
    if t.cells.isEmpty then s
    else if heas.isEmpty then rootTree part r 0x06 (bankEndBody t.target t.tno common) s
    else heas.foldl (fun s h =>
      rootTo part r h 0x06 (bankEndBody t.target t.tno (common + (t.cells.filter (fun c => c.1 = some h)).length)) s) s

/-- Cells of a transaction: its writes and a BANK_END for all members, or for each that a cell is for. -/
def RTxn.cellCount (t : RTxn) : Nat :=
  if t.cells.isEmpty then 0 else t.cells.length + max 1 ((t.cells.filterMap (·.1)).eraseDups).length

/-- Whether the launch at `l` can take a transaction of `n` cells sent now (R194), in hundredths of ns. -/
def PRoot.inTime (r : PRoot) (now lead n l : Nat) : Bool := 100 * (now + lead + r.trdy) + r.dn + 288 * n ≤ 100 * l

/-- Nanoseconds by which a transaction of `n` cells sent now misses the launch at `l`, rounded up (R442). -/
def PRoot.lateBy (r : PRoot) (now lead n l : Nat) : Nat := ceilDiv (100 * (now + lead + r.trdy) + r.dn + 288 * n - 100 * l) 100

/-- The first pending launch that takes a transaction; a retry doff applies none (R193). -/
def PRoot.targetFor (r : PRoot) (now lead n : Nat) : Option RPend :=
  r.launch.pend.find? (fun p => !p.retry && r.inTime now lead n p.l)

/-- Requests of a transaction take its TARGET_C. -/
def targetReqs (reqs : List Nat) (c : Nat) (s : State) : State :=
  { s with
      crl.planner.reqs := s.crl.planner.reqs.map (fun (e : Nat × ReqEnt) =>
        if reqs.contains e.1 then (e.1, { e.2 with targetC := c, gen := (e.2.gen + 1) % 2 ^ 32 }) else e) }

/-- Band of a slot. -/
def PRoot.bandOfSlot (r : PRoot) (k : Nat) : Nat :=
  ((r.plan.bands.zipIdx.find? (fun e => e.1.1 ≤ k && k < e.1.1 + e.1.2)).map (·.2)).getD 0xFF

/-- The adapter epoch that a join closed now binds: the current one, but for a request that moves (R374). -/
def PRoot.bindEpoch (r : PRoot) (e : ReqEnt) : Nat :=
  if e.state = .queued then ((r.adapters.find? (fun a => a.id = e.adapter)).map (·.cur)).getD 0 else e.aEpoch

/-- What a join writes for a slot: SLOT_MAP, ADAPTER_EPOCH and the slot record; and its ADMIT record (R361). -/
def joinWrites (r : PRoot) (s : State) (t : RTxn) : RAct → RTxn
  | .join idx slot =>
    match s.req idx with
    | none => t
    | some e =>
      let epoch := r.bindEpoch e
      let t := (t.all (bankSlotMap + 4 * slot) (le 4 (idx + 2 ^ 31))).all (bankAdapters + 2 * slot) (le 2 epoch)
      let t := t.own (slotRecBase slot) (s.rd .crl e.param 256)
      let node := if e.pins.isEmpty then none else tfind s.crl.planner.nodes e.hitNode
      let x : PlanRec := { rtype := 0x40, idx := idx, id := e.id, tag := e.tag, slot := slot, band := r.bandOfSlot slot, epoch := epoch, val := e.hit,
                           hea := (node.map (·.hea)).getD 0, page := (node.map (·.page)).getD 0 }
      { t with recs := t.recs ++ [x] }
  | _ => t

/-- A transaction as it closes now, with what its joins write. -/
def RTxn.joined (r : PRoot) (s : State) (t : RTxn) : RTxn := t.acts.foldl (joinWrites r s) t

/-- Requests whose join closes are JOINING (R353). -/
def takeJoins (part : Nat) (r : PRoot) (t : RTxn) (s : State) : State :=
  t.acts.foldl (fun s a => match a with
    | .join idx slot => setReqState idx .joining (s.modReq idx (fun e => { e with
        slot := slot, newSlot := 0xFFFF, band := r.bandOfSlot slot, aEpoch := r.bindEpoch e, resumed := false }))
    | _ => s) s |> fun s => if t.reqs.isEmpty then s else mirrorEntries part s

/-- A transaction has closed with a target: its commands complete, its requests take their TARGET_C, its plan records are posted. -/
def closedTxn (part : Nat) (t : RTxn) (c : Nat) (s : State) : State :=
  let s := t.cmds.foldl (fun s (q : Req × Nat × Bytes) => complete .crl q.1 q.2.1 2 0 0 (le 4 c ++ q.2.2) s) s
  t.recs.foldl (fun s x => planRec part { x with c := c } s) (targetReqs t.reqs c s)

/-- A transaction closes with a target: the standby root is told of its joins, it is kept till its doff, and its cells leave. -/
def closeTxnAt (part : Nat) (t : RTxn) (p : RPend) (s : State) : State :=
  match s.proot part with
  | none => s
  | some r =>
    let t := { t with tno := r.tno, target := p.l, sent := true }
    let s := takeJoins part r t s
    let s := s.modRoot part (fun r => { r with
      tno := (r.tno + 1) % 2 ^ 32, txns := r.txns ++ [{ t with cmds := [], recs := [] }] })
    closedTxn part t p.c (sendTxn part t s)

/-- Closes a transaction: it goes to the launch that R194 gives it, or waits until one is committed. -/
def closeTxn (part : Nat) (t : RTxn) (s : State) : State :=
  match s.proot part with
  | none => s
  | some r =>
    let t' := t.joined r s
    match r.targetFor (s.crlDtc part) t.lead t'.cellCount with
    | none => s.modRoot part (fun r => { r with txns := r.txns ++ [{ t with target := 0 }] })
    | some p => closeTxnAt part t' p s

/-- A transaction that waits is tried again; one sent for a launch that was withdrawn applies at the next one. -/
def retryTxn (part : Nat) (t : RTxn) (s : State) : State :=
  if !t.sent then closeTxn part t s
  else match (s.proot part).bind (fun r => r.launch.pend.find? (fun p => !p.retry)) with
    | none => s.modRoot part (fun r => { r with txns := r.txns ++ [t] })
    | some p => targetReqs t.reqs p.c (s.modRoot part (fun r => { r with txns := r.txns ++ [{ t with target := p.l }] }))

/-- Transactions that wait for a launch are tried again, oldest first. -/
def retryTxns (part : Nat) (s : State) : State :=
  match s.proot part with
  | none => s
  | some r =>
    let wait := r.txns.filter (fun t => t.target = 0)
    wait.foldl (fun s t => retryTxn part t s) (s.modRoot part (fun r => { r with txns := r.txns.filter (fun t => t.target ≠ 0) }))

/-- The partition bank and the groups as every open transaction leaves them. -/
def PRoot.bankAll (r : PRoot) : Mem := r.txns.foldl (fun m t => t.bank.foldl (fun m w => memPut m w.1 w.2) m) r.bank
def groupActs (gs : Tbl Group) (acts : List RAct) : Tbl Group :=
  acts.foldl (fun t a => match a with
    | .group g (some c) => tput t g c
    | .group g none => tdel t g
    | _ => t) gs
def PRoot.groupsAll (r : PRoot) : Tbl Group := r.txns.foldl (fun t x => groupActs t x.acts) r.groups

/-! ## Groups (R297 to R300, R327) -/

/-- Tier at which the tree of a set of dies turns: the lowest Creel common to them, at most the root's. -/
def turnTier (top : Nat) (heas : List Nat) : Nat :=
  match heas with
  | [] => top
  | h :: l =>
    let rack := l.all (fun x => heaRow x = heaRow h && heaRack x = heaRack h)
    let row := l.all (fun x => heaRow x = heaRow h)
    min top (if rack then 1 else if row then 2 else 3)

/-- Hop of a message of `e` elements, in hundredths of ns (R326). -/
def hopHns (e : Nat) : Nat := if e = 0 then 2873 else 3000 + 50 * e

/-- Cells of a member's PLY_UP message. -/
def Group.upCells (g : Group) : Nat :=
  let sz := (kindOf g.op g.fmt g.scaled).size g.fmt
  1 + (if g.rmode = rmSr then 1 else 0) + (if g.length = 0 then 0 else ceilDiv g.length (max 1 sz.2))

/-- BOUND in ns, rounded up: T_PLY with Q = QALLOW, and the choice of a token where the sampler consumes the result (R327, R341). -/
def Group.bound (g : Group) : Nat :=
  let t := 2400 + 2673 + hopHns g.length * (2 * g.tier - 1) + 288 * (g.upCells - 1 + g.qallow) + 1000 * g.fib
  ceilDiv t 100 + (if g.consumer = 1 then 120 else 0)

/-- The members of a group among those of the partition, in rank order. -/
def Group.set (g : Group) (ms : List Member) : List Member :=
  sortBy (·.rank) (match g.list with
    | none => ms
    | some l => ms.filter (fun m => l.contains m.hea))

/-- The configuration that a member's bank holds of a group. -/
def Group.cfg (num : Nat) (g : Group) (ms : List Member) (hea : Nat) : Bytes :=
  let set := g.set ms
  let i := set.findIdx (fun m => m.hea = hea)
  let mem := i < set.length
  GCfg.bytes { tree := num, valid := g.valid && !set.isEmpty, member := mem, scaled := g.scaled, chan := g.chan, op := g.op, fmt := g.fmt,
               outFmt := g.outFmt, length := g.length, rmode := g.rmode, consumer := g.consumer, source := if num = 63 then 1 else 0,
               seedIdx := g.seedIdx, rank := if mem then i else 0, size := set.length, lseBias := g.bias, bound := g.bound }

/-- Where a group's tree turns: at the root for the sampler and the clocks, else at the lowest common Creel. A path below the root has
a length that the model leaves free, at most the partition's longest (log entry 5). -/
def placeGroup (r : PRoot) (ms : List Member) (g : Group) (s : State) : Group × State :=
  let top := s.cc.topo.tier
  let tier := if g.consumer = 0 then turnTier top ((g.set ms).map (·.hea)) else top
  if tier = top then ({ g with tier := tier, fib := r.lm }, s)
  else
    let d := s.draw
    ({ g with tier := tier, fib := d.1 % (r.lm + 1) }, d.2)

/-- The clock round's group, which set-up writes (R298). -/
def clockGroup : Group :=
  { op := opMin, fmt := fmtInt8, outFmt := fmtInt8, length := 1, rmode := 0, scaled := false, consumer := 2, chan := 0xFF, seedIdx := 0,
    bias := 0, qallow := 0, list := none }

/-- Installs at this Creel the trees that turn here: child ports toward the members, in the partition's mode. A tree that turns below
takes no entry here. -/
def installTree (part num : Nat) (r : PRoot) (turnsHere : Bool) (heas : List Nat) (s : State) : State :=
  let k := plyKey part num
  if turnsHere && !heas.isEmpty then
    { s with crl.ply.trees := tput s.crl.ply.trees k { kids := s.rootPorts r heas, up := none, fast := r.fast, root := s.hea .crl } }
  else { s with crl.ply.trees := tdel s.crl.ply.trees k }

/-- Trees of the partition's groups and launches that turn here, installed anew: the launch tree toward every member, a group's toward
those that have joined (log entry 46). -/
def reinstall (part : Nat) (s : State) : State :=
  match s.proot part with
  | none => s
  | some r =>
    let s := { s with crl.ply.trees := s.crl.ply.trees.filter (fun (e : Nat × Tree) => e.1 / 65536 ≠ part) }
    let s := s.modRoot part (fun r => { r with kids := s.rootPorts r r.heas })
    let s := installTree part launchTree r true r.heas s
    let ms := r.members.filter (fun m => m.joinC.isNone)
    r.groups.foldl (fun s (e : Nat × Group) => installTree part e.1 r (e.2.valid && e.2.tier = s.cc.topo.tier) ((e.2.set ms).map (·.hea)) s) s

/-- Groups that turn at this Creel or pass it: those of the partitions that it serves as their open transactions leave them, and the
installed trees of others, but for launch trees and the hall power tree. -/
def State.groupCount (s : State) : Nat :=
  let mine := s.crl.parts.map (fun (e : Nat × PRoot) =>
    (e.2.groupsAll.filter (fun (g : Nat × Group) => g.2.valid && g.2.tier = s.cc.topo.tier)).length)
  let other := s.crl.ply.trees.filter (fun (e : Nat × Tree) =>
    e.1 % 65536 < 64 && e.1 / 65536 ≠ 0xFFFF && (s.proot (e.1 / 65536)).isNone)
  mine.sum + other.length

/-! ## Frequency (R228 to R230) -/

def RFreq.min (f : RFreq) : Nat := Nat.min f.mceilP (Nat.min f.policy f.host)

/-- What cuts HOST: the nearest higher rank with a lower value. -/
def RFreq.cutHost (f : RFreq) : Option (Nat × Nat × Nat) :=
  if f.policy < f.host then some (f.host, 3, f.policy)
  else if f.fceil < f.host then some (f.host, 2, f.fceil)
  else if f.mceilP < f.host then some (f.host, 1, f.mceilP)
  else none
/-- What cuts POLICY. -/
def RFreq.cutPolicy (f : RFreq) : Option (Nat × Nat × Nat) :=
  if f.fceil < f.policy then some (f.policy, 2, f.fceil)
  else if f.mceilP < f.policy then some (f.policy, 1, f.mceilP)
  else none

/-- `POLICY_OVERRIDDEN`, once when an override begins and when either of its values changes; one that ends is traced (R229). -/
def noteCuts (part : Nat) (s : State) : State :=
  match s.proot part with
  | none => s
  | some r =>
    let h := r.freq.cutHost
    let p := r.freq.cutPolicy
    let tell := fun (rank : Nat) (old new : Option (Nat × Nat × Nat)) (s : State) =>
      match new with
      | some c => if old = new then s else s.raise .crl 0x1505 part [part, rank, c.1, c.2.1, c.2.2]
      | none => s
    let now := s.crlDtc part
    let over_ := fun (rank : Nat) (old new : Option (Nat × Nat × Nat)) => if new.isNone then old.toList.map (fun o => (rank, o, now)) else []
    let s := tell 4 r.freq.ovHost h (tell 3 r.freq.ovPol p s)
    s.modRoot part (fun r => { r with
      freq.ovHost := h, freq.ovPol := p, freq.ended := r.freq.ended ++ over_ 3 r.freq.ovPol p ++ over_ 4 r.freq.ovHost h })

/-- Writes FSTEP in a transaction, with the commands that wait for it. -/
def writeFstep (part : Nat) (cmds : List (Req × Nat × Bytes)) (s : State) : State :=
  match s.proot part with
  | none => s
  | some r =>
    let v := r.freq.min
    let t : RTxn := { tno := 0, cmds := cmds }
    closeTxn part (t.all bankFstep (le 1 v)) (s.modRoot part (fun r => { r with freq.fstep := v }))

/-- The computation of every doff: FSTEP where it changes, and what it cuts. -/
def refreshFreq (part : Nat) (s : State) : State :=
  match s.proot part with
  | none => s
  | some r => noteCuts part (if r.freq.min = r.freq.fstep then s else writeFstep part [] s)

/-! ## Launches (R186, R198) -/

/-- KIND of the descriptor at an index, as the root knows it (log entry 36). -/
def PRoot.kindOf (r : PRoot) (idx : Nat) : Nat := if idx = r.idleIdx then 2 else if idx = r.maintIdx then 1 else 0

/-- Replaces the pending launches, ordered by L. -/
def PRoot.setPend (r : PRoot) (l : List RPend) : PRoot := { r with launch.pend := sortBy (·.l) l }

/-- Every pending launch from `l` on, with its transactions, moves by `d`; each is judged anew. `own` is the launch that slips, with its
reason. -/
def PRoot.shift (r : PRoot) (l d : Nat) (own : Option (Nat × Nat)) : PRoot :=
  let r := r.setPend (r.launch.pend.map (fun p =>
    if p.l < l then p
    else
      let p := { p with l := p.l + d, decided := false, reports := [] }
      match own with
      | some (c, reason) =>
        if p.c = c then { p with slips := p.slips + 1, slipBy := p.slipBy ++ [(reason, d)] } else { p with base := p.base + d }
      | none => { p with base := p.base + d }))
  { r with
      txns := r.txns.map (fun t => if t.target ≠ 0 && l ≤ t.target then { t with target := t.target + d } else t) }

/-- A new launch of the partition: its commit number, its LAUNCH_SET, and the transactions that waited for one. Time with no pending
launch ends. -/
def addLaunch (part l idx kind : Nat) (windUp : Bool) (s : State) : State :=
  match s.proot part with
  | none => s
  | some r =>
    let c := (r.launch.commitNo + 1) % 2 ^ 32
    let now := s.crlDtc part
    let gone := match r.launch.emptySince with
      | some t => now - t
      | none => 0
    let fix := fun (x : Option Nat) => if x = some 0 then some c else x
    let s := s.modRoot part (fun r =>
      let r := r.setPend (r.launch.pend ++ [{ l := l, idx := idx, c := c, kind := kind, base := l, windUp := windUp }])
      { r with
          launch.commitNo := c, launch.emptySince := none
          launch.heldAcc := r.launch.heldAcc + (if r.launch.tookOver.isSome then 0 else gone)
          members := r.members.map (fun m => { m with joinC := fix m.joinC, leaveC := fix m.leaveC }) })
    retryTxns part (rootTree part r 0x00 (launchSetBody l idx c) s)

/-- A pending launch goes: what targeted it waits for the next (R188). -/
def dropLaunch (part c : Nat) (s : State) : State :=
  match s.proot part with
  | none => s
  | some r =>
    match r.launch.pend.find? (fun p => p.c = c) with
    | none => s
    | some p =>
      let s := rootTree part r 0x01 (lay [(8, p.l), (8, 0)]) s
      let rest := r.launch.pend.filter (fun x => x.c ≠ c)
      let next := rest.find? (fun x => p.l < x.l && !x.retry)
      let fix := fun (x : Option Nat) => if x = some c then some ((next.map (·.c)).getD 0) else x
      let moved := (r.txns.filter (fun t => t.target = p.l)).flatMap (·.reqs)
      let s := s.modRoot part (fun r => { r with
        launch.pend := rest, launch.withdrawn := r.launch.withdrawn ++ [c]
        launch.emptySince := if rest.isEmpty then some (s.crlDtc part) else none
        txns := r.txns.map (fun t => if t.target = p.l then { t with target := (next.map (·.l)).getD 0 } else t)
        members := r.members.map (fun m => { m with joinC := fix m.joinC, leaveC := fix m.leaveC }) })
      targetReqs moved ((next.map (·.c)).getD 0) s

/-- Undecided launches are withdrawn; the IDLE launches follow. -/
def tearNow (part : Nat) (s : State) : State :=
  match s.proot part with
  | none => s
  | some r => (r.launch.pend.filter (fun p => !p.decided)).foldl (fun s p => dropLaunch part p.c s)
      (s.modRoot part (fun r => { r with freq.windDown := false }))

/-! ## The ledger's intervals (R538) -/

/-- Adds to the slip time of a reason. -/
def Ledger.addSlip (l : Ledger) (reason n : Nat) : Ledger :=
  { l with slip := l.slip.set (reason - 1) (l.slip.getD (reason - 1) 0 + n), share := l.share + (if reason = 1 || reason = 8 || reason = 10 then n else 0) }

/-- Slips without their first `n` ticks. -/
def slipsFrom : Nat → List (Nat × Nat) → List (Nat × Nat)
  | _, [] => []
  | n, (r, d) :: l => if n < d then (r, d - n) :: l else slipsFrom (n - d) l

/-- The first `n` ticks of slips, reason by reason. -/
def slipsUntil : Nat → List (Nat × Nat) → List (Nat × Nat)
  | _, [] => []
  | n, (r, d) :: l => if n = 0 then [] else (r, min n d) :: slipsUntil (n - d) l

/-- The interval before a launch at `l` ends: time with no pending launch, the slips of that launch, and what is left for the step
before it, in `dur`. -/
def PRoot.interval (r : PRoot) (l : Nat) (slips : List (Nat × Nat)) : Ledger × Nat :=
  let led := slips.foldl (fun (led : Ledger) x => led.addSlip x.1 x.2) { r.ledger with held := r.ledger.held + r.launch.heldAcc }
  let took := match r.launch.tookOver with
    | some t => l - t
    | none => 0
  ({ led with takeover := led.takeover + took, share := led.share + took },
    l - r.launch.lastL - r.launch.heldAcc - took - (slips.map (·.2)).foldl (· + ·) 0)

end Sys2Proof.Machine
end

