-- ==== Sys2Proof/Machine/Output.lean ====
section
/-! DEFINITION. The output of committed steps: step output, completion, hank and plan records, what is held
while a ring is full, and token deadlines (R345 to R349, R351 to R353, R363, R367, R376, R378, R453). -/

namespace Sys2Proof.Machine

/-! ## Pieces of output (R346 to R349) -/

/-- Steps with output not yet written. -/
def PRoot.heldSteps (r : PRoot) : Nat := ((r.out.held.map (·.c)).eraseDups).length

/-- A record with the GT of its write in bytes 24 to 35. -/
def withGt (body : Bytes) (s : State) : Bytes :=
  body.take 24 ++ lay [(8, gtSec (s.gt .crl)), (4, gtNs (s.gt .crl))] ++ body.drop 36

/-- The GT at a count of a partition, in bytes 32 to 43 of a completion record. -/
def withFinal (part : Nat) (last : Option Nat) (body : Bytes) (s : State) : Bytes :=
  match last, tfind s.crl.held (part % 65536) with
  | some t, some h =>
    let gt : Int := h.1 * unitsPerSec + h.2 + 65536 * t
    body.take 32 ++ lay [(8, gtSec gt), (4, gtNs gt)] ++ body.drop 44
  | _, _ => body

/-- Microseconds of a time in ns, rounded up. -/
def upUs (ns : Nat) : Nat := ceilDiv ns 1000

/-- A token of the request with a submission number is delivered now: its times, and its misses (R367). -/
def deliver (part seq : Nat) (s : State) : State :=
  let t := s.crlDtc part
  let s := s.modRoot part (fun r => { r with
    out.held := r.out.held.map (fun p => if p.kind = .done && p.reqs.contains seq then { p with last := some t } else p) })
  match s.reqSeq seq with
  | none => s
  | some (i, e) =>
    if e.tokens = 0 then
      let ttft := t - e.tSubmit
      let miss := decide (0 < e.ttftTgt) && decide (1000 * e.ttftTgt < ttft)
      let s := s.modReq i (fun e => { e with
        ttft := upUs ttft, tokens := 1, tLast := t, miss := if miss then e.miss ||| 1 else e.miss })
      if miss then
        let s := (s.bump .crl 0x420C 1).setEv .crl 0x4204 0
        if e.dlrec then planRec part { rtype := 0x42, sub := 1, idx := i, id := e.id, tag := e.tag, val := upUs ttft, tgt := e.ttftTgt } s else s
      else s
    else
      let gap := t - e.tLast
      let miss := decide (0 < e.tbtTgt) && decide (1000 * e.tbtTgt < gap)
      let s := s.modReq i (fun e => { e with
        tokens := e.tokens + 1, tLast := t, tbtMax := max e.tbtMax (upUs gap), miss := if miss then e.miss ||| 2 else e.miss,
        tbtMiss := if miss then min (e.tbtMiss + 1) 0xFFFF_FFFF else e.tbtMiss })
      if miss then
        let s := (s.bump .crl 0x4210 1).setEv .crl 0x4204 1
        if e.dlrec && e.tbtMiss = 0 then planRec part { rtype := 0x42, sub := 2, idx := i, id := e.id, tag := e.tag, val := upUs gap, tgt := e.tbtTgt } s
        else s
      else s

/-- The ring channel of a kind of output. -/
def PRoot.ringOf (r : PRoot) : OKind → Option Nat
  | .step => r.out.stepRing
  | .done => r.out.doneRing
  | .plan => if r.plan.ring = 0xFFFF then none else some r.plan.ring
  | .hank _ _ => none

/-- Whether a hank ring has a free entry (R348). -/
def hankRoom (base size : Nat) (s : State) : Bool :=
  (leNat (s.rd .crl base 4) + 2 ^ 32 - leNat (s.rd .crl (base + 8) 4)) % 2 ^ 32 < size

/-- Writes a token's entry, then advances WRITE. -/
def hankWrite (base size : Nat) (b : Bytes) (s : State) : State :=
  let w := leNat (s.rd .crl base 4)
  (s.wr .crl (base + 64 + 16 * (w % max 1 size)) b).wr .crl base (le 4 (w + 1))

/-- Writes a piece whose ring takes it now. -/
def writePiece (part : Nat) (p : OPiece) (s : State) : Option State :=
  match s.proot part with
  | none => none
  | some r =>
    match p.kind with
    | .hank base size => if hankRoom base size s then some (p.reqs.foldl (fun s q => deliver part q s) (hankWrite base size p.body s)) else none
    | k =>
      match r.ringOf k with
      | none => none
      | some ch =>
        if !s.canPost .crl ch p.body.length then none
        else
          let body := match k with
            | .step => withGt p.body s
            | .done => withFinal part p.last p.body s
            | _ => p.body
          let s := s.post .crl ch body
          some (if k = .step then p.reqs.foldl (fun s q => deliver part q s) s else s)

/-- Whether a step that no verdict has reached holds a token of a closed request's record. -/
def PRoot.tokensDue (r : PRoot) (p : OPiece) : Bool :=
  let slot := rdLe p.body 12 2
  r.launch.run.any (fun x => !x.ignore && x.toks.any (fun t => t.slot = slot && t.token ≠ noRank) && (bankSlot x.image slot).req = rdLe p.body 4 4)

/-- Goes once through held pieces in commit order, from place `i` on: each ring is written until it is full; a completion waits for
every token of its request. -/
def flushFrom (part : Nat) : Nat → Nat → List OKind → State → State
  | 0, _, _, s => s
  | n + 1, i, full, s =>
    match s.proot part with
    | none => s
    | some r =>
      match r.out.held[i]? with
      | none => s
      | some p =>
        let waits := p.kind = .done && (r.tokensDue p ||
          (r.out.held.take i).any (fun k => k.kind ≠ .done && k.kind ≠ .plan && k.reqs.any (fun q => p.reqs.contains q)))
        if full.contains p.kind || waits then flushFrom part n (i + 1) full s
        else match writePiece part p (s.modRoot part (fun r => { r with out.held := r.out.held.eraseIdx i })) with
          | some s => flushFrom part n i full s
          | none => flushFrom part n (i + 1) (p.kind :: full) s

/-- Writes what the rings take, and what the deliveries add. A stall ends when fewer than 16 steps are held. -/
def flushOut (part : Nat) (s : State) : State :=
  match s.proot part with
  | none => s
  | some r =>
    let n := r.out.held.foldl (fun n p => n + 1 + 2 * p.reqs.length) 1
    let s := flushFrom part n 0 [] s
    s.modRoot part (fun r => if r.heldSteps < 16 then { r with out.stalled := false } else r)

/-- Partitions that this root serves. Output still held of a partition torn down stays under its ID and, above that, its epoch. -/
def State.served (s : State) : List Nat := (s.crl.parts.map (·.1)).filter (· < 65536)

/-- Output of an ID, of its present and its past epochs. -/
def heldOutput (part : Nat) (s : State) : State :=
  (s.crl.parts.filter (fun (e : Nat × PRoot) => e.1 % 65536 = part)).foldl (fun s (e : Nat × PRoot) =>
    let s := flushOut e.1 s
    if 65536 ≤ e.1 && (s.proot e.1).any (fun r => r.out.held.isEmpty) then { s with crl.parts := tdel s.crl.parts e.1 } else s) s

/-- `HELD_OUTPUT_WRITE`: rings have gained room. -/
def execHeldOutputWrite (part : Nat) (s : State) : Out := run (part < 0x1_0000) (heldOutput part) s

/-- The ring whose output a stall names: that of the oldest held piece (a ring not set has no number). -/
def PRoot.stallRing (r : PRoot) : Nat := ((r.out.held.head?.bind (fun p => r.ringOf p.kind))).getD 0xFFFF

/-- `OUTPUT_STALL`, once per stall of 16 held steps. -/
def noteStall (part : Nat) (s : State) : State :=
  match s.proot part with
  | none => s
  | some r =>
    if r.heldSteps < 16 || r.out.stalled then s
    else ((s.modRoot part (fun r => { r with out.stalled := true })).setEv .crl 0x4100 2).raise .crl 0x1706 part [part, r.stallRing]

/-! ## Completion records (R347, R353) -/

/-- Adds a request's completion record: status 1 COMPLETED, 2 CANCELLED, 3 FAILED with a code. -/
def doneRec (part status reason code c : Nat) (idx : Nat) (e : ReqEnt) (st : SlotState2) (s : State) : State :=
  match s.proot part with
  | none => s
  | some r =>
    let body := lay [(1, 0x31), (1, status), (1, bitAt (status = 1 && e.cancel) 0), (1, reason), (4, e.id), (4, idx), (2, e.slot), (2, 0), (4, st.t),
      (4, st.thinkCount), (4, st.lastTok), (4, c), (12, 0), (4, if status = 3 then code else 0), (12, 0), (4, r.out.seq)]
    let p : OPiece := { kind := .done, c := c, body := body, reqs := [e.seq], last := if e.tokens = 0 then none else some e.tLast }
    s.modRoot part (fun r => { r with out.held := r.out.held ++ [p], out.seq := (r.out.seq + 1) % 2 ^ 32 })

/-- The state and final commit number of a request's tokens so far. -/
def State.reqTokens (s : State) (e : ReqEnt) : SlotState2 × Nat :=
  match e.saved, s.proot e.part with
  | some st, _ => (st, e.finalC)
  | none, some r =>
    if !e.started then ({}, e.finalC)
    else
      let last := r.launch.run.reverse.find? (fun x => !x.ignore && x.toks.any (fun t => t.slot = e.slot && t.token ≠ noRank))
      (r.slotNow e.slot, (last.map (·.c)).getD e.finalC)
  | none, none => ({}, e.finalC)

/-- A request that closes outside a stop: its record, and its entry is FREE. -/
def closeReq (status code : Nat) (idx : Nat) (s : State) : State :=
  match s.req idx with
  | none => s
  | some e =>
    let x := s.reqTokens e
    freeReq idx (doneRec e.part status 0 code x.2 idx e x.1 s)

/-! ## A committed step (R344, R346, R353) -/

/-- A token's entry in the step output record, or for its hank ring. -/
def tokEntry (x : RStep) (rec_ : SlotRec) (t : Tok) : Bytes × Bytes :=
  let lp := logProb t (tfind x.lse t.slot)
  let flags := t.flags + bitAt lp.2 4
  (lay [(4, rec_.req), (4, t.token), (4, lp.1), (2, t.slot), (1, flags), (1, t.reason)],
    lay [(4, t.token), (4, t.pos), (1, flags), (1, t.reason), (2, t.slot), (4, lp.1)])

/-- The request that a slot's token of a step belongs to: its index, its entry if the table still holds it, and its record. -/
def tokOwner (part : Nat) (x : RStep) (t : Tok) (s : State) : Option (Nat × Option ReqEnt × SlotRec) :=
  (slotMapOf x.image t.slot).map (fun idx =>
    let rec_ := bankSlot x.image t.slot
    (idx, (s.req idx).filter (fun e => e.part = part && e.id = rec_.req), rec_))

/-- A stop is committed: the completion record, and the request leaves; one whose leave doff has passed is FREE (R353). -/
def commitStop (part : Nat) (x : RStep) (t : Tok) (idx : Nat) (e : ReqEnt) (s : State) : State :=
  let s := s.modReq idx (fun e => { e with stopped := true, cancelLate := e.cancelLate || e.cancel })
  let s := doneRec part 1 t.reason 0 x.c idx e (tget {} x.slots t.slot) s
  if e.gone then freeReq idx s
  else if e.state = .running then setReqState idx .leaving (s.modReq idx (fun e => { e with targetC := 0 })) else s

/-- Submission numbers of closed requests whose records wait for a token of this slot and request. -/
def PRoot.doneSeqs (r : PRoot) (id slot : Nat) : List Nat :=
  (r.out.held.filter (fun p => p.kind = .done && rdLe p.body 4 4 = id && rdLe p.body 12 2 = slot)).flatMap (·.reqs)

/-- The output of a committed step: its record, hank entries, and completions. -/
def commitOutput (part : Nat) (x : RStep) (s : State) : State :=
  match s.proot part with
  | none => s
  | some r =>
    let toks := (sortBy (·.slot) x.toks).filterMap (fun t => (tokOwner part x t s).map (fun o => (t, o)))
    let seqOf := fun (o : Tok × Nat × Option ReqEnt × SlotRec) =>
      if o.1.token = noRank then []
      else match o.2.2.1 with
        | some e => [e.seq]
        | none => r.doneSeqs o.2.2.2.req o.1.slot
    let plain := toks.filter (fun o => !o.2.2.2.hank)
    let entries := plain.flatMap (fun o => (tokEntry x o.2.2.2 o.1).1)
    let head := lay [(1, 0x30), (1, 0), (2, part), (4, r.epoch), (4, x.c), (4, plain.length), (8, x.l), (12, 0), (4, 64 + 16 * plain.length),
      (4, r.out.seq), (20, 0)]
    let step : OPiece := { kind := .step, c := x.c, body := head ++ entries, reqs := plain.flatMap seqOf }
    let s := if plain.isEmpty then s
      else s.modRoot part (fun r => { r with out.held := r.out.held ++ [step], out.seq := (r.out.seq + 1) % 2 ^ 32 })
    let hanks := (toks.filter (fun o => o.2.2.2.hank && o.1.token ≠ noRank)).map (fun o =>
      ({ kind := .hank o.2.2.2.hankBase o.2.2.2.hankSize, c := x.c, body := (tokEntry x o.2.2.2 o.1).2, reqs := seqOf o } : OPiece))
    let s := s.modRoot part (fun r => { r with out.held := r.out.held ++ hanks })
    let s := toks.foldl (fun s o =>
      let s := if o.1.token = noRank || o.2.2.1.isNone then s else noteReq o.2.1 (fun e => { e with finalC := x.c }) s
      match o.1.reason, o.2.2.1 with
      | 0, _ => s
      | _, none => s
      | _, some e => commitStop part x o.1 o.2.1 e s) s
    flushOut part s

end Sys2Proof.Machine
end

