-- ==== Sys2Proof/Machine/RootStep.lean ====
section
/-! DEFINITION. What a partition's root and the Creels below it do about launches and verdicts: combining READY and COMMIT_VOTE, GO and
SLIP, holds, straggler marks, verdicts and retries (R197 to R200, R369, R370, R521 to R526, R538, R539). -/

namespace Sys2Proof.Machine

/-! ## Combining (R197, R521) -/

def readyBytes (m : ReadyMsg) : Bytes :=
  lay [(8, m.l), (1, bitAt m.ready 0 + 2 * m.reason), (1, bitAt m.early 0), (4, m.count), (4, m.hea), (8, m.e)]
def voteBytes (m : VoteMsg) : Bytes :=
  lay [(8, m.l), (1, bitAt m.ok 0 + 2 * m.cause), (1, bitAt m.noRetry 0), (4, m.count), (4, m.hea)]

/-- AND of the ready bits and of EARLY_OK, sum of the counts, lowest not-ready HEA with its reason, latest E. -/
def readyJoin (a b : ReadyMsg) : ReadyMsg :=
  { l := a.l, ready := a.ready && b.ready, reason := if a.hea ≤ b.hea then a.reason else b.reason, early := a.early && b.early,
    count := a.count + b.count, hea := min a.hea b.hea, e := max a.e b.e }
/-- The same of votes, with the OR of the NO_RETRY bits. -/
def voteJoin (a b : VoteMsg) : VoteMsg :=
  { l := a.l, ok := a.ok && b.ok, cause := if a.hea ≤ b.hea then a.cause else b.cause, noRetry := a.noRetry || b.noRetry,
    count := a.count + b.count, hea := min a.hea b.hea }

/-- All of a list, from one that says nothing against the launch at `l`. -/
def readyAll (l : Nat) (ms : List ReadyMsg) : ReadyMsg :=
  ms.foldl readyJoin { l := l, ready := true, reason := 0, early := true, count := 0, hea := noHea, e := 0 }
def voteAll (l : Nat) (ms : List VoteMsg) : VoteMsg :=
  ms.foldl voteJoin { l := l, ok := true, cause := 0, noRetry := false, count := 0, hea := noHea }

/-- A report replaces its port's earlier one of that launch. -/
def fileReport {α : Type} (lOf : α → Nat) (port : Nat) (m : α) (t : List (Nat × α)) : List (Nat × α) :=
  t.filter (fun e => !(e.1 = port && lOf e.2 = lOf m)) ++ [(port, m)]

/-- A combined report goes up a launch tree below its root. -/
def sendUpLaunch (part up typ : Nat) (body : Bytes) (s : State) : State :=
  sendCell .crl up { ctlCell typ part (tget 0 s.crl.epochs part) body with tree := true, up := true, dst := launchTree } s

/-- A READY on a child port of a launch tree whose root is above: forwarded once every child has reported. -/
def readyCombine (part port : Nat) (m : ReadyMsg) (s : State) : State :=
  match tfind s.crl.ply.trees (plyKey part launchTree) with
  | none => s
  | some t =>
    match t.up with
    | none => s
    | some up =>
      if !t.kids.contains port then s
      else
        let all := fileReport ReadyMsg.l port m (tget [] s.crl.combine part)
        let mine := all.filter (fun e => e.2.l = m.l)
        if t.kids.all (fun k => mine.any (fun e => e.1 = k)) then
          let s := { s with crl.combine := tset [] s.crl.combine part (all.filter (fun e => e.2.l ≠ m.l)) }
          sendUpLaunch part up 0x02 (readyBytes (readyAll m.l (mine.map (·.2)))) s
        else { s with crl.combine := tset [] s.crl.combine part all }

def execReadyCombine (part port : Nat) (m : ReadyMsg) (s : State) : Out := run (part < 0x1_0000 && port < 129) (readyCombine part port m) s

/-- A COMMIT_VOTE in the same way. -/
def voteCombine (part port : Nat) (m : VoteMsg) (s : State) : State :=
  match tfind s.crl.ply.trees (plyKey part launchTree) with
  | none => s
  | some t =>
    match t.up with
    | none => s
    | some up =>
      if !t.kids.contains port then s
      else
        let all := fileReport VoteMsg.l port m (tget [] s.crl.voting part)
        let mine := all.filter (fun e => e.2.l = m.l)
        if t.kids.all (fun k => mine.any (fun e => e.1 = k)) then
          let s := { s with crl.voting := tset [] s.crl.voting part (all.filter (fun e => e.2.l ≠ m.l)) }
          sendUpLaunch part up 0x0C (voteBytes (voteAll m.l (mine.map (·.2)))) s
        else { s with crl.voting := tset [] s.crl.voting part all }

def execCommitVoteCombine (part port : Nat) (m : VoteMsg) (s : State) : Out := run (part < 0x1_0000 && port < 129) (voteCombine part port m) s

/-! ## Straggler marks (R369, R370) -/

/-- The band of a logical rank, 0xFF for none. -/
def PRoot.bandOfRank (r : PRoot) (rank : Nat) (s : State) : Nat :=
  if r.plan.bandMap = 0 then 0xFF else leNat (s.rd .crl (r.plan.bandMap + rank) 1)

/-- Whether a launch is among the last 64 or still pends. -/
def PRoot.counts (r : PRoot) (c : Nat) : Bool := r.launch.recent.contains c || r.launch.pend.any (fun p => p.c = c)

/-- A mark for the launch of commit number `c`, at most one per launch and member; with STRAG_N of them the member is a straggler. `sub`
is what its record names. -/
def addMark (part hea c sub : Nat) (s : State) : State :=
  match s.proot part with
  | none => s
  | some r =>
    match r.members.find? (fun m => m.hea = hea) with
    | none => s
    | some m =>
      if m.marks.contains c || !r.counts c then s
      else
        let old := m.marks.filter r.counts
        let band := r.bandOfRank m.rank s
        let s := s.modRoot part (fun r => { r with
          members := r.members.map (fun x => if x.hea = hea then { x with marks := old ++ [c] } else x)
          plan.draining := r.plan.draining.map (fun d => if d.1 = band then (d.1, 0) else d) })
        if old.length + 1 = r.plan.stragN then
          let s := s.modRoot part (fun r => { r with plan.strag := r.plan.strag ++ [hea] })
          planRec part { rtype := 0x45, sub := sub, hea := hea, band := band } (s.setEv .crl 0x4204 2)
        else s

/-- Commit number of the launch at `l`, pending or launched. -/
def PRoot.cOf (r : PRoot) (l : Nat) : Nat :=
  (((r.launch.pend.find? (fun p => p.l = l || p.launchAt = l)).map (·.c)).orElse (fun _ => (r.launch.run.find? (fun x => x.l = l)).map (·.c))).getD r.nowC

/-- STRAGGLER: a member reports itself. -/
def straggler (part hea l reason : Nat) (s : State) : State :=
  match s.proot part with
  | none => s
  | some r => flushOut part (addMark part hea (r.cOf l) reason s)

def execStragglerReceived (part hea l reason unit : Nat) (s : State) : Out := run (part < 0x1_0000 && unit < 256) (straggler part hea l reason) s

/-- LAUNCH_FAULT: the step of that launch fails, and an overrun marks the member (R200, R369). -/
def launchFault (part hea l kind : Nat) (s : State) : State :=
  match s.proot part with
  | none => s
  | some r =>
    let why := some (if kind = 2 then 7 else 6, hea)
    let c := r.cOf l
    let s := s.modRoot part (fun r => { r with
      launch.run := r.launch.run.map (fun x => if x.c = c then { x with mustFail := x.mustFail.orElse (fun _ => why) } else x)
      launch.pend := r.launch.pend.map (fun p => if p.c = c && p.decided then { p with mustFail := p.mustFail.orElse (fun _ => why) } else p) })
    if kind = 2 then flushOut part (addMark part hea c 4 s) else s

def execLaunchFaultReceived (part hea l kind : Nat) (s : State) : Out := run (part < 0x1_0000 && kind < 256) (launchFault part hea l kind) s

/-! ## Holds (R199, R526) -/

/-- The partition holds: undecided launches are withdrawn; a launch already decided runs and fails, with `all` every step without a
verdict too (log entry 44). -/
def holdPartition (part : Nat) (all : Bool) (s : State) : State :=
  match s.proot part with
  | none => s
  | some r =>
    let s := (r.launch.pend.filter (fun p => !p.decided)).foldl (fun s p => dropLaunch part p.c s) s
    let why := some (11, s.hea .crl)
    s.modRoot part (fun r => { r with
      launch.holding := true
      launch.pend := r.launch.pend.map (fun p => { p with mustFail := why })
      launch.run := if all then r.launch.run.map (fun x => { x with mustFail := why, ignore := false }) else r.launch.run })

/-! ## GO and SLIP (R188, R197 to R199, R388) -/

/-- The root's own reason to withhold GO, the lowest of several (R349, R377, R417, R422, R527). -/
def State.ownReason (s : State) (r : PRoot) (p : RPend) : Option Nat :=
  if 16 ≤ r.heldSteps then some 7
  else if r.out.lag && !s.crl.planner.solo then some 8
  else if (r.freq.held || s.crl.whorl.tripped) && !p.windUp then some 9
  else if r.repair || !r.lostMembers.isEmpty then some 10
  else none

/-- The members whose READY a launch awaits; a retry those that launched the step. -/
def PRoot.awaited (r : PRoot) (p : RPend) : List Nat := if p.retry then p.who.filter r.heas.contains else r.whoAt p.l

/-- A port that has not reported: not ready with reason 1, named by its lowest member (R197). -/
def missingReady (l : Nat) (who : List Nat) (r : PRoot) (s : State) (port : Nat) : ReadyMsg :=
  { l := l, ready := false, reason := 1, early := false, count := (who.filter (fun h => s.rootPort r h = some port)).length,
    hea := s.lowestBelow r who port, e := 0 }

/-- Index of a launch's step: COMPUTE steps launched and pending before it come first. -/
def PRoot.indexOf (r : PRoot) (p : RPend) : Nat :=
  if p.retry then p.stepIdx
  else
    let held := fun (f : Option (Nat × Nat)) => f.any (fun w => w.1 = 11)
    r.launch.stepIdx + (r.launch.run.filter (fun x => x.kind = 0 && !x.ignore && !held x.mustFail)).length
      + (r.launch.pend.filter (fun x => x.kind = 0 && x.l < p.l && !held x.mustFail)).length

/-- GO, in fast mode early where every member's descriptor allows it. -/
def sendGo (part : Nat) (p : RPend) (m : ReadyMsg) (s : State) : State :=
  match s.proot part with
  | none => s
  | some r =>
    let early := p.l / 64 * 64
    let least := max (m.e + 256) (s.crlDtc part + 306 + ceilDiv r.dn 100)
    let at_ := if r.fast && m.early && least ≤ early then early else p.l
    let idx := r.indexOf p
    let s := s.modRoot part (fun r => { r with
      launch.pend := r.launch.pend.map (fun x => if x.c = p.c then { x with decided := true, launchAt := at_, stepIdx := idx } else x) })
    rootTree part r 0x03 (lay [(8, p.l), (8, at_), (8, idx)]) s

/-- Cells of the transactions targeted at `l` once more (R194). -/
def resendTxns (part l : Nat) (s : State) : State :=
  match s.proot part with
  | none => s
  | some r => (r.txns.filter (fun t => t.target = l)).foldl (fun s t => sendTxn part t s) s

/-- SLIP of a launch by `d`, naming a HEA and reason. Where a member was not ready, the LAUNCH_SET and the cells of the launch's transactions
go out `again` for one that lacks them (R194, R198). -/
def slipBy (part : Nat) (p : RPend) (d hea reason : Nat) (again : Bool) (s : State) : State :=
  match s.proot part with
  | none => s
  | some r =>
    let s := rootTree part r 0x04 (lay [(8, p.l), (8, p.l + d), (4, p.slips + 1), (4, hea), (1, reason)]) s
    let s := s.modRoot part (fun r => { r.shift p.l d (some (p.c, reason)) with ledger.slips := r.ledger.slips + 1 })
    let s := if again then rootTree part r 0x00 (launchSetBody (p.l + d) p.idx p.c) s else s
    let s := if again then resendTxns part (p.l + d) s else s
    if hea ≠ s.hea .crl && (reason = 3 || reason = 4) then addMark part hea p.c 4 s else s

/-- The launch slips, or stalls once it has slipped SLIP_MAX times. -/
def slipOrStall (part : Nat) (p : RPend) (m : ReadyMsg) (hea reason : Nat) (again : Bool) (s : State) : State :=
  match s.proot part with
  | none => s
  | some r =>
    if r.slipMax ≤ p.slips then
      holdPartition part false (s.raise .crl 0x1406 part [p.l, hea, reason, m.count])
    else
      let l' := if r.fast then ceilTo (max (p.l + 1000) (m.e + r.trdy)) 64 else p.l + r.q
      flushOut part (slipBy part p (l' - p.l) hea reason again s)

/-- The decision on a launch, with what has arrived. -/
def decideLaunch (part l : Nat) (s : State) : State :=
  match s.proot part with
  | none => s
  | some r =>
    match r.launch.pend.find? (fun p => p.l = l && !p.decided) with
    | none => s
    | some p =>
      let who := r.awaited p
      let ports := s.rootPorts r who
      let absent := ports.filter (fun n => !p.reports.any (fun e => e.1 = n))
      let got := (p.reports.filter (fun e => ports.contains e.1)).map (·.2)
      let m := readyAll l (got ++ absent.map (missingReady l who r s))
      if !m.ready then slipOrStall part p m m.hea m.reason true s
      else match s.ownReason r p with
        | some why => slipOrStall part p m (s.hea .crl) why false s
        | none => sendGo part p m s

/-- READY at the root; with the last of a launch the root decides. -/
def readyAtRoot (part port : Nat) (m : ReadyMsg) (s : State) : State :=
  let s := s.modRoot part (fun r => { r with
    launch.pend := r.launch.pend.map (fun p =>
      if p.l = m.l && !p.decided then { p with reports := fileReport ReadyMsg.l port m p.reports } else p) })
  match s.proot part with
  | none => s
  | some r =>
    match r.launch.pend.find? (fun p => p.l = m.l && !p.decided) with
    | none => s
    | some p => if (s.rootPorts r (r.awaited p)).all (fun n => p.reports.any (fun e => e.1 = n)) then decideLaunch part m.l s else s

def execReadyAtRoot (part port : Nat) (m : ReadyMsg) (s : State) : Out := run (part < 0x1_0000 && port < 129) (readyAtRoot part port m) s

/-- At DTC = L - 306 - Dn the root decides with what has arrived. -/
def decisionDue (part l : Nat) (s : State) : State :=
  match s.proot part with
  | none => s
  | some r => if 100 * l ≤ 100 * (s.crlDtc part + 306) + r.dn then decideLaunch part l s else s

def execLaunchDecisionDeadline (part l : Nat) (s : State) : Out := run (part < 0x1_0000) (decisionDue part l) s

/-! ## Verdicts (R522, R523, R526, R538, R539) -/

/-- The time of a step joins its kind's amount. -/
def Ledger.book (l : Ledger) (x : RStep) : Ledger :=
  match x.kind with
  | 0 => { l with useful := l.useful + x.dur }
  | 1 => { l with maint := l.maint + x.dur }
  | _ => if x.windUp then { l with windUp := l.windUp + x.dur } else { l with idle := l.idle + x.dur }

/-- The time of a failed attempt. -/
def Ledger.fail (l : Ledger) (x : RStep) : Ledger :=
  { l with failed := l.failed + 1, retried := l.retried + x.dur, share := l.share + (if x.shareBy then x.dur else 0) }

def commitBody (l verdict cause c hea rl sigma rc : Nat) : Bytes :=
  lay [(8, l), (1, verdict), (1, cause), (4, c), (4, hea), (8, rl), (8, sigma), (4, rc)]

/-- A step is committed as complete. -/
def commitStep (part : Nat) (x : RStep) (s : State) : State :=
  match s.proot part with
  | none => s
  | some r =>
    let s := rootTree part r 0x0D (commitBody x.l 1 0 x.c noHea 0 0 0) s
    let now := s.crlDtc part
    let s := s.modRoot part (fun r => { r with
      launch.run := r.launch.run.filter (fun y => y.c ≠ x.c)
      launch.stepIdx := if x.kind = 0 then r.launch.stepIdx + 1 else r.launch.stepIdx
      launch.lastC := x.c, launch.lastIdx := x.stepIdx
      slots := x.slots.foldl (fun t e => tput t e.1 e.2) r.slots
      ledger := { r.ledger.book x with steps := r.ledger.steps + 1, lastCommit := now } })
    traceCommit part x (noteStall part (commitOutput part x s))

/-- The launch that repeats a step. -/
def RStep.again (x : RStep) (l c : Nat) : RPend :=
  { l := l, idx := x.idx, c := c, kind := x.kind, base := l, stepIdx := x.stepIdx, retry := true, attempt := x.attempt + 1, image := x.image,
    who := x.who, windUp := x.windUp }

/-- Retry launch count of a failed step (R523). -/
def PRoot.retryAt (r : PRoot) (now : Nat) : Nat :=
  max ((r.launch.pend.head?.map (·.l)).getD now) (ceilTo (ceilDiv (100 * (now + 2 * r.trdy) + r.dn) 100) 64)

/-- Both steps run again, and every pending launch moves. -/
def retrySteps (part : Nat) (x : RStep) (next : Option RStep) (cause hea : Nat) (s : State) : State :=
  match s.proot part with
  | none => s
  | some r =>
    let l1 := (next.map (·.l)).getD x.l
    let rl := r.retryAt (s.crlDtc part)
    let sigma := rl + (l1 - x.l) - l1
    let c := (r.launch.commitNo + 1) % 2 ^ 32
    let s := rootTree part r 0x0D (commitBody x.l 2 cause x.c hea rl sigma c) s
    let news := x.again rl c :: next.toList.map (fun y => y.again (rl + (l1 - x.l)) ((c + 1) % 2 ^ 32))
    s.modRoot part (fun r =>
      let r := r.shift 0 sigma none
      let r := { r with launch.heldAcc := r.launch.heldAcc + ((r.launch.emptySince.map (fun t => s.crlDtc part - t)).getD 0) }
      let r := { r with launch.commitNo := (r.launch.commitNo + news.length) % 2 ^ 32, launch.emptySince := none }
      r.setPend (r.launch.pend ++ news))

/-- The partition holds for good reason: `STEP_FAILED` or `STEP_RETRY_EXHAUSTED`. -/
def failForGood (part code : Nat) (x : RStep) (cause : Nat) (s : State) : State :=
  match s.proot part with
  | none => s
  | some r => holdPartition part true (s.raise .crl code part [x.idx, cause, r.launch.lastC, r.launch.lastIdx])

/-- A step failed: its advances are discarded, and so are those of the step after it. -/
def failStep (part : Nat) (x : RStep) (cause hea : Nat) (noRetry : Bool) (s : State) : State :=
  match s.proot part with
  | none => s
  | some r =>
    let hold := decide (cause = 11)
    let next := if hold then none else r.launch.run.find? (fun y => x.l < y.l && (y.mustFail.all (fun f => f.1 ≠ 11)))
    let share := cause = 6 || cause = 10 || (cause = 1 && (x.plyCause = some 1 || x.plyCause = some 3))
    let quiet := hold || r.launch.holding || r.tearing
    let s := s.modRoot part (fun r => { r with
      launch.run := (r.launch.run.filter (fun y => y.c ≠ x.c)).map (fun y =>
        if next.any (fun n => n.c = y.c) then { y with ignore := true, shareBy := share, slots := [], toks := [], lse := [] } else y)
      ledger := r.ledger.fail { x with shareBy := share } })
    if quiet then rootTree part r 0x0D (commitBody x.l 2 cause x.c hea 0 0 0) s
    else if noRetry || 8 ≤ x.attempt + 1 then
      let s := rootTree part r 0x0D (commitBody x.l 2 cause x.c hea 0 0 0) s
      failForGood part (if noRetry then 0x1407 else 0x1408) x cause s
    else retrySteps part x next cause hea s

/-- A port that has not voted: failed with cause 10, named by its lowest member (R522). -/
def missingVote (x : RStep) (r : PRoot) (s : State) (port : Nat) : VoteMsg :=
  { l := x.l, ok := false, cause := 10, noRetry := false, count := (x.who.filter (fun h => s.rootPort r h = some port)).length,
    hea := s.lowestBelow r x.who port }

/-- The verdict on a step that ended, with the votes that have arrived. -/
def verdict (part l : Nat) (s : State) : State :=
  match s.proot part with
  | none => s
  | some r =>
    match r.launch.run.find? (fun x => x.l = l && x.endD.isSome && !x.ignore) with
    | none => s
    | some x =>
      let ports := s.rootPorts r x.who
      let absent := ports.filter (fun n => !x.votes.any (fun e => e.1 = n))
      let v := voteAll l ((x.votes.filter (fun e => ports.contains e.1)).map (·.2) ++ absent.map (missingVote x r s))
      match x.mustFail with
      | some (11, h) => failStep part x 11 h v.noRetry s
      | w =>
        if !v.ok then failStep part x v.cause v.hea v.noRetry s
        else match w with
          | some (cause, h) => failStep part x cause h v.noRetry s
          | none => commitStep part x s

/-- COMMIT_VOTE at the root; with the last of a step the root decides. -/
def voteAtRoot (part port : Nat) (m : VoteMsg) (s : State) : State :=
  let s := s.modRoot part (fun r => { r with
    launch.run := r.launch.run.map (fun x => if x.l = m.l then { x with votes := fileReport VoteMsg.l port m x.votes } else x) })
  match s.proot part with
  | none => s
  | some r =>
    match r.launch.run.find? (fun x => x.l = m.l && x.endD.isSome && !x.ignore) with
    | none => s
    | some x => if (s.rootPorts r x.who).all (fun n => x.votes.any (fun e => e.1 = n)) then verdict part m.l s else s

def execCommitVoteAtRoot (part port : Nat) (m : VoteMsg) (s : State) : Out := run (part < 0x1_0000 && port < 129) (voteAtRoot part port m) s

/-- T_CMT: 1,150 ns and Up, rounded up to a multiple of 10 ns. -/
def PRoot.tcmt (r : PRoot) : Nat := 10 * ceilDiv (115_000 + r.up) 1000

/-- At D + T_CMT missing votes count as failed with cause 10. -/
def verdictDue (part l : Nat) (s : State) : State :=
  match s.proot part with
  | none => s
  | some r =>
    if r.launch.run.any (fun x => x.l = l && x.endD.any (fun d => d + r.tcmt ≤ s.crlDtc part)) then verdict part l s else s

def execCommitDecisionDeadline (part l : Nat) (s : State) : Out := run (part < 0x1_0000) (verdictDue part l) s

end Sys2Proof.Machine
end

