-- ==== Sys2Proof/Machine/RootDoff.lean ====
section
/-! DEFINITION. A doff at the partition root: the step before ends and is booked, the partition bank swaps, requests, groups, rings,
adapters, stagger and frequency follow, the standby root is sent its delta, and a partition being torn down goes (R191, R202, R336, R353,
R371, R374 to R377, R417, R532, R538). -/

namespace Sys2Proof.Machine

/-! ## The step before (R521, R522, R538) -/

/-- Slips of a launch within the interval from the launch before it. -/
def RPend.slipsAfter (p : RPend) (lastL : Nat) : List (Nat × Nat) :=
  slipsUntil (p.launchAt - max p.base lastL) (slipsFrom (lastL - p.base) p.slipBy)

/-- What the ledger keeps of a step that no verdict will reach: one failed with the step before it, or the IDLE step that ends at the
leave doff. -/
def Ledger.unvoted (l : Ledger) (x : RStep) : Ledger := if x.ignore then l.fail x else l.book x

/-- The interval before a launch ends, and with it the step before it. -/
def endBefore (part : Nat) (p : RPend) (s : State) : State :=
  s.modRoot part (fun r =>
    let gone := r.tearC = some p.c
    let x := r.interval p.launchAt (p.slipsAfter r.launch.lastL)
    let ended := r.launch.run.map (fun (y : RStep) =>
      if y.endD.isSome then y else { y with dur := x.2, endD := some (p.launchAt - 256) })
    let led := if r.ledger.first.isNone then { r.ledger with first := some p.launchAt } else x.1
    let drop := fun (y : RStep) => y.ignore || (gone && y.endD = some (p.launchAt - 256))
    { r with
        launch.run := ended.filter (fun y => !drop y)
        launch.lastL := p.launchAt, launch.heldAcc := 0, launch.tookOver := none
        ledger := (ended.filter drop).foldl (fun l y => l.unvoted y) { led with early := led.early + (if p.launchAt < p.l then 1 else 0) } })

/-! ## What transactions change (R193, R297, R345, R361, R375) -/

/-- What an act of a transaction changes at its doff. -/
def doffAct (part : Nat) (a : RAct) (s : State) : State :=
  match a with
  | .rings st dn => s.modRoot part (fun r => { r with out.stepRing := some st, out.doneRing := some dn })
  | .group g c => s.modRoot part (fun r => { r with groups := groupActs r.groups [.group g c] })
  | .rebind epoch reqs => reqs.foldl (fun s i => s.modReq i (fun e => { e with aEpoch := epoch })) s
  | .join idx slot =>
    match s.proot part, s.req idx with
    | some r, some e =>
      if slotMapOf r.bank slot ≠ some idx then s
      else
        let st : SlotState2 := e.saved.getD { think := (bankSlot r.bank slot).thinkStart }
        noteReq idx (fun e => { e with started := true, saved := none }) (s.modRoot part (fun r => { r with slots := tput r.slots slot st }))
    | _, _ => s

/-- The partition bank takes the transactions of a launch; a retry doff takes none. -/
def doffTxns (part : Nat) (p : RPend) (s : State) : State :=
  match s.proot part with
  | none => s
  | some r =>
    if p.retry then s
    else
      let mine := r.txns.filter (fun t => t.target = p.l)
      let s := s.modRoot part (fun r => { r with
        txns := r.txns.filter (fun t => t.target ≠ p.l)
        bank := mine.foldl (fun m t => t.bank.foldl (fun m w => memPut m w.1 w.2) m) r.bank })
      (mine.flatMap (·.acts)).foldl (fun s a => doffAct part a s) s

/-! ## Requests (R205, R353, R371) -/

/-- A request whose join or leave targets this doff. -/
def doffReq (idx : Nat) (e : ReqEnt) (s : State) : State :=
  match e.state with
  | .joining => setReqState idx .running s
  | .leaving =>
    let st := s.reqTokens e
    if e.stopped then freeReq idx s
    else if st.1.done then noteReq idx (fun e => { e with gone := true }) s
    else if e.cancel then closeReq 2 0 idx s
    else if e.newSlot ≠ 0xFFFF then
      setReqState idx .moving (s.modReq idx (fun e => { e with
        slot := 0xFFFF, band := 0xFF, started := false, resumed := false, saved := some st.1, finalC := st.2 }))
    else s
  | _ => s

def doffReqs (part c : Nat) (s : State) : State :=
  (s.crl.planner.reqs.filter (fun (e : Nat × ReqEnt) => e.2.part = part && e.2.targetC = c && !e.2.gone)).foldl
    (fun s (e : Nat × ReqEnt) => doffReq e.1 e.2 s) s

/-! ## Members, launch state, adapters (R27, R202, R374, R417) -/

/-- Members join or leave with their launch. -/
def doffMembers (part c : Nat) (s : State) : State :=
  s.modRoot part (fun r =>
    let left := (r.members.filter (fun m => m.leaveC = some c)).map (·.hea)
    { r with
        members := (r.members.filter (fun m => m.leaveC ≠ some c)).map (fun m => if m.joinC = some c then { m with joinC := none } else m)
        lostMembers := r.lostMembers.filter (fun h => !left.contains h) })

/-- The frequency step that the members run at from the doff on. -/
def PRoot.effStep (r : PRoot) : Nat := min (bankNat r.bank (commonBase + bankFstep) 1 % 16) (bankNat r.bank (commonBase + bankFceil) 1 % 16)

/-- The step launched, with its image. -/
def doffStep (part : Nat) (p : RPend) (who : List Nat) (s : State) : State :=
  s.modRoot part (fun r =>
    let x : RStep := { l := p.launchAt, idx := p.idx, c := p.c, stepIdx := p.stepIdx, kind := p.kind, attempt := p.attempt, who := who,
                       mustFail := p.mustFail, eff := r.effStep, retries := p.attempt,
                       image := if p.retry then p.image else r.bank, windUp := p.windUp }
    { r with
        computed := r.computed || p.kind = 0
        launch.run := r.launch.run ++ [x]
        launch.recent := (r.launch.recent ++ [p.c]).drop (r.launch.recent.length + 1 - 64)
        plan.draining := (r.plan.draining.map (fun d => (d.1, d.2 + 1))).filter (fun d => d.2 < 4096) })

/-- The launch pends no longer; a new stagger is taken, a lower one only where nothing pends. -/
def doffPending (part : Nat) (p : RPend) (s : State) : State :=
  s.modRoot part (fun r =>
    let rest := r.launch.pend.filter (fun x => x.c ≠ p.c)
    let take := r.launch.newStagger.filter (fun v => r.launch.stagger ≤ v || rest.isEmpty)
    { r with
        plan.due := r.plan.due + 1
        launch.pend := rest, launch.emptySince := if rest.isEmpty then some p.launchAt else none
        launch.stagger := take.getD r.launch.stagger, launch.newStagger := if take.isSome then none else r.launch.newStagger })

/-- Whether an entry counts toward its adapter epoch (R352). -/
def ReqEnt.counts (e : ReqEnt) : Bool := e.state ≠ .queued && e.aEpoch ≠ 0

/-- Retiring epochs without a request are freed. -/
def freeAdapters (part : Nat) (s : State) : State :=
  match s.proot part with
  | none => s
  | some r =>
    let used := fun (id epoch : Nat) =>
      s.crl.planner.reqs.any (fun (e : Nat × ReqEnt) => e.2.part = part && e.2.counts && e.2.adapter = id && e.2.aEpoch = epoch)
    let freed := r.adapters.flatMap (fun a => (a.retiring.filter (fun x => !used a.id x)).map (fun x => (a.id, x)))
    let s := s.modRoot part (fun r => { r with
      adapters := r.adapters.map (fun a => { a with retiring := a.retiring.filter (fun x => !freed.contains (a.id, x)) }) })
    freed.foldl (fun s f => (planRec part { rtype := 0x44, epoch := f.2, hea := f.1 } s).setEv .crl 0x4204 7) s

/-! ## Mirroring (R376, R377) -/

/-- Whether an entry of a partition changed since it was last sent. -/
def State.unsent (s : State) (part : Nat) : Bool :=
  s.crl.planner.reqs.any (fun (e : Nat × ReqEnt) => e.2.part = part && e.2.mgen ≠ some e.2.gen)

/-- The doff's delta to the standby root, and `MIRROR_LAG` where one of four launches ago is unacknowledged. -/
def mirrorDoff (part c writes : Nat) (s : State) : State :=
  if !s.mirrors then s
  else
    match s.proot part with
    | none => s
    | some r =>
      let s := journal part c 4 r.adapters.length [] (journal part c 3 writes [] (journal part c 2 r.slots.length [] s))
      let s := if s.unsent part then mirrorEntries part s else journal part c 1 0 [] s
      let lag := r.out.unacked.any (fun u => u + 4 ≤ c)
      let s := s.modRoot part (fun r => { r with out.unacked := r.out.unacked ++ [c], out.lag := lag })
      if lag && !r.out.lag then (s.setEv .crl 0x4204 4).raise .crl 0x1801 part [part, c] else s

/-- MIRROR_ACK. -/
def mirrorAck (part c : Nat) (s : State) : State :=
  s.modRoot part (fun r =>
    let left := r.out.unacked.filter (· ≠ c)
    { r with out.unacked := left, out.lag := left.any (fun u => u + 4 ≤ r.nowC) })

def execMirrorAckReceived (part c n : Nat) (s : State) : Out :=
  run (part < 0x1_0000 && n < 2 ^ 32) (fun s => { mirrorAck part c s with crl.planner.standbyTick := s.cc.time.tick }) s

/-! ## The end of a partition (R353, R532) -/

/-- Commands that wait for a transaction which no launch will take, or for a planning pass. -/
def dropCmds (r : PRoot) (s : State) : State :=
  let s := (r.txns.flatMap (·.cmds)).foldl (fun s (q : Req × Nat × Bytes) => complete .crl q.1 q.2.1 2 0x0404 0 [] s) s
  let s := r.plan.cancels.foldl (fun s (q : Nat × Req) => complete .crl q.2 0x0602 2 0x0404 0 [] s) s
  r.plan.rebinds.foldl (fun s (q : Nat × Req) => complete .crl q.2 0x0609 2 0x0404 0 [] s) s

/-- Every request of the partition fails, with its record. -/
def dropReqs (part : Nat) (s : State) : State :=
  (s.crl.planner.reqs.filter (fun (e : Nat × ReqEnt) => e.2.part = part)).foldl
    (fun s (e : Nat × ReqEnt) => if e.2.stopped then freeReq e.1 s else closeReq 3 0x0404 e.1 s) s

/-- Every trace of a partition at this Creel but its held output: trees, epoch entry, rounds. -/
def dropTrees (part : Nat) (s : State) : State :=
  { setEpoch part none s with
      crl.ply.trees := s.crl.ply.trees.filter (fun (e : Nat × Tree) => e.1 / 65536 ≠ part)
      crl.ply.rounds := s.crl.ply.rounds.filter (fun (e : Nat × Round) => e.1 / 65536 ≠ part)
      crl.held := tdel s.crl.held part
      crl.combine := tdel s.crl.combine part, crl.voting := tdel s.crl.voting part }

/-- The partition leaves its root; output that its rings have not taken stays. -/
def dropPartition (part : Nat) (s : State) : State :=
  match s.proot part with
  | none => s
  | some r =>
    let s := flushOut part ((dropReqs part (dropCmds r s)).modRoot part (fun r => { r with launch.run := [], txns := [] }))
    match s.proot part with
    | none => s
    | some r =>
      let keep := if r.out.held.isEmpty then s.crl.parts else tput s.crl.parts (part + 65536 * r.epoch) { r with launch.pend := [], members := [] }
      dropTrees part { s with crl.parts := tdel keep part }

/-! ## The doff -/

/-- Everything of a doff up to the step's launch. -/
def doffBank (part : Nat) (p : RPend) (s : State) : State :=
  match s.proot part with
  | none => s
  | some r =>
    let who := r.awaited p
    let s := doffTxns part p (endBefore part p s)
    let s := doffMembers part p.c (if p.retry then s else doffReqs part p.c s)
    doffStep part p who (if s.proot part |>.any (fun x => x.groups = r.groups && x.members = r.members) then s else reinstall part s)

/-- What follows: records, mirror, frequency. -/
def doffAfter (part : Nat) (p : RPend) (writes : Nat) (s : State) : State :=
  let s := freeAdapters part (doffPending part p s)
  noteStall part (flushOut part (refreshFreq part (mirrorDoff part p.c writes s)))

/-- A wind-down ends at an IDLE step whose doff leaves ballast level 0 (R419). -/
def windEnds (part : Nat) (p : RPend) (s : State) : State :=
  if p.kind = 2 && (s.proot part).any (fun r => r.tearing && r.freq.windDown && bankNat r.bank (commonBase + bankBallast) 1 = 0) then tearNow part s
  else s

/-- D of the partition's next decided launch, once it has come. At the leave doff of a teardown the step is not run. -/
def rootDoff (part : Nat) (s : State) : State :=
  match s.proot part with
  | none => s
  | some r =>
    match r.launch.pend.head? with
    | none => s
    | some p =>
      if !p.decided || s.crlDtc part + 256 < p.launchAt then s
      else
        let writes := ((r.txns.filter (fun t => t.target = p.l)).flatMap (·.bank)).length
        if r.tearC = some p.c then dropPartition part (doffTxns part p (endBefore part p s))
        else windEnds part p (doffAfter part p writes (doffBank part p s))

def execRootDoff (part : Nat) (s : State) : Out := run (part < 0x1_0000) (rootDoff part) s

end Sys2Proof.Machine
end

