-- ==== Sys2Proof/Machine/RootLost.lean ====
section
/-! DEFINITION. Losing a tree link, a mirror or a root: repair, planning alone and the table's rebuild at a standby, and the standby's
takeover (R376, R377, R527 to R530). -/

namespace Sys2Proof.Machine

/-! ## Tree links (R17, R527) -/

/-- Whether the root's trees reach a member around the broken ports: a root port to its row or its sibling, the row Creel's port to the
rack, the rack Creel's port to the row. -/
def State.reaches (s : State) (r : PRoot) (h : Nat) : Bool :=
  let below := r.broken.any (fun b =>
    crlHea b.1 && b.1 ≠ s.hea .crl && heaRow b.1 = heaRow h &&
      (if 64 ≤ heaRack b.1 then b.2 = heaRack h else heaRack b.1 = heaRack h && 64 ≤ b.2))
  let ups := r.broken.filter (fun b => crlHea b.1 && heaRow b.1 = heaRow h && 64 ≤ heaRack b.1 && 64 ≤ b.2 && b.1 ≠ s.hea .crl)
  (s.rootPort r h).isSome && !below && (s.cc.topo.tier ≠ 3 || ups.length < 2)

/-- TREE_BREAK: until new trees are installed every launch slips with reason 10. -/
def treeBreak (part hea port : Nat) (s : State) : State :=
  s.modRoot part (fun r => { r with repair := true, broken := (r.broken ++ [(hea, port)]).eraseDups })

def execTreeBreakReceived (part hea port : Nat) (s : State) : Out := run (part < 0x1_0000 && port < 129) (treeBreak part hea port) s

/-- Members that broken down ports of rack Creels lead to. The rack's port map is not the root's to hold: which member of the rack it
is, is free (log entry 45). -/
def rackLost (r : PRoot) (s : State) : List Nat × State :=
  (r.broken.filter (fun b => crlHea b.1 && heaRack b.1 < 64 && b.2 < 64 && b.1 ≠ s.hea .crl)).foldl (fun x b =>
    let there := r.heas.filter (fun h => heaRow h = heaRow b.1 && heaRack h = heaRack b.1)
    let d := x.2.draw
    if there.isEmpty then x else ((x.1 ++ [there.getD (d.1 % there.length) noHea]).eraseDups, d.2)) ([], s)

/-- New trees are installed. Whether every member that they do not reach is reachable in the other plane is free (log entry 45): if
not, each is lost. -/
def treeRepair (part : Nat) (s : State) : State :=
  match s.proot part with
  | none => s
  | some r =>
    if !r.repair then s
    else
      let up := fun (b : Nat × Nat) => b.1 = s.hea .crl && (s.port .crl b.2).state = .up
      let r := { r with broken := r.broken.filter (fun b => !up b) }
      let x := rackLost r s
      let gone := (r.heas.filter (fun h => !s.reaches r h) ++ x.1).eraseDups
      let d := x.2.draw
      let other := !gone.isEmpty && d.1 % 2 = 1
      let s := reinstall part (d.2.modRoot part (fun q => { q with broken := r.broken, repair := other, lostMembers := if other then q.lostMembers else gone }))
      if other then s else (gone.filter (fun h => !r.lostMembers.contains h)).foldl (fun s h => s.raise .crl 0x1409 part [h]) s

def execTreeRepairDone (part : Nat) (s : State) : Out := run (part < 0x1_0000) (treeRepair part) s

/-! ## The standby takes over (R529) -/

/-- PX has been out of UP, or silent, for 1 ms. -/
def State.pxLost (s : State) : Bool :=
  let q := s.port .crl pxPort
  (q.state ≠ .up && q.since + 1_000_000 ≤ s.cc.time.tick) || q.heardAt + 1_000_000 ≤ s.cc.time.tick

/-- A request at takeover fails with `REPLICA_LOST`, or goes on. -/
def takeoverReq (part : Nat) (beyond : Bool) (idx : Nat) (e : ReqEnt) (s : State) : State :=
  let s := { s with crl.planner.reqs := tput s.crl.planner.reqs idx e }
  if !e.mirrored || (beyond && (e.state = .running || e.state = .joining || e.state = .leaving)) then
    (closeReq 3 0x1805 idx s).raise .crl 0x1805 part [e.id]
  else s

/-- The partition as the new root takes it from its mirror: held, with no launch and no step undecided. -/
def Mirror.resume (m : Mirror) (cr : Nat) : PRoot :=
  let l := m.root.launch
  { m.root with
      inService := true, repair := false, broken := [], txns := []
      launch := { l with pend := [], run := [], holding := true, commitNo := max l.commitNo (max cr m.cm), lastC := max l.lastC cr,
                         tookOver := some m.root.ledger.lastCommit, lastL := m.root.ledger.lastCommit, emptySince := none } }

/-- The takeover of a partition, once both conditions hold. -/
def tryTakeover (part : Nat) (s : State) : State :=
  match tfind s.crl.mirror part with
  | none => s
  | some m =>
    let reps := (tget [] s.crl.lostRep part).filter (fun x => m.root.heas.contains x.1)
    if !s.pxLost || 2 * reps.length ≤ m.root.members.length then s
    else
      let cr := (reps.map (·.2)).foldl max 0
      let s := { setEpoch part (some m.root.epoch) s with
        crl.parts := tput s.crl.parts part (m.resume cr), crl.mirror := tdel s.crl.mirror part, crl.lostRep := tdel s.crl.lostRep part
        crl.planner.solo := true }
      let s := reinstall part s
      let s := match s.proot part with
        | some r => rootTree part r 0x0F (le 4 cr) s
        | none => s
      flushOut part (m.reqs.foldl (fun s (e : Nat × ReqEnt) => takeoverReq part (decide (m.cm < cr)) e.1 e.2 s) (s.raise .crl 0x1804 part [part, cr]))

/-- ROOT_LOST_REPORT: a member's latest one counts. -/
def rootLostReportTaken (part hea c : Nat) (s : State) : State :=
  let l := (tget [] s.crl.lostRep part).filter (fun x => x.1 ≠ hea) ++ [(hea, c)]
  tryTakeover part { s with crl.lostRep := tset [] s.crl.lostRep part l }

def execRootLostReportReceived (part hea c : Nat) (s : State) : Out := run (part < 0x1_0000 && hea < 2 ^ 32) (rootLostReportTaken part hea c) s

/-! ## Planning alone and the rebuild (R377) -/

/-- Whether the standby root has gone: PX is not UP, or nothing was answered for 10 ms. -/
def State.standbyLost (s : State) : Bool :=
  (s.port .crl pxPort).state ≠ .up ||
    (s.crl.parts.any (fun (e : Nat × PRoot) => !e.2.out.unacked.isEmpty) && s.crl.planner.standbyTick + 10_000_000 ≤ s.cc.time.tick)

/-- `MIRROR_LOST`: the root plans alone, with no MIRROR slip and no entry mirrored. A standby root whose partner is silent may now take
over. -/
def mirrorSilence (s : State) : State :=
  let s := s.crl.mirror.foldl (fun s (e : Nat × Mirror) => tryTakeover e.1 s) s
  if s.crl.planner.solo || s.crl.parts.isEmpty || !s.standbyLost then s
  else
    let s := { s with
      crl.planner.solo := true, crl.planner.rebuild := none
      crl.planner.reqs := s.crl.planner.reqs.map (fun (e : Nat × ReqEnt) => (e.1, { e.2 with mirrored := false, mgen := none }))
      crl.parts := s.crl.parts.map (fun (e : Nat × PRoot) => (e.1, { e.2 with out.unacked := [], out.lag := false })) }
    (s.setEv .crl 0x4204 5).raise .crl 0x1802 0 []

def execMirrorSilenceTimeout (s : State) : Out := run true mirrorSilence s

/-- A standby root is present again: the table is copied from its first entry on. -/
def rebuildStart (s : State) : State :=
  if s.crl.planner.solo && (s.port .crl pxPort).state = .up && s.crl.planner.rebuild.isNone then { s with crl.planner.rebuild := some 0 } else s

def execMirrorRebuildStart (s : State) : Out := run true rebuildStart s

/-- A slice of the rebuild copies the next `n` entries; after the last one deltas resume. -/
def rebuildSlice (n : Nat) (s : State) : State :=
  match s.crl.planner.rebuild with
  | none => s
  | some at_ =>
    let todo := (s.crl.planner.reqs.filter (fun (e : Nat × ReqEnt) => at_ ≤ e.1)).take n
    let here := fun (i : Nat) => todo.any (fun (e : Nat × ReqEnt) => e.1 = i)
    let s := { s with
      crl.planner.reqs := s.crl.planner.reqs.map (fun (e : Nat × ReqEnt) =>
        if here e.1 then (e.1, { e.2 with mirrored := true, mgen := some e.2.gen }) else e) }
    let s := todo.foldl (fun s (e : Nat × ReqEnt) =>
      journalEntries e.2.part (s.journalC e.2.part) [{ e.2 with mirrored := true }.bytes e.1] s) s
    if todo.length < n then { s with crl.planner.rebuild := none, crl.planner.solo := false, crl.planner.standbyTick := s.cc.time.tick }
    else { s with crl.planner.rebuild := some ((todo.getLast?.map (fun (e : Nat × ReqEnt) => e.1 + 1)).getD at_) }

end Sys2Proof.Machine
end

