-- ==== Sys2Proof/Machine/WhorlBase.lean ====
section
/-! DEFINITION. Whorl's envelope and the settings it is formed from, taken at each period start (R405, R406, R409, R410, R427 to R429). -/

namespace Sys2Proof.Machine

/-- Period k of a GT position (R406). -/
def whorlPeriod (gt : Int) : Nat := gtSec gt * 10_000 + gtNs gt / 100_000

/-- A register as the last period start took it (R427). -/
def State.whEnv (off : Nat) (s : State) : Nat := tget 0 s.crl.whorl.env off

/-- A plant value as last committed on the Modbus port (R424). -/
def State.plantReg (n : Nat) (s : State) : Nat := tget 0 (s.crl.plant.taken.getD []) n
def State.plantReg32 (n : Nat) (s : State) : Nat := 65536 * s.plantReg n + s.plantReg (n + 1)

/-- Whether the plant's values and conditions count: ENV_SRC = 1, a heartbeat that is not stale, and values once committed. -/
def State.plantFresh (s : State) : Bool := (s.whEnv 0x4400).testBit 1 && !s.crl.whorl.stale && s.crl.plant.taken.isSome

/-- The effective envelope in W, and W per period. -/
structure Envelope where
  pmax : Int
  pmin : Int
  up   : Int
  dn   : Int
deriving DecidableEq, Repr

/-- T_CHW less CHW_MAX, in 0.01 °C. -/
def State.chwOver (s : State) : Int := toSigned 16 (s.plantReg 7) - toSigned 16 (bits (s.whEnv 0x441C) 16 16)

/-- PMAX_E after the chilled-water condition: 1 % less per 0.1 °C begun. -/
def chwCut (pmin pmax ovr : Int) : Int := max pmin (pmax * (100 - (ovr + 9) / 10) / 100)

/-- The effective envelope (R409, R410). -/
def State.envelope (s : State) : Envelope :=
  let w := s.crl.whorl
  let pick := fun (f : Nat → Nat → Nat) (host plant : Nat) => ((if s.plantFresh then f host plant else host : Nat) : Int)
  let pmax := 1000 * pick min (s.whEnv 0x4408) (s.plantReg32 0)
  let pmin := min (1000 * pick max (s.whEnv 0x440C) (s.plantReg32 2)) pmax
  let up := 100 * pick min (bits (s.whEnv 0x4410) 0 16) (s.plantReg 4)
  let dn := 100 * pick min (bits (s.whEnv 0x4410) 16 16) (s.plantReg 5)
  { pmax := if s.plantFresh && w.chw then chwCut pmin pmax s.chwOver else pmax, pmin := pmin,
    up := if w.ramp || (s.plantFresh && w.soc) then 0 else up, dn := if w.ramp then 0 else dn }

/-- Mode and model settings. -/
def State.kbDie (s : State) : Nat := bits (s.whEnv 0x4418) 0 16
def State.dieW0 (s : State) : Nat := bits (s.whEnv 0x4418) 16 16
def State.staggerMax (s : State) : Nat := min 200 (bits (s.whEnv 0x4420) 0 8)

/-- Stagger of a lane, µs (R417). -/
def State.laneStagger (j : Nat) (s : State) : Nat := j * s.staggerMax / 60

/-- The lane's state at the master. -/
def State.whLane (j : Nat) (s : State) : WLane := tget {} s.crl.whorl.lanes j

/-- Whether this Creel is plant-connected, and its plane's plant root the master's (R405). -/
def State.plantLead (s : State) : Bool := s.cc.topo.plant && s.cc.time.lead = s.cc.topo.plane

end Sys2Proof.Machine
end

