-- ==== Sys2Proof/Machine/RootCmd.lean ====
section
/-! DEFINITION. Commands to a partition root about launches, frequency and the ledger (R186, R188, R228 to R230, R417, R418, R469,
R537, R538). -/

namespace Sys2Proof.Machine

/-! ## What every command to a partition root checks (R464) -/

/-- A Creel that holds a root role. -/
def State.rootRole (p : Part) (s : State) : Bool := p = .crl && s.cc.topo.hasRoot

/-- The partition in service here and not being torn down. -/
def State.servedRoot (part : Nat) (s : State) : Option PRoot :=
  if part < 65536 then (s.proot part).filter (fun r => r.inService && !r.tearing) else none

/-- Fails with `PARTITION_STATE` where the partition is not in service. -/
def inServiceE (part : Nat) (s : State) : Except Refuse PRoot :=
  match s.servedRoot part with
  | some r => .ok r
  | none => .error (0x0404, 0)

/-- The first index at which a list repeats an earlier element, with the index there. -/
def firstTwice : List Nat → Nat → List Nat → Option Nat
  | _, _, [] => none
  | seen, i, a :: l => if seen.contains a then some i else firstTwice (a :: seen) (i + 1) l

/-- `INVALID_FIELD`, structure 3, at the least of some offsets. -/
def listE (offs : List Nat) : Except Refuse Unit :=
  match offs.min? with
  | some o => .error (invalidField 3 o)
  | none => .ok ()

/-- L_last: the latest pending launch count, or that of the launch just made. -/
def PRoot.lastCount (r : PRoot) : Nat := ((r.launch.pend.getLast?).map (·.l)).getD r.launch.lastL

/-! ## LAUNCH_COMMIT and LAUNCH_WITHDRAW (R186, R188, R418) -/

/-- The coast launch that a host's launch at `l` withdraws. -/
def PRoot.coastGone (r : PRoot) (now l : Nat) : Option RPend :=
  match r.launch.coastC with
  | none => none
  | some c => r.launch.pend.find? (fun p => p.c = c && !p.decided && l < p.l + 4096 && now + 50_000 ≤ p.l)

/-- The host's launch is committed; a hold ends. -/
def commitLaunch (part l idx : Nat) (gone : Option RPend) (s : State) : Effect :=
  match s.proot part with
  | none => (s, none)
  | some r =>
    let s := match gone with
      | some p => dropLaunch part p.c s
      | none => s
    let s := s.modRoot part (fun r => { r with launch.coastC := none, launch.holding := false })
    let s := addLaunch part l idx (r.kindOf idx) false s
    okWith s (lay [(8, l), (4, ((s.proot part).map (·.launch.commitNo)).getD 0)])

def judgeLaunchCommit (p : Part) (s : State) (pl : Bytes) : Except Refuse (State → Effect) := do
  let part := rdLe pl 0 2
  let idx := rdLe pl 2 2
  checkPl [(0, 4), (8, 8)] [(2, idx < 4096)] pl
  guardE (s.rootRole p) wrongTarget
  let r ← inServiceE part s
  let l := rdLe pl 8 8 + 1000 * r.launch.stagger
  let now := s.crlDtc part
  guardE (now + 50_000 ≤ l) (0x0100, (now + 50_000 - l) % 2 ^ 32)
  let gone := r.coastGone now l
  let rest := { r with launch.pend := r.launch.pend.filter (fun (x : RPend) => some x.c ≠ gone.map (fun (y : RPend) => y.c)) }
  guardE (rest.lastCount + 4096 ≤ l) (0x0405, 0)
  guardE (rest.launch.pend.length < 64) (0x0406, 0)
  pure (commitLaunch part l idx gone)

def execLaunchCommit (p : Part) (q : Req) (pl : Bytes) (s : State) : Out := run (q.wf p) (runCmd p q 0x0304 2 pl (judgeLaunchCommit p)) s

def judgeLaunchWithdraw (p : Part) (s : State) (pl : Bytes) : Except Refuse (State → Effect) := do
  let part := rdLe pl 0 2
  let l := rdLe pl 8 8
  checkPl [(0, 2), (8, 8)] [] pl
  guardE (s.rootRole p) wrongTarget
  let r ← inServiceE part s
  match r.launch.pend.find? (fun x => x.l = l) with
  | none => .error (invalidField 2 8)
  | some x =>
    let now := s.crlDtc part
    guardE (now + 50_000 ≤ l) (0x0100, (now + 50_000 - l) % 2 ^ 32)
    pure (fun s => okWith (dropLaunch part x.c s))

def execLaunchWithdraw (p : Part) (q : Req) (pl : Bytes) (s : State) : Out := run (q.wf p) (runCmd p q 0x0305 2 pl (judgeLaunchWithdraw p)) s

/-! ## FREQ_REQUEST and POLICY (R228 to R230) -/

/-- HOST is set; the command waits for the transaction that writes FSTEP. -/
def requestFreq (part v : Nat) (q : Req) (s : State) : State :=
  noteCuts part (writeFstep part [(q, 0x0306, [])] (s.modRoot part (fun r => { r with freq.host := v })))

def judgeFreqRequest (p : Part) (q : Req) (s : State) (pl : Bytes) : Except Refuse (State → Effect) := do
  let part := rdLe pl 0 2
  let v := rdLe pl 2 1
  checkPl [(0, 3)] [(2, v ≤ 15)] pl
  guardE (s.rootRole p) wrongTarget
  let _ ← inServiceE part s
  pure (fun s => later (requestFreq part v q s))

def execFreqRequest (p : Part) (q : Req) (pl : Bytes) (s : State) : Out := run (q.wf p) (runCmd p q 0x0306 2 pl (judgeFreqRequest p q)) s

/-- The root's firmware sets POLICY. -/
def policySet (part v : Nat) (s : State) : State := refreshFreq part (s.modRoot part (fun r => { r with freq.policy := v }))

def execPolicySet (part v : Nat) (s : State) : Out := run (part < 0x1_0000 && v < 16) (policySet part v) s

/-! ## LEDGER_READ (R537, R538) -/

/-- The ledger as it reads: what is booked, the interval under way, and every undecided step as useful, or retried once the step before
it has failed. The slips of a pending launch count from its base on. -/
def PRoot.ledgerNow (r : PRoot) (now : Nat) : Ledger :=
  let slips := match r.launch.pend.head? with
    | some p => slipsUntil (now - max p.base r.launch.lastL) (slipsFrom (r.launch.lastL - p.base) p.slipBy)
    | none => []
  let empty := if r.launch.tookOver.isSome then 0 else (r.launch.emptySince.map (fun t => now - t)).getD 0
  let r := { r with launch.heldAcc := r.launch.heldAcc + empty }
  let x := r.interval now slips
  let steps := r.launch.run.map (fun (y : RStep) => if y.endD.isSome then y else { y with dur := x.2 })
  let led := if steps.any (fun y => y.endD.isNone) then x.1 else { x.1 with useful := x.1.useful + x.2 }
  if r.ledger.first.isNone then r.ledger
  else steps.foldl (fun (l : Ledger) y =>
    if y.ignore then { l with retried := l.retried + y.dur, share := l.share + (if y.shareBy then y.dur else 0) }
    else { l with useful := l.useful + y.dur }) led

/-- Its 256 bytes. -/
def Ledger.bytes (l : Ledger) (part epoch now : Nat) : Bytes :=
  padTo 256 (lay ([(2, part), (2, 0), (4, epoch), (8, now), (8, l.first.getD 0), (8, l.steps), (8, l.failed), (8, l.slips), (8, l.early), (8, 0),
    (8, l.useful), (8, l.retried), (8, l.maint), (8, l.idle), (8, l.held)] ++ l.slip.map (fun v => (8, v)) ++
    [(8, l.windUp), (8, l.takeover), (8, l.share)]))

def judgeLedgerRead (p : Part) (s : State) (pl : Bytes) : Except Refuse (State → Effect) := do
  let part := rdLe pl 0 2
  let a := rdLe pl 8 8
  checkPl [(0, 2), (8, 8)] [(8, !badHostRange .crl a 256)] pl
  guardE (s.rootRole p) wrongTarget
  match (s.proot part).filter (·.inService) with
  | none => .error (0x0404, 0)
  | some r =>
  let now := s.crlDtc part
  pure (fun s => okWith (s.wr .crl a ((r.ledgerNow now).bytes part r.epoch now)) (le 4 256))

def execLedgerRead (p : Part) (q : Req) (pl : Bytes) (s : State) : Out := run (q.wf p) (runCmd p q 0x0307 2 pl (judgeLedgerRead p)) s

end Sys2Proof.Machine
end

