-- ==== Sys2Proof/Machine/Prefix.lean ====
section
/-! DEFINITION. The prefix index: chain hashes, lookup, insertion and removal (R356, R362 to R366). -/

namespace Sys2Proof.Machine

/-! ## Chain hashes (R355, R356) -/

/-- Blocks with a hash of a prompt of `n` tokens. -/
def blocksOf (n : Nat) : Nat := min 4096 (n / 64)
/-- Offset of the chain hashes in a prompt area. -/
def hashOff (n : Nat) : Nat := ceilTo (4 * n) 64

/-- The chain hashes of a prompt's tokens, one after another. -/
def chainHashes (ns : Nat) (tokens : Bytes) (n : Nat) : Bytes :=
  ((List.range n).foldl (fun (x : Bytes × Bytes) i =>
    let h := (sha384 (x.1 ++ (tokens.drop (256 * i)).take 256)).take 16
    (h, x.2 ++ h)) (le 4 ns ++ List.replicate 12 0, [])).2

/-- h[i] of a request, as its prompt area holds it. -/
def State.chainHash (e : ReqEnt) (i : Nat) (s : State) : Nat := leNat (s.rd .crl (e.prompt + hashOff e.plen + 16 * i) 16)

/-! ## Presence and lookup (R362, R364, R365) -/

def prefixNodes : Nat := 2 ^ 24
/-- Bucket of a hash. -/
def bucketOf (h : Nat) : Nat := h % 2 ^ 22

/-- The node that is present for (h, i). -/
def State.present (h i : Nat) (s : State) : Option Nat :=
  (tget [] s.crl.planner.buckets (bucketOf h)).find? (fun n => (tfind s.crl.planner.nodes n).any (fun x => x.hash = h && x.block = i))

/-- The binary search for the largest prefix present, between `lo` and `hi`. -/
def searchPrefix (e : ReqEnt) (s : State) : Nat → Nat → Nat → Nat
  | 0, lo, _ => lo
  | n + 1, lo, hi =>
    if lo < hi then
      let mid := ceilDiv (lo + hi) 2
      if (s.present (s.chainHash e (mid - 1)) (mid - 1)).isSome then searchPrefix e s n mid hi else searchPrefix e s n lo (mid - 1)
    else lo

/-- The chain of a node, itself first. -/
def chainFrom (s : State) : Nat → Nat → List Nat
  | 0, _ => []
  | n + 1, k =>
    match tfind s.crl.planner.nodes k with
    | some x => k :: chainFrom s n x.parent
    | none => []

/-- A lookup: blocks matched and the last one's node. -/
def prefixLookup (e : ReqEnt) (s : State) : Nat × Option Nat :=
  let hit := searchPrefix e s 13 0 (blocksOf e.plen)
  if hit = 0 then (0, none)
  else match s.present (s.chainHash e (hit - 1)) (hit - 1) with
    | some n => (hit, some n)
    | none => (0, none)

/-- A lookup's counts. -/
def countLookup (hit : Nat) (s : State) : State :=
  let s := s.bump .crl 0x4214 1
  if hit = 0 then s else s.bump .crl 0x4218 1

/-- The request keeps its hit: every node of the chain is pinned and was used now. -/
def pinHit (idx hit : Nat) (node : Option Nat) (s : State) : State :=
  let chain := match node with
    | some n => chainFrom s 4096 n
    | none => []
  let now := s.cc.time.tick
  let s := chain.foldl (fun s n => noteLru n (s.modNode n (fun x => { x with pins := x.pins + 1, use := now }))) s
  s.modReq idx (fun e => { e with hit := hit, hitNode := node.getD 0xFFFF_FFFF, pins := chain })

/-! ## Removal (R363, R366) -/

/-- A node goes, from its bucket, its parent's count and the LRU list. -/
def dropNode (n : Nat) (s : State) : State :=
  match tfind s.crl.planner.nodes n with
  | none => s
  | some x =>
    let k := bucketOf x.hash
    let s := { s with
      crl.planner.nodes := tdel s.crl.planner.nodes n
      crl.planner.lru := s.crl.planner.lru.filter (· ≠ n)
      crl.planner.buckets := tset [] s.crl.planner.buckets k ((tget [] s.crl.planner.buckets k).filter (· ≠ n)) }
    if x.block = 0 then s else noteLru x.parent (s.modNode x.parent (fun y => { y with kids := y.kids - 1 }))

/-- A node and every node below it, the deepest last. -/
def subtree (s : State) : Nat → List Nat → List Nat
  | 0, _ => []
  | _, [] => []
  | n + 1, l => l ++ subtree s n ((s.crl.planner.nodes.filter (fun (e : Nat × PNode) => e.2.block ≠ 0 && l.contains e.2.parent)).map (·.1))

/-! ## Insertion (R366) -/

/-- The first key at or above `at_` that a table does not list. -/
def freeFrom {α : Type} (at_ : Nat) (t : Tbl α) : Nat := t.foldl (fun k e => if e.1 = k then k + 1 else k) at_

/-- A free key of a table of `n`, whose choice is open (log entry 49). -/
def drawFree {α : Type} (n : Nat) (t : Tbl α) (s : State) : Option (Nat × State) :=
  if n ≤ t.length then none
  else
    let d := s.draw
    let k := freeFrom (d.1 % n) t
    some (if k < n then k else freeFrom 0 t, d.2)

/-- The LRU list's oldest node but one makes room; its record goes to the partition that inserts. -/
def evictNode (part keep : Nat) (s : State) : Option State :=
  match s.crl.planner.lru.find? (· ≠ keep) with
  | none => none
  | some n =>
    match tfind s.crl.planner.nodes n with
    | none => none
    | some x => some ((planRec part { rtype := 0x43, hea := x.hea, page := x.page, tgt := n } (dropNode n s)).bump .crl 0x421C 1)

/-- How an insertion ends: done, no node, or a full bucket. -/
inductive InsEnd where
  | ok | full | bucket
deriving DecidableEq, Repr

/-- One block's node, below `parent`. -/
def insertNode (part h i parent ns hea page : Nat) (s : State) : State × InsEnd :=
  let k := bucketOf h
  let room := fun (s : State) => decide ((tget [] s.crl.planner.buckets k).length < 8)
  let s' := if s.crl.planner.nodes.length < prefixNodes then some s else evictNode part parent s
  match s'.bind (fun s => drawFree prefixNodes s.crl.planner.nodes s) with
  | none => (s, .full)
  | some (n, s') =>
    if !room s then (s, .bucket)
    else
      let x : PNode := { hash := h, parent := parent, block := i, hea := hea, page := page, ns := ns, use := s.cc.time.tick }
      let s' := { s' with
        crl.planner.nodes := tput s'.crl.planner.nodes n x
        crl.planner.buckets := tset [] s'.crl.planner.buckets k (tget [] s'.crl.planner.buckets k ++ [n]) }
      let s' := if i = 0 then s' else noteLru parent (s'.modNode parent (fun y => { y with kids := y.kids + 1 }))
      (noteLru n s', .ok)

/-- Blocks `i` to `b - 1` of a request's chain, ascending, with the count inserted. -/
def insertBlocks (e : ReqEnt) (b hea page0 : Nat) : Nat → Nat → Nat → State → State × Nat × InsEnd
  | 0, _, done, s => (s, done, .ok)
  | n + 1, i, done, s =>
    if b ≤ i then (s, done, .ok)
    else
      let h := s.chainHash e i
      let parent := if i = 0 then some 0xFFFF_FFFF else s.present (s.chainHash e (i - 1)) (i - 1)
      match s.present h i, parent with
      | some _, _ => insertBlocks e b hea page0 n (i + 1) done s
      | none, none => (s, done, .full)
      | none, some p =>
        match insertNode e.part h i p e.ns hea ((page0 + i) % 2 ^ 32) s with
        | (s, .ok) => insertBlocks e b hea page0 n (i + 1) (done + 1) s
        | (s, how) => (s, done, how)

/-- An insertion for a table index. Blocks from HIT on, or from 0 where the request holds no chain here (log entry 50). -/
def insertFor (idx b hea page0 : Nat) (s : State) : State × Nat × InsEnd :=
  match s.req idx with
  | none => (s, 0, .ok)
  | some e => insertBlocks e b hea page0 4097 (if e.pins.isEmpty then 0 else e.hit) 0 s

/-- Status of an insertion that ended, with its event. -/
def insStatus (how : InsEnd) (s : State) : Nat × State :=
  match how with
  | .ok => (0, s)
  | .full => (0x0005, s.setEv .crl 0x4204 6)
  | .bucket => (0x0006, s.setEv .crl 0x4204 6)

/-- The checks of an insertion's 16 bytes, as offsets from their start. -/
def insertFields (s : State) (b : Bytes) : List (Nat × Bool) :=
  let e := s.req (rdLe b 0 4)
  [(0, e.isSome), (4, 1 ≤ rdLe b 4 4 && e.all (fun x => rdLe b 4 4 ≤ blocksOf x.plen)), (8, spnHea (rdLe b 8 4))]

def judgePrefixInsert (p : Part) (s : State) (pl : Bytes) : Except Refuse (State → Effect) := do
  checkPl [(0, 16)] (if s.rootRole p then insertFields s pl else []) pl
  guardE (s.rootRole p) wrongTarget
  pure (fun s =>
    let x := insertFor (rdLe pl 0 4) (rdLe pl 4 4) (rdLe pl 8 4) (rdLe pl 12 4) s
    let y := insStatus x.2.2 x.1
    (y.2, some (y.1, 0, le 4 x.2.1)))

def execPrefixInsert (p : Part) (q : Req) (pl : Bytes) (s : State) : Out := run (q.wf p) (runCmd p q 0x0605 2 pl (judgePrefixInsert p)) s

def judgePrefixBulk (p : Part) (q : Req) (s : State) (pl : Bytes) : Except Refuse (State → Effect) := do
  let n := rdLe pl 8 4
  let a := rdLe pl 0 8
  checkPl [(0, 12)] [(0, !badHostRange .crl a (16 * n))] pl
  guardE (s.rootRole p) wrongTarget
  let list := s.rd .crl a (16 * n)
  listE ((List.range n).flatMap (fun i =>
    ((insertFields s ((list.drop (16 * i)).take 16)).filter (fun f => !f.2)).map (fun f => 16 * i + f.1)))
  guardE (!classBFull .crl 2 s) (0x0100, 0)
  pure (fun s => later (addJob .crl { q := q, code := 0x0606, core := 2, args := [], total := n, out := [0], staged := list } s))

def execPrefixInsertBulk (p : Part) (q : Req) (pl : Bytes) (s : State) : Out :=
  run (q.wf p) (runCmd p q 0x0606 2 pl (judgePrefixBulk p q)) s

/-- Items `i` to `i + n - 1` of a list: blocks inserted, items completed, and how it ended. -/
def insertItems (list : Bytes) : Nat → Nat → Nat → State → State × Nat × Nat × InsEnd
  | 0, i, done, s => (s, done, i, .ok)
  | n + 1, i, done, s =>
    let b := (list.drop (16 * i)).take 16
    match insertFor (rdLe b 0 4) (rdLe b 4 4) (rdLe b 8 4) (rdLe b 12 4) s with
    | (s, k, .ok) => insertItems list n (i + 1) (done + k) s
    | (s, k, how) => (s, done + k, i, how)

def judgePrefixRemove (p : Part) (s : State) (pl : Bytes) : Except Refuse (State → Effect) := do
  let n := rdLe pl 0 4
  checkPl [(0, 4)] [(0, !s.rootRole p || (tfind s.crl.planner.nodes n).isSome)] pl
  guardE (s.rootRole p) wrongTarget
  let l := subtree s 4097 [n]
  guardE (l.all (fun k => (tfind s.crl.planner.nodes k).all (fun x => x.pins = 0))) (0x0705, 0)
  pure (fun s => okWith (l.reverse.foldl (fun s k => dropNode k s) s) (le 4 l.length))

def execPrefixRemove (p : Part) (q : Req) (pl : Bytes) (s : State) : Out := run (q.wf p) (runCmd p q 0x0607 2 pl (judgePrefixRemove p)) s

end Sys2Proof.Machine
end

