-- ==== Sys2Proof/Machine/Plan.lean ====
section
/-! DEFINITION. The step planner: its configuration, requests, adapters, and the planning pass (R351 to R361, R370 to R375, R471). -/

namespace Sys2Proof.Machine

/-! ## PLAN_CFG (R357, R471) -/

/-- Bands of a payload; none means one band of every slot. -/
def cfgBands (pl : Bytes) : List (Nat × Nat) :=
  let n := rdLe pl 18 1
  if n = 0 then [(0, 8192)] else (List.range n).map (fun b => (rdLe pl (64 + 4 * b) 2, rdLe pl (66 + 4 * b) 2))

/-- Offsets of bands that reach beyond slot 8,191 or overlap an earlier one. -/
def badBands (l : List (Nat × Nat)) : List Nat :=
  (l.zipIdx.filter (fun e => 8192 < e.1.1 + e.1.2 ||
    (l.take e.2).any (fun x => x.1 < e.1.1 + e.1.2 && e.1.1 < x.1 + x.2))).map (fun e => 64 + 4 * e.2)

/-- The parameters of a payload. -/
def cfgOf (pl : Bytes) : PlanCfg :=
  { quota := rdLe pl 4 4, admitMax := rdLe pl 2 2, lead := rdLe pl 8 4, age := (List.range 8).map (fun c => rdLe pl (32 + 4 * c) 4),
    bands := cfgBands pl, bandMap := rdLe pl 24 8, stragN := rdLe pl 14 1, moveMax := rdLe pl 15 1, moveTo := rdLe pl 12 2, ring := rdLe pl 16 2 }

def judgePlanCfg (p : Part) (s : State) (pl : Bytes) : Except Refuse (State → Effect) := do
  let part := rdLe pl 0 2
  let ms := ((s.servedRoot part).map (fun r => r.members.length)).getD 0
  checkPl [(0, 19), (24, 296)]
    ([(2, decide (rdLe pl 2 2 ≤ 256)), (4, decide (rdLe pl 4 4 ≤ 524_288)), (8, decide (rdLe pl 8 4 ≤ 1_000_000)),
      (12, 1 ≤ rdLe pl 12 2 && rdLe pl 12 2 ≤ 10_000), (14, 1 ≤ rdLe pl 14 1 && rdLe pl 14 1 ≤ 64), (15, decide (rdLe pl 15 1 ≤ 64)),
      (16, rdLe pl 16 2 ≤ 255 || rdLe pl 16 2 = 0xFFFF), (18, decide (rdLe pl 18 1 ≤ 64)),
      (24, rdLe pl 24 8 = 0 || (rdLe pl 24 8 < hostBit && !badHostRange .crl (rdLe pl 24 8) ms))]
      ++ (badBands (cfgBands pl)).map (fun o => (o, false))) pl
  guardE (s.rootRole p) wrongTarget
  let _ ← inServiceE part s
  pure (fun s => okWith (s.modRoot part (fun r => { r with planNew := some (cfgOf pl) })))

def execPlanCfg (p : Part) (q : Req) (pl : Bytes) (s : State) : Out := run (q.wf p) (runCmd p q 0x0600 2 pl (judgePlanCfg p)) s

/-- A pass takes new parameters; a band list that differs ends every DRAINING (log entry 51). -/
def takePlan (part : Nat) (s : State) : State :=
  s.modRoot part (fun r =>
    match r.planNew with
    | none => r
    | some n =>
      let o := r.plan
      let same := n.bands = o.bands && n.bandMap = o.bandMap
      { r with
          planNew := none
          plan := { n with draining := if same then o.draining else [], strag := o.strag, due := o.due, cancels := o.cancels, rebinds := o.rebinds } })

/-! ## REQ_SUBMIT (R355) -/

def reqEntries : Nat := 524_288

/-- A non-FREE entry of a partition by REQ_ID. -/
def State.reqById (part id : Nat) (s : State) : Option (Nat × ReqEnt) :=
  s.crl.planner.reqs.find? (fun (e : Nat × ReqEnt) => e.2.part = part && e.2.id = id)

/-- Offset of the first field of a slot record image that R335 does not allow. -/
def badSlotRec (b : Bytes) (hank : Bool) : Option Nat :=
  let flags := rdLe b 5 1
  let on := flags.testBit 0
  let size := rdLe b 208 4
  let pow := (List.range 17).any (fun k => 4 ≤ k && size = 2 ^ k)
  let base := rdLe b 200 8
  let fields : List (Nat × Bool) :=
    [(0, decide (rdLe b 0 4 < 2 ^ 31)), (4, decide (rdLe b 4 1 ≤ 16)), (5, flags < 4 && on = hank), (6, decide (rdLe b 6 2 = 0)),
      (20, 1 ≤ rdLe b 20 4 && rdLe b 20 4 ≤ 65_536), (24, 1 ≤ rdLe b 24 4 && rdLe b 24 4 ≤ 1_048_576),
      (200, if on then base % 64 = 0 && base < hostBit && !badHostRange .crl base (64 + 16 * size) else decide (base = 0)), (208, !on || pow)]
    ++ (List.range 4).map (fun q => (36 + q, decide (rdLe b (36 + q) 1 ≤ 8)))
    ++ (List.range 44).map (fun i => (212 + i, decide (rdLe b (212 + i) 1 = 0)))
  ((fields.filter (fun f => !f.2)).map (·.1)).min?

/-- Whether an address is a stack address at a multiple of 64 with `n` bytes for host data. -/
def stackArea (a n : Nat) : Bool := a % 64 = 0 && a < hostBit && !badHostRange .crl a n

/-- Whether an adapter is published for a partition; 0 is none. -/
def PRoot.knows (r : PRoot) (id : Nat) : Bool := id = 0 || r.adapters.any (fun a => a.id = id)

/-- Hashers still at work. -/
def State.hashing (s : State) : List Nat := s.crl.planner.hashers.filter (fun t => s.cc.time.tick < t)

/-- The new entry, its chain hashes and its mirror copy. -/
def submitReq (part : Nat) (pl : Bytes) (s : State) : Effect :=
  match drawFree reqEntries s.crl.planner.reqs s, s.proot part with
  | some (idx, s), some r =>
    let n := rdLe pl 40 4
    let prompt := rdLe pl 32 8
    let blocks := blocksOf n
    let now := s.crlDtc part
    let f := rdLe pl 2 1
    let e : ReqEnt := { id := rdLe pl 4 4, state := .queued, cls := f % 8, hank := f.testBit 3, dlrec := f.testBit 4, part := part, pepoch := r.epoch,
                        adapter := rdLe pl 8 4, param := rdLe pl 24 8, prompt := prompt, plen := n, ns := rdLe pl 12 4, ttftTgt := rdLe pl 16 4,
                        tbtTgt := rdLe pl 20 4, tSubmit := now, seq := s.crl.planner.seq, tag := rdLe pl 48 8, tState := now }
    let s := s.wr .crl (prompt + hashOff n) (chainHashes e.ns (s.rd .crl prompt (256 * blocks)) blocks)
    let s := { s with
      crl.planner.reqs := tput s.crl.planner.reqs idx e
      crl.planner.seq := (e.seq + 1) % 2 ^ 32
      crl.planner.hashers := s.hashing ++ [s.cc.time.tick + 20 * blocks] }
    okWith (mirrorEntries part s) (lay [(4, idx), (4, e.seq)])
  | _, _ => (s, none)

def judgeReqSubmit (p : Part) (s : State) (pl : Bytes) : Except Refuse (State → Effect) := do
  let part := rdLe pl 0 2
  let n := rdLe pl 40 4
  checkPl [(0, 3), (4, 40), (48, 8)] [(2, rdLe pl 2 1 < 32), (4, rdLe pl 4 4 < 2 ^ 31)] pl
  guardE (!(rdLe pl 2 1).testBit 3 || s.featureOn .crl 2) (0x0104, 0)
  guardE (s.rootRole p) wrongTarget
  let r? := s.servedRoot part
  guardE (r?.isNone || (s.reqById part (rdLe pl 4 4)).isNone) (0x0700, 0)
  let mine := (s.crl.planner.reqs.filter (fun (e : Nat × ReqEnt) => e.2.part = part)).length
  guardE (s.crl.planner.reqs.length < reqEntries && r?.all (fun r => mine < r.plan.quota)) (0x0701, 0)
  field (stackArea (rdLe pl 24 8) 256) 24
  field (stackArea (rdLe pl 32 8) (hashOff n + 16 * blocksOf n)) 32
  match badSlotRec (s.rd .crl (rdLe pl 24 8) 256) ((rdLe pl 2 1).testBit 3) with
  | some o => .error (invalidField 5 o)
  | none =>
  guardE (r?.all (fun r => r.knows (rdLe pl 8 4))) (0x0702, 0)
  guardE (s.hashing.length < 4) (0x0100, ((s.hashing.min?).getD 0 - s.cc.time.tick) % 2 ^ 32)
  let _ ← inServiceE part s
  pure (submitReq part pl)

def execReqSubmit (p : Part) (q : Req) (pl : Bytes) (s : State) : Out := run (q.wf p) (runCmd p q 0x0601 2 pl (judgeReqSubmit p)) s

/-! ## REQ_CANCEL, REQ_RESUME, REQ_QUERY (R351, R353, R354, R371) -/

/-- The entry that a payload names. -/
def namedReq (p : Part) (s : State) (pl : Bytes) : Except Refuse (Nat × ReqEnt) := do
  guardE (s.rootRole p) wrongTarget
  let _ ← inServiceE (rdLe pl 0 2) s
  match s.reqById (rdLe pl 0 2) (rdLe pl 4 4) with
  | some x => pure x
  | none => .error (0x0703, 0)

/-- The command waits for the pass that writes the leave. -/
def waitCancel (part idx : Nat) (q : Req) (s : State) : State :=
  s.modRoot part (fun r => { r with plan.cancels := r.plan.cancels ++ [(idx, q)] })

/-- A request leaves by cancellation: its leave is the next pass's to write, and a transaction that waits gives it no TARGET_C. -/
def cancelSlot (part idx : Nat) (s : State) : State :=
  let s := setReqState idx .leaving (s.modReq idx (fun e => { e with cancel := true, targetC := 0 }))
  s.modRoot part (fun r => { r with
    txns := r.txns.map (fun t => if t.target = 0 then { t with reqs := t.reqs.filter (· ≠ idx) } else t) })

/-- A cancellation, state by state. -/
def cancelReq (idx : Nat) (e : ReqEnt) (q : Req) (s : State) : Effect :=
  match e.state with
  | .queued => okWith (flushOut e.part (closeReq 2 0 idx s)) (le 4 0)
  | .moving => okWith (flushOut e.part (closeReq 2 0 idx s)) (le 4 0)
  | .leaving =>
    let s := mirrorEntries e.part (s.modReq idx (fun e => { e with cancel := true }))
    if e.targetC ≠ 0 then okWith s (le 4 e.targetC) else later (waitCancel e.part idx q s)
  | _ => later (waitCancel e.part idx q (mirrorEntries e.part (cancelSlot e.part idx s)))

def judgeReqCancel (p : Part) (q : Req) (s : State) (pl : Bytes) : Except Refuse (State → Effect) := do
  checkPl [(0, 2), (4, 4)] [] pl
  let x ← namedReq p s pl
  pure (cancelReq x.1 x.2 q)

def execReqCancel (p : Part) (q : Req) (pl : Bytes) (s : State) : Out := run (q.wf p) (runCmd p q 0x0602 2 pl (judgeReqCancel p q)) s

def judgeReqResume (p : Part) (s : State) (pl : Bytes) : Except Refuse (State → Effect) := do
  checkPl [(0, 2), (4, 4)] [] pl
  let x ← namedReq p s pl
  guardE (x.2.state = .moving) (0x0704, 0)
  pure (fun s => okWith (noteReq x.1 (fun e => { e with resumed := true }) s) (le 4 0))

def execReqResume (p : Part) (q : Req) (pl : Bytes) (s : State) : Out := run (q.wf p) (runCmd p q 0x0603 2 pl (judgeReqResume p)) s

def judgeReqQuery (p : Part) (s : State) (pl : Bytes) : Except Refuse (State → Effect) := do
  let a := rdLe pl 8 8
  checkPl [(0, 2), (4, 12)] [(8, !badHostRange .crl a 128)] pl
  let x ← namedReq p s pl
  pure (fun s =>
    let d := s.draw
    okWith (d.2.wr .crl a (x.2.bytes (d.1 % 2 ^ 32))) (lay [(4, x.1), (4, x.2.gen)]))

def execReqQuery (p : Part) (q : Req) (pl : Bytes) (s : State) : Out := run (q.wf p) (runCmd p q 0x0604 2 pl (judgeReqQuery p)) s

/-- `MOVE_TIMEOUT` since T_STATE. -/
def moveTimeout (idx : Nat) (s : State) : State :=
  match s.req idx with
  | none => s
  | some e =>
    match s.proot e.part with
    | none => s
    | some r =>
      if e.state = .moving && e.tState + 1_000_000 * r.plan.moveTo ≤ s.crlDtc e.part then
        flushOut e.part (closeReq 3 0x1803 idx (((s.setEv .crl 0x4204 3)).raise .crl 0x1803 e.part [e.id]))
      else s

def execMoveTimeoutExpiry (idx : Nat) (s : State) : Out := run (idx < 524_288) (moveTimeout idx) s

/-! ## Adapters (R372 to R375) -/

/-- Whether an epoch is current or retiring for an adapter. -/
def Adapter.has (a : Adapter) (epoch : Nat) : Bool := a.cur = epoch || a.retiring.contains epoch

/-- The epoch becomes current; the one before it retires. -/
def publish (id epoch : Nat) (r : PRoot) : PRoot :=
  match r.adapters.find? (fun a => a.id = id) with
  | none => { r with adapters := r.adapters ++ [{ id := id, cur := epoch }] }
  | some _ => { r with
      adapters := r.adapters.map (fun a =>
      if a.id = id then { a with cur := epoch, retiring := a.retiring ++ (if a.cur = 0 then [] else [a.cur]) } else a) }

def judgeAdapterPublish (p : Part) (s : State) (pl : Bytes) : Except Refuse (State → Effect) := do
  let part := rdLe pl 0 2
  let epoch := rdLe pl 2 2
  let id := rdLe pl 4 4
  checkPl [(0, 8)] [(2, epoch ≠ 0xFFFF), (4, id ≠ 0)] pl
  guardE (s.rootRole p) wrongTarget
  let r ← inServiceE part s
  guardE (epoch = 0 || !r.adapters.any (fun a => a.has epoch)) (0x0706, 0)
  guardE (r.knows id || r.adapters.length < 4096) (0x0707, 0)
  pure (fun s => okWith (s.modRoot part (publish id epoch)))

def execAdapterPublish (p : Part) (q : Req) (pl : Bytes) (s : State) : Out := run (q.wf p) (runCmd p q 0x0608 2 pl (judgeAdapterPublish p)) s

def judgeAdapterRebind (p : Part) (q : Req) (s : State) (pl : Bytes) : Except Refuse (State → Effect) := do
  let part := rdLe pl 0 2
  let id := rdLe pl 4 4
  checkPl [(0, 2), (4, 4)] [(4, id ≠ 0)] pl
  guardE (s.rootRole p) wrongTarget
  let r ← inServiceE part s
  guardE (r.knows id) (0x0702, 0)
  pure (fun s => later (s.modRoot part (fun r => { r with plan.rebinds := r.plan.rebinds ++ [(id, q)] })))

def execAdapterRebind (p : Part) (q : Req) (pl : Bytes) (s : State) : Out := run (q.wf p) (runCmd p q 0x0609 2 pl (judgeAdapterRebind p q)) s

/-! ## The pass: straggler bands and rebinds (R370, R375) -/

/-- Bands of new stragglers start DRAINING. -/
def drainBands (part : Nat) (s : State) : State :=
  match s.proot part with
  | none => s
  | some r =>
    let ranks := r.plan.strag.filterMap (fun h => (r.members.find? (fun m => m.hea = h)).map (·.rank))
    let bands := (ranks.map (fun k => r.bandOfRank k s)).filter (fun b => b < r.plan.bands.length)
    let new := (bands.eraseDups.filter (fun b => !r.plan.draining.any (fun d => d.1 = b))).map (fun b => (b, 0))
    s.modRoot part (fun r => { r with plan.strag := [], plan.draining := r.plan.draining ++ new })

/-- The transaction of an `ADAPTER_REBIND`. -/
def rebindTxn (part id : Nat) (q : Req) (s : State) : State :=
  match (s.proot part).bind (fun r => r.adapters.find? (fun a => a.id = id)) with
  | none => s
  | some a =>
    let es := s.crl.planner.reqs.filter (fun (e : Nat × ReqEnt) =>
      e.2.part = part && e.2.adapter = id && e.2.slot ≠ 0xFFFF && !e.2.gone && a.retiring.contains e.2.aEpoch)
    let t : RTxn := { tno := 0, acts := [.rebind a.cur (es.map (·.1))], cmds := [(q, 0x0609, le 4 es.length)] }
    closeTxn part (es.foldl (fun (t : RTxn) (e : Nat × ReqEnt) => t.all (bankAdapters + 2 * e.2.slot) (le 2 a.cur)) t) s

def passRebinds (part : Nat) (s : State) : State :=
  match s.proot part with
  | none => s
  | some r => r.plan.rebinds.foldl (fun s x => rebindTxn part x.1 x.2 s) (s.modRoot part (fun r => { r with plan.rebinds := [] }))

/-! ## The pass: slots and bands (R358, R360) -/

/-- Slots that joins wait for. -/
def PRoot.waitSlots (r : PRoot) : List Nat :=
  (r.txns.filter (fun t => !t.sent)).flatMap (fun t => t.acts.filterMap (fun a => match a with
    | .join _ slot => some slot
    | _ => none))

/-- Slots that a join targeting commit number `c` cannot take: those held, those whose leave does not come before `c`, those reserved for
a move, and those of joins that wait. -/
def takenSlots (part : Nat) (c : Option Nat) (s : State) : List Nat :=
  ((s.proot part).map (·.waitSlots)).getD [] ++
  s.crl.planner.reqs.flatMap (fun (e : Nat × ReqEnt) =>
    if e.2.part ≠ part then []
    else
      let goes := e.2.state = .leaving && (e.2.gone || (e.2.targetC ≠ 0 && c.any (fun c => e.2.targetC < c)))
      (if goes then [] else [e.2.slot]) ++ [e.2.newSlot]) |>.filter (· ≠ 0xFFFF)

/-- Available slots of a band, lowest first. -/
def bandSlots (r : PRoot) (taken : List Nat) (b : Nat) : List Nat :=
  match r.plan.bands[b]? with
  | none => []
  | some x => ((List.range x.2).map (fun i => x.1 + i)).filter (fun k => !taken.contains k)

/-- Bands that take requests: not DRAINING, with an available slot. -/
def openBands (r : PRoot) (taken : List Nat) : List Nat :=
  (List.range r.plan.bands.length).filter (fun b => !r.plan.draining.any (fun d => d.1 = b) && !(bandSlots r taken b).isEmpty)

/-- The band of most available slots, the lowest of several. -/
def widest (r : PRoot) (taken : List Nat) : List Nat → Option Nat
  | [] => none
  | b :: l => match widest r taken l with
    | some x => if (bandSlots r taken b).length < (bandSlots r taken x).length then some x else some b
    | none => some b

/-- Whether a band's dies have reported saturation since they last reported its end. -/
def bandSat (r : PRoot) (s : State) (b : Nat) : Bool :=
  r.members.any (fun m => r.bandOfRank m.rank s = b && s.crl.sat.any (fun x => x.1 = m.hea))

/-- Where a request goes: the band of its hit's cache die, a band without saturation, any band; there the lowest slot. -/
def placeReq (r : PRoot) (taken : List Nat) (node : Option Nat) (s : State) : Option (Nat × Nat) :=
  let bands := openBands r taken
  let cache := (node.bind (fun n => tfind s.crl.planner.nodes n)).bind (fun x => r.members.find? (fun m => m.hea = x.hea))
  let first := cache.bind (fun m => bands.find? (fun b => r.bandOfRank m.rank s = b))
  let band := first.orElse (fun _ => (widest r taken (bands.filter (fun b => !bandSat r s b))).orElse (fun _ => widest r taken bands))
  band.bind (fun b => ((bandSlots r taken b).head?).map (fun k => (b, k)))

/-! ## The pass: moves and leaves (R353, R354, R371) -/

/-- Requests of DRAINING bands, in the order in which they move. -/
def movers (part : Nat) (r : PRoot) (s : State) : List (Nat × ReqEnt) :=
  sortBy (fun (e : Nat × ReqEnt) => e.2.tokens * 2 ^ 20 + e.1) (s.crl.planner.reqs.filter (fun (e : Nat × ReqEnt) =>
    e.2.part = part && e.2.state = .running && r.plan.draining.any (fun d => d.1 = e.2.band)))

/-- Moves begin, while slots last: the records for the leave transaction come back. -/
def beginMoves (part : Nat) (r : PRoot) (taken : List Nat) : Nat → List (Nat × ReqEnt) → State → State × List PlanRec
  | 0, _, s => (s, [])
  | _, [], s => (s, [])
  | n + 1, (i, e) :: l, s =>
    let node := if e.pins.isEmpty then none else some e.hitNode
    match placeReq r taken node s with
    | none => (s, [])
    | some (b, k) =>
      let x : PlanRec := { rtype := 0x41, idx := i, id := e.id, tag := e.tag, slot := e.slot, slot2 := k, band := e.band, band2 := b }
      let s := setReqState i .leaving (s.modReq i (fun e => { e with newSlot := k, targetC := 0, moves := min (e.moves + 1) 0xFFFF }))
      let y := beginMoves part r (k :: taken) n l (s.bump .crl 0x4220 1)
      (y.1, x :: y.2)

/-- LEAVING requests whose leave no transaction holds yet. -/
def leavers (part : Nat) (r : PRoot) (s : State) : List (Nat × ReqEnt) :=
  s.crl.planner.reqs.filter (fun (e : Nat × ReqEnt) =>
    e.2.part = part && e.2.state = .leaving && e.2.targetC = 0 && !e.2.gone && !r.txns.any (fun t => t.reqs.contains e.1))

/-- The pass's leave transaction, with the cancellations that it completes. -/
def passLeaves (part : Nat) (recs : List PlanRec) (s : State) : State :=
  match s.proot part with
  | none => s
  | some r =>
    let es := leavers part r s
    let mine := r.plan.cancels.filter (fun x => es.any (fun e => e.1 = x.1))
    let s := s.modRoot part (fun r => { r with plan.cancels := r.plan.cancels.filter (fun x => !es.any (fun e => e.1 = x.1)) })
    if es.isEmpty then s
    else
      let t : RTxn := { tno := 0, reqs := es.map (·.1), recs := recs, cmds := mine.map (fun x => (x.2, 0x0602, [])) }
      closeTxn part (es.foldl (fun (t : RTxn) (e : Nat × ReqEnt) => t.all (bankSlotMap + 4 * e.2.slot) (le 4 0)) t) (mirrorEntries part s)

/-! ## The pass: joins (R359 to R361) -/

/-- Effective class. -/
def effClass (cfg : PlanCfg) (now : Nat) (e : ReqEnt) : Nat :=
  let age := cfg.age.getD e.cls 0
  if age = 0 then e.cls else e.cls - (now - e.tSubmit) / (1000 * age)

/-- The order of admission as one number: class, deadline, submission. -/
def admitKey (cfg : PlanCfg) (now seq : Nat) (e : ReqEnt) : Nat :=
  let deadline := if e.ttftTgt = 0 then 2 ^ 80 - 1 else e.tSubmit + 1000 * e.ttftTgt
  (effClass cfg now e * 2 ^ 80 + deadline) * 2 ^ 32 + (e.seq + 2 ^ 32 - seq) % 2 ^ 32

/-- A request's join enters the pass's join transaction. -/
def RTxn.join (idx slot : Nat) (t : RTxn) : RTxn := { t with acts := t.acts ++ [.join idx slot], reqs := t.reqs ++ [idx] }

/-- Whether a request's join already waits for a launch. -/
def PRoot.joinWaits (r : PRoot) (idx : Nat) : Bool := r.txns.any (fun t => !t.sent && t.acts.any (·.joins idx))

/-- Released moves join at their NEW_SLOT, unless its band is DRAINING. -/
def rejoin (part : Nat) (r : PRoot) (t : RTxn) (s : State) : RTxn :=
  let es := s.crl.planner.reqs.filter (fun (e : Nat × ReqEnt) =>
    e.2.part = part && e.2.state = .moving && e.2.resumed && !r.joinWaits e.1 && !r.plan.draining.any (fun d => d.1 = r.bandOfSlot e.2.newSlot))
  es.foldl (fun (t : RTxn) (e : Nat × ReqEnt) => t.join e.1 e.2.newSlot) t

/-- Admissions in order, at most `n`, while some band has an available slot. -/
def admitQueued (part : Nat) (r : PRoot) : Nat → List (Nat × ReqEnt) → List Nat → RTxn → State → RTxn × State
  | 0, _, _, t, s => (t, s)
  | _, [], _, t, s => (t, s)
  | n + 1, (i, e) :: l, taken, t, s =>
    if (openBands r taken).isEmpty then (t, s)
    else
      let hit := prefixLookup e s
      let s := countLookup hit.1 s
      match placeReq r taken hit.2 s with
      | none => admitQueued part r (n + 1) l taken t s
      | some (_, k) => admitQueued part r n l (k :: taken) (t.join i k) ((pinHit i hit.1 hit.2 s).bump .crl 0x4224 1)
termination_by structural _ l => l

/-- The pass's join transaction. -/
def passJoins (part : Nat) (s : State) : State :=
  match s.proot part with
  | none => s
  | some r =>
    let now := s.crlDtc part
    let lead := 1000 * r.plan.lead
    let c := (r.targetFor now lead 0).map (·.c)
    let t := rejoin part r { tno := 0, lead := lead } s
    let queue := sortBy (fun (e : Nat × ReqEnt) => admitKey r.plan now s.crl.planner.seq e.2)
      (s.crl.planner.reqs.filter (fun (e : Nat × ReqEnt) => e.2.part = part && e.2.state = .queued && !r.joinWaits e.1))
    let x := if r.plan.quota = 0 then (t, s) else admitQueued part r r.plan.admitMax queue (takenSlots part c s) t s
    if x.1.reqs.isEmpty then x.2 else closeTxn part x.1 x.2

/-! ## The pass (R358) -/

/-- Moves of DRAINING bands, and the leaves of this pass. -/
def passMoves (part : Nat) (s : State) : State :=
  match s.proot part with
  | none => s
  | some r =>
    let c := (r.targetFor (s.crlDtc part) (1000 * r.plan.lead) 0).map (·.c)
    let x := beginMoves part r (takenSlots part c s) r.plan.moveMax (movers part r s) s
    passLeaves part x.2 x.1

/-- A planning pass, once for each doff. -/
def planPass (part : Nat) (s : State) : State :=
  match s.proot part with
  | none => s
  | some r =>
    if r.plan.due = 0 || r.tearing then s
    else
      let s := drainBands part (takePlan part (s.modRoot part (fun r => { r with plan.due := r.plan.due - 1 })))
      flushOut part (mirrorEntries part (passJoins part (passMoves part (passRebinds part s))))

def execPlanningPass (part : Nat) (s : State) : Out := run (part < 0x1_0000) (fun s => if coreDown .crl 2 s then s else planPass part s) s

end Sys2Proof.Machine
end

