-- ==== Sys2Proof/Machine/RootMembers.lean ====
section
/-! DEFINITION. Commands to a partition root about its members, ply groups, sampler and output rings, and the bobbin test (R297 to R303,
R332, R333, R337, R345, R469). -/

namespace Sys2Proof.Machine

/-! ## Transactions about members -/

/-- A group's configuration, to each of some dies, as a set of members has it. -/
def RTxn.group (t : RTxn) (num : Nat) (g : Group) (ms : List Member) (heas : List Nat) : RTxn :=
  let g := { g with valid := g.valid && !(g.set ms).isEmpty }
  let t := heas.foldl (fun (t : RTxn) h => t.one h (bankGroups + 32 * num) (g.cfg num ms h)) t
  { t with acts := t.acts ++ [.group num (some g)] }

/-- Every VALID group as a new member set has it, placed anew. -/
def regroup (r : PRoot) (ms : List Member) (heas : List Nat) (gs : List (Nat × Group)) (t : RTxn) (s : State) : RTxn × State :=
  gs.foldl (fun (x : RTxn × State) (e : Nat × Group) =>
    if !e.2.valid then x
    else
      let g := placeGroup r ms e.2 x.2
      (x.1.group e.1 g.1 ms heas, g.2)) (t, s)

/-- MEMBERSHIP (R190). -/
def membershipBytes (part epoch rank n : Nat) : Bytes := lay [(2, part), (2, 0), (4, epoch), (4, rank), (4, n)]

/-- Places of the 16-byte pieces of the slot map and the adapter epochs that a partition's copy lists (log entry 47). -/
def commonPieces (bank : Mem) : List Nat :=
  let lo := commonBase + bankSlotMap
  (((bank.filter (fun w => lo ≤ w.1 && w.1 < lo + 0xC000)).map (fun w => (w.1 - commonBase) / 16 * 16))).eraseDups

/-- What a joining die's bank takes beside the groups. -/
def RTxn.joiner (t : RTxn) (part : Nat) (r : PRoot) (n : Nat) (m : Member) : RTxn :=
  let t := t.one m.hea bankPart (membershipBytes part r.epoch m.rank n ++ lay [(1, r.freq.fstep), (1, r.freq.fceil), (1, r.freq.ballast)])
  let bank := r.bankAll
  (commonPieces bank).foldl (fun (t : RTxn) o => t.one m.hea o (memRd bank (commonBase + o) 16)) t

/-- What a leaving die's bank takes beside the groups (R416). -/
def RTxn.leaver (t : RTxn) (h : Nat) : RTxn := (t.one h bankPart (membershipBytes 0 0 0 0)).one h bankBallast [0]

/-- The member count, to each of some dies and in the root's copy. -/
def RTxn.count (t : RTxn) (n : Nat) (heas : List Nat) : RTxn :=
  (heas.foldl (fun (t : RTxn) h => t.one h bankMembers (le 4 n)) t).own (commonBase + bankMembers) (le 4 n)

/-! ## Dies that are taken (R28, R469, R510) -/

/-- Whether this Creel knows a die as UNTRUSTED. -/
def State.untrustedDie (h : Nat) (s : State) : Bool :=
  s.cc.ports.any (fun (e : Nat × Port) => e.2.peerHea = h && e.2.keys.peerUntrusted) || (s.hea .spn = h && s.sc.sec.untrusted)

/-- Whether the active or shadow membership of a die names a partition, as far as this Creel can know. -/
def State.dieTaken (h : Nat) (s : State) : Bool :=
  s.crl.parts.any (fun (e : Nat × PRoot) => e.1 < 65536 && e.2.members.any (fun m => m.hea = h))
    || (s.cc.topo.registry && s.crl.registry.any (fun (e : Nat × RegEntry) => e.2.live && e.2.members.contains h))
    || (s.hea .spn = h && (bankNat s.spn.banks.active bankPart 2 ≠ 0 || bankNat s.spn.banks.shadow bankPart 2 ≠ 0))

/-! ## MEMBER_JOIN and MEMBER_LEAVE (R469) -/

/-- Offsets of the items of a list of HEAs that are illegal or stand twice. -/
def badHeas (size : Nat) (hs : List Nat) : List Nat :=
  (((hs.zipIdx.find? (fun e => !spnHea e.1)).map (fun e => size * e.2)).toList) ++ (firstTwice [] 0 hs).toList.map (fun i => size * i)

/-- The pending launch that a join or leave names. -/
def namedLaunch (r : PRoot) (c : Nat) : Except Refuse RPend :=
  match r.launch.pend.find? (fun p => p.c = c) with
  | some p => if p.decided || p.retry then .error (0x0100, 0) else .ok p
  | none => if 1 ≤ c && c ≤ r.launch.commitNo && !r.launch.withdrawn.contains c then .error (0x0100, 0) else .error (invalidField 2 4)

/-- REALIGN_K and the digest group as firmware loads them before a die joins (R268, R393). -/
def setupRegs (r : PRoot) (s : State) : State :=
  let s := s.setField .spn 0x0C00 8 16 r.realignK
  if r.digGroup = 0xFF then s.setField .spn 0x1000 14 1 0 else (s.setField .spn 0x1000 8 6 r.digGroup).setField .spn 0x1000 14 1 1

/-- The set-up figures of a partition reach the die modelled here (log entry 40). -/
def setupFigures (part : Nat) (r : PRoot) (h : Nat) (s : State) : State :=
  if s.hea .spn ≠ h then s
  else
    let held := (tfind s.crl.held part).getD (0, 0)
    setupRegs r { s with
      spn.launch := { s.spn.launch with trdy := r.trdy, dn := r.dn, up := r.up, q := r.q, fast := r.fast, rootHea := s.hea .crl }
      spn.banks := { s.spn.banks with epochS := held.1, dcor := s.dieD held.2, plane := s.cc.topo.plane }
      spn.det.stepIdx := r.launch.stepIdx
      spn.wh.lane := r.lane }

/-- Ranks that the partition holds once a launch at `l` has passed. -/
def PRoot.ranksAt (r : PRoot) (l : Nat) : List Nat :=
  (r.members.filter (fun m => m.leaveC.all (fun c => !(r.pendL c).any (fun x => x ≤ l)))).map (·.rank)

/-- LAUNCH_SET of every pending launch from one on, to dies that join there (R202). -/
def sendJoinSets (part : Nat) (r : PRoot) (l : Nat) (heas : List Nat) (s : State) : State :=
  heas.foldl (fun s h => (r.launch.pend.filter (fun p => l ≤ p.l)).foldl (fun s p => rootTo part r h 0x00 (launchSetBody p.l p.idx p.c) s) s) s

/-- The joining dies become members of launches from `p` on. -/
def joinDies (part : Nat) (p : RPend) (t : RTxn) (new : List Member) (n : Nat) (s : State) : Effect :=
  let s := s.modRoot part (fun r => { r with members := r.members ++ new })
  let s := s.modRoot part (fun r => { r with kids := s.rootPorts r r.heas })
  match s.proot part with
  | none => (s, none)
  | some r =>
    let heas := new.map (·.hea)
    let s := heas.foldl (fun s h => setupFigures part r h s) s
    let s := installTree part launchTree r true r.heas s
    okWith (sendJoinSets part r p.l heas (closeTxnAt part t p s)) (le 4 n)

def judgeMemberJoin (p : Part) (s : State) (pl : Bytes) : Except Refuse (State → Effect) := do
  let part := rdLe pl 0 2
  let n := rdLe pl 16 4
  let a := rdLe pl 8 8
  checkPl [(0, 2), (4, 16)] [(8, !badHostRange .crl a (8 * n)), (16, n ≤ 262_144)] pl
  guardE (s.rootRole p) wrongTarget
  let list := s.rd .crl a (8 * n)
  let items := (List.range n).map (fun i => (rdLe list (8 * i) 4, rdLe list (8 * i + 4) 4))
  listE (badHeas 8 (items.map (·.1)) ++ (firstTwice [] 0 (items.map (·.2))).toList.map (fun i => 8 * i + 4))
  let r ← inServiceE part s
  let x ← namedLaunch r (rdLe pl 4 4)
  listE ((items.zipIdx.find? (fun e => (r.ranksAt x.l).contains e.1.2)).map (fun e => 8 * e.2 + 4)).toList
  let old := r.members.filter (r.takes x.l)
  guardE (old.length + n ≤ 262_144) (invalidField 2 16)
  let new : List Member := items.map (fun e => { hea := e.1, rank := e.2, joinC := some x.c })
  let ms := old ++ new
  let t := (({ tno := 0 } : RTxn).count ms.length (old.map (·.hea)))
  let t := new.foldl (fun (t : RTxn) m => t.joiner part r ms.length m) t
  let g := regroup r ms (ms.map (·.hea)) r.groupsAll t s
  guardE (r.lateBy (s.crlDtc part) 0 g.1.cellCount x.l = 0) (0x0100, r.lateBy (s.crlDtc part) 0 g.1.cellCount x.l)
  match items.find? (fun e => s.dieTaken e.1 || s.untrustedDie e.1) with
  | some e => .error (0x0402, e.1)
  | none =>
  guardE ((g.2.modRoot part (fun r => { r with txns := r.txns ++ [g.1] })).groupCount ≤ 4096) (0x0602, 0)
  pure (fun s => joinDies part x g.1 new ms.length { s with free := g.2.free })

def execMemberJoin (p : Part) (q : Req) (pl : Bytes) (s : State) : Out := run (q.wf p) (runCmd p q 0x0302 2 pl (judgeMemberJoin p)) s

/-- The leaving dies are members of no launch from `p` on. -/
def leaveDies (part : Nat) (p : RPend) (t : RTxn) (heas : List Nat) (n : Nat) (s : State) : Effect :=
  let s := s.modRoot part (fun r => { r with
    members := r.members.map (fun m => if heas.contains m.hea then { m with leaveC := some p.c } else m) })
  okWith (closeTxnAt part t p s) (le 4 n)

/-- The transaction at whose doff some members leave and the others are regrouped, with what it drew. -/
def leaveTxn (r : PRoot) (stay gone : List Member) (t : RTxn) (s : State) : RTxn × State :=
  let heas := gone.map (·.hea)
  let t := t.count stay.length (stay.map (·.hea))
  let t := heas.foldl (fun (t : RTxn) h => t.leaver h) t
  regroup r stay (stay.map (·.hea) ++ heas) r.groupsAll t s

def judgeMemberLeave (p : Part) (s : State) (pl : Bytes) : Except Refuse (State → Effect) := do
  let part := rdLe pl 0 2
  let n := rdLe pl 16 4
  let a := rdLe pl 8 8
  checkPl [(0, 2), (4, 16)] [(8, !badHostRange .crl a (4 * n)), (16, n ≤ 262_144)] pl
  guardE (s.rootRole p) wrongTarget
  let list := s.rd .crl a (4 * n)
  let heas := (List.range n).map (fun i => rdLe list (4 * i) 4)
  listE (badHeas 4 heas)
  let r ← inServiceE part s
  let x ← namedLaunch r (rdLe pl 4 4)
  let old := r.members.filter (r.takes x.l)
  listE ((heas.zipIdx.find? (fun e => !old.any (fun m => m.hea = e.1))).map (fun e => 4 * e.2)).toList
  let stay := old.filter (fun m => !heas.contains m.hea)
  guardE (!stay.isEmpty) (invalidField 2 16)
  let g := leaveTxn r stay (old.filter (fun m => heas.contains m.hea)) { tno := 0 } s
  guardE (r.lateBy (s.crlDtc part) 0 g.1.cellCount x.l = 0) (0x0100, r.lateBy (s.crlDtc part) 0 g.1.cellCount x.l)
  pure (fun s => leaveDies part x g.1 heas stay.length { s with free := g.2.free })

def execMemberLeave (p : Part) (q : Req) (pl : Bytes) (s : State) : Out := run (q.wf p) (runCmd p q 0x0303 2 pl (judgeMemberLeave p)) s

/-! ## PLY_ARM and PLY_DISARM (R300, R303) -/

/-- FORMAT allowed for an OP. -/
def armFmt (op f : Nat) : Bool :=
  if op = opNone || op = opLse then f = 0
  else if op = opSum || op = opMax || op = opMin then f ≤ 9
  else if op = opArgmax || op = opArgmin then f ≤ 2 || f = fmtInt32 || f = fmtInt8
  else if op = opTopk then f ≤ 2
  else op ≤ opModsum && f = fmtRaw64

/-- OUT_FORMAT allowed for an OP and FORMAT. -/
def armOut (op f o : Nat) : Bool :=
  if op = opSum then (if f = fmtInt32 then o = fmtInt32 else if f = fmtInt8 then o = fmtInt32 || o = fmtInt8 else o ≤ 4) else o = f

/-- LENGTH allowed for an OP. -/
def armLen (op n : Nat) : Bool :=
  if op = opNone then n = 0 else if op = opTopk then 1 ≤ n && n ≤ 16 else 1 ≤ n && n ≤ 64

/-- RMODE and SCALED allowed for an OP and FORMAT. -/
def armMode (op f b : Nat) : Bool :=
  b < 16 && b % 8 ≤ 4 && (b % 8 = 0 || op = opSum) && (b < 8 || (op = opSum && 3 ≤ f && f ≤ 7))

/-- The group that a `PLY_ARM` payload arms. -/
def armGroup (pl : Bytes) (list : Option (List Nat)) : Group :=
  { op := rdLe pl 3 1, fmt := rdLe pl 4 1, outFmt := rdLe pl 5 1, length := rdLe pl 6 1, rmode := rdLe pl 7 1 % 8, scaled := 8 ≤ rdLe pl 7 1,
    consumer := rdLe pl 8 1, chan := rdLe pl 9 1, seedIdx := rdLe pl 10 1, bias := rdLe pl 12 4, qallow := rdLe pl 16 2, list := list }

/-- Whether CHAN is bound on some member by another VALID group. -/
def chanTaken (r : PRoot) (num : Nat) (g : Group) : Bool :=
  r.groupsAll.any (fun (e : Nat × Group) =>
    e.1 ≠ num && e.2.valid && e.1 ≠ 63 && e.2.chan = g.chan && (e.2.set r.members).any (fun m => (g.set r.members).any (fun x => x.hea = m.hea)))

/-- The group is armed at the doff that R194 targets; the command waits for its transaction. -/
def armPly (part num : Nat) (g : Group) (q : Req) (s : State) : State :=
  match s.proot part with
  | none => s
  | some r =>
    let t := ({ tno := 0, cmds := [(q, 0x0500, lay [(4, g.bound), (4, (g.set r.members).length)])] } : RTxn).group num g r.members r.heas
    closeTxn part t s

def judgePlyArm (p : Part) (q : Req) (s : State) (pl : Bytes) : Except Refuse (State → Effect) := do
  let part := rdLe pl 0 2
  let num := rdLe pl 2 1
  let op := rdLe pl 3 1
  let f := rdLe pl 4 1
  let n := rdLe pl 20 4
  let a := rdLe pl 24 8
  checkPl [(0, 11), (12, 6), (20, 12)] [(2, num ≤ 62), (3, op ≤ opModsum), (4, armFmt op f), (5, armOut op f (rdLe pl 5 1)),
    (6, armLen op (rdLe pl 6 1)), (7, armMode op f (rdLe pl 7 1)), (8, rdLe pl 8 1 ≤ 2), (9, rdLe pl 9 1 ≤ 7),
    (12, bits (rdLe pl 12 4) 23 8 ≠ 0xFF), (20, n ≤ 262_144), (24, n = 0 || !badHostRange .crl a (4 * n))] pl
  guardE (s.rootRole p) wrongTarget
  let list := s.rd .crl a (4 * n)
  let heas := (List.range n).map (fun i => rdLe list (4 * i) 4)
  listE (badHeas 4 heas)
  match s.proot part with
  | none => .error (0x0404, 0)
  | some r =>
  guardE (heas.all (fun h => r.heas.contains h)) (0x0600, 0)
  let g := armGroup pl (if n = 0 then none else some heas)
  guardE (!chanTaken r num g) (0x0601, 0)
  let g := placeGroup r r.members g s
  guardE ((g.2.modRoot part (fun r => { r with txns := r.txns ++ [{ tno := 0, acts := [.group num (some g.1)] }] })).groupCount ≤ 4096) (0x0602, 0)
  let _ ← inServiceE part s
  pure (fun s => later (armPly part num g.1 q { s with free := g.2.free }))

def execPlyArm (p : Part) (q : Req) (pl : Bytes) (s : State) : Out := run (q.wf p) (runCmd p q 0x0500 2 pl (judgePlyArm p q)) s

/-- The group's configurations with VALID = 0. -/
def disarmPly (part num : Nat) (q : Req) (s : State) : State :=
  match s.proot part with
  | none => s
  | some r =>
    let t : RTxn := { tno := 0, cmds := [(q, 0x0501, [])] }
    let t := match tfind r.groupsAll num with
      | some g => { t.group num { g with valid := false } r.members r.heas with acts := [.group num none] }
      | none => t.all (bankGroups + 32 * num + 2) [0]
    closeTxn part t s

def judgePlyDisarm (p : Part) (q : Req) (s : State) (pl : Bytes) : Except Refuse (State → Effect) := do
  let part := rdLe pl 0 2
  let num := rdLe pl 2 1
  checkPl [(0, 3)] [(2, num ≤ 62)] pl
  guardE (s.rootRole p) wrongTarget
  let _ ← inServiceE part s
  pure (fun s => later (disarmPly part num q s))

def execPlyDisarm (p : Part) (q : Req) (pl : Bytes) (s : State) : Out := run (q.wf p) (runCmd p q 0x0501 2 pl (judgePlyDisarm p q)) s

/-! ## SAMPLER_BIND and OUTPUT_CFG (R332, R333, R345) -/

/-- Whether a group is armed for the sampler with an OP. -/
def samplerGroup (gs : Tbl Group) (num op : Nat) : Bool := num ≤ 62 && (tfind gs num).any (fun g => g.valid && g.op = op && g.consumer = 1)

/-- Offsets of a binding's fields that R332 does not allow. -/
def badBinding (gs : Tbl Group) (b : Binding) : List (Nat × Bool) :=
  if !b.valid then []
  else [(5, samplerGroup gs b.topk opTopk),
    (6, b.lse = 0xFF || (samplerGroup gs b.lse opLse && (tfind gs b.lse).any (fun g => g.length = min 64 b.count))),
    (8, b.base ≤ 8191), (10, 1 ≤ b.count && b.base + b.count ≤ 8192)]

/-- Whether two bindings share a slot or a group. -/
def bindingClash (a b : Binding) : Bool :=
  (a.base < b.base + b.count && b.base < a.base + a.count) || a.topk = b.topk || (a.lse ≠ 0xFF && a.lse = b.lse)

def bindSampler (part i : Nat) (b : Binding) (q : Req) (s : State) : State :=
  let t : RTxn := { tno := 0, cmds := [(q, 0x0502, [])] }
  closeTxn part (t.own (0x10 * i) b.bytes) s

def judgeSamplerBind (p : Part) (q : Req) (s : State) (pl : Bytes) : Except Refuse (State → Effect) := do
  let part := rdLe pl 0 2
  let i := rdLe pl 2 1
  let b := bindingOf ((pl.drop 4).take 16)
  let gs := ((s.proot part).map (·.groupsAll)).getD []
  checkPl [(0, 3), (4, 3), (8, 4)]
    ([(2, decide (i ≤ 7)), (4, decide (rdLe pl 4 1 ≤ 1))] ++ (if s.rootRole p && (s.proot part).isSome then badBinding gs b else [])) pl
  guardE (s.rootRole p) wrongTarget
  guardE (!b.valid || !((bindings (((s.proot part).map (·.bankAll)).getD [])).zipIdx.any (fun e => e.2 ≠ i && e.1.valid && bindingClash e.1 b))) (0x0603, 0)
  let _ ← inServiceE part s
  pure (fun s => later (bindSampler part i b q s))

def execSamplerBind (p : Part) (q : Req) (pl : Bytes) (s : State) : Out := run (q.wf p) (runCmd p q 0x0502 2 pl (judgeSamplerBind p q)) s

def judgeOutputCfg (p : Part) (q : Req) (s : State) (pl : Bytes) : Except Refuse (State → Effect) := do
  let part := rdLe pl 0 2
  let st := rdLe pl 2 2
  let dn := rdLe pl 4 2
  checkPl [(0, 6)] [(2, st ≤ 255), (4, dn ≤ 255)] pl
  guardE (s.rootRole p) wrongTarget
  let _ ← inServiceE part s
  pure (fun s => later (closeTxn part { tno := 0, acts := [.rings st dn], cmds := [(q, 0x0503, [])] } s))

def execOutputCfg (p : Part) (q : Req) (pl : Bytes) (s : State) : Out := run (q.wf p) (runCmd p q 0x0503 2 pl (judgeOutputCfg p q)) s

/-! ## BOBBIN_TEST (R337) -/

def judgeBobbin (p : Part) (_s : State) (pl : Bytes) : Except Refuse (State → Effect) := do
  checkPl [(0, 24)] [] pl
  guardE (p = .crl) wrongTarget
  pure (fun s => okWith s (bobbin (rdLe pl 0 8) (rdLe pl 8 4) (rdLe pl 12 8) (rdLe pl 20 4)))

def execBobbinTest (p : Part) (q : Req) (pl : Bytes) (s : State) : Out := run (q.wf p) (runCmd p q 0x0504 2 pl (judgeBobbin p)) s

end Sys2Proof.Machine
end

