-- ==== Sys2Proof/Machine/RootCreate.lean ====
section
/-! DEFINITION. Creating and ending partitions at the registry and at their root, and the members' confirmations (R24 to R29, R35, R190,
R195, R411, R419, R531 to R533). -/

namespace Sys2Proof.Machine

/-! ## The registry (R25, R28, R411) -/

/-- A change of a partition's entry in the registry, mirrored to the partner at once (R28). -/
def putRegistry (part : Nat) (e : RegEntry) (s : State) : State :=
  sendPartner 64 { s with crl.registry := tput s.crl.registry part e }

/-- Members of a partition as the registry knows them: of one that this Creel roots, those not leaving. -/
def State.regMembers (part : Nat) (e : RegEntry) (s : State) : List Nat :=
  match s.proot part with
  | some r => (r.members.filter (fun m => m.leaveC.isNone)).map (·.hea)
  | none => e.members

/-- Whether a die belongs to a partition that it is not leaving. -/
def State.dieHeld (h : Nat) (s : State) : Bool :=
  s.crl.registry.any (fun (e : Nat × RegEntry) => e.2.live && !e.2.leaving && (s.regMembers e.1 e.2).contains h)

/-- Partitions that a root serves. -/
def State.rootLoad (root : Nat) (s : State) : Nat :=
  (s.crl.registry.filter (fun (e : Nat × RegEntry) => (e.2.live || e.2.draining) && e.2.root = root)).length

/-- Partitions and members of a lane. -/
def State.laneLoad (j : Nat) (s : State) : Nat × Nat :=
  let es := s.crl.registry.filter (fun (e : Nat × RegEntry) => e.2.live && e.2.lane = j)
  (es.length, (es.map (fun (e : Nat × RegEntry) => (s.regMembers e.1 e.2).length)).sum)

/-- The lane with the fewest members, the lowest of several. -/
def State.thinLane (s : State) : Nat :=
  (List.range 61).foldl (fun b j => if (s.laneLoad j).2 < (s.laneLoad b).2 then j else b) 0

/-- The lane that the registry assigns. -/
def State.chooseLane (n : Nat) (s : State) : Nat :=
  let free := (List.range 61).find? (fun j => (s.laneLoad j).1 = 0)
  if bits (s.reg .crl 0x4420) 8 18 ≤ n then free.getD s.thinLane else s.thinLane

/-! ## Figures of set-up (R195, R533) -/

/-- Longest fibre path in m, which no command tells: free up to 200 (log entry 5). -/
def drawFibre (s : State) : Nat × State := (s.draw.1 % 201, s.draw.2)

/-- Up and Dn in hundredths of ns, and T_RDY in ns, for k tiers and a path of `lm` metres. -/
def upFigure (k lm : Nat) : Nat := 1273 + 2873 * (k - 1) + fibreHns lm
def dnFigure (k lm : Nat) : Nat := 1400 + 2873 * k + fibreHns lm
def readyLead (up dn : Nat) : Nat := max 2000 (100 * ceilDiv (up + dn + 30_600) 10_000)

/-- Set-up signature. -/
def setupSignature (root : Nat) (plane : Plane) (heas : List Nat) : Nat :=
  leNat ((sha384 (le 4 root ++ le 1 (planeNat plane) ++ (sortBy id heas).flatMap (le 4))).take 8)

/-- Whether every Creel on the trees holds a set-up: this one, and the others, whose caches no command tells (log entry 5). -/
def cachedSetup (sig : Nat) (s : State) : Bool × State :=
  if !s.crl.cache.any (fun e => e.1 = sig) then (false, s)
  else if s.cc.topo.tier = 1 then (true, s)
  else (s.draw.1 % 2 = 1, s.draw.2)

/-- The set-up is the one used last; at most 64 stay. -/
def cacheSetup (sig : Nat) (ports : List Nat) (s : State) : State :=
  let l := s.crl.cache.filter (fun e => e.1 ≠ sig) ++ [(sig, ports)]
  { s with crl.cache := l.drop (l.length - 64) }

/-! ## Set-up at the partition root (R531) -/

/-- The membership transaction of one member; a die that has left its old partition takes it. -/
def sendSetup (part hea : Nat) (s : State) : State :=
  match s.proot part with
  | none => s
  | some r =>
    match r.members.find? (fun m => m.hea = hea) with
    | none => s
    | some m =>
      let t : RTxn := { tno := r.tno }
      let t := t.one hea bankPart (membershipBytes part r.epoch m.rank r.members.length ++ lay [(1, 15), (1, 15), (1, 0)])
      let t := r.groups.foldl (fun (t : RTxn) (e : Nat × Group) => t.one hea (bankGroups + 32 * e.1) (e.2.cfg e.1 r.members hea)) t
      let s := s.modRoot part (fun r => { r with tno := (r.tno + 1) % 2 ^ 32, waiting := r.waiting.filter (· ≠ hea) })
      sendTxn part t (setupFigures part r hea s)

/-- Whether a waiting die is still another partition's. -/
def State.stillElsewhere (part h : Nat) (s : State) : Bool :=
  s.crl.parts.any (fun (e : Nat × PRoot) => e.1 < 65536 && e.1 ≠ part && !e.2.waiting.contains h && e.2.members.any (fun m => m.hea = h))
    || s.crl.registry.any (fun (e : Nat × RegEntry) => e.1 ≠ part && e.2.live && (s.proot e.1).isNone && e.2.members.contains h)

/-- Set-up goes to every waiting die that is free. -/
def sendWaiting (part : Nat) (s : State) : State :=
  match s.proot part with
  | none => s
  | some r => (r.waiting.filter (fun h => !s.stillElsewhere part h)).foldl (fun s h => sendSetup part h s) s

/-- A partition as its `PARTITION_CREATE` payload makes it. -/
def newRoot (pl : Bytes) (epoch lane : Nat) (heas : List Nat) : PRoot :=
  let or := fun (v d : Nat) => if v = 0 then d else v
  { epoch := epoch, fast := rdLe pl 2 1 = 1, lane := lane, q := or (rdLe pl 8 4) 5000, slipMax := or (rdLe pl 12 4) 1000,
    digGroup := rdLe pl 24 1, realignK := rdLe pl 26 2, idleIdx := rdLe pl 28 2, maintIdx := rdLe pl 30 2,
    members := heas.zipIdx.map (fun e => ({ hea := e.1, rank := e.2 } : Member)), waiting := heas,
    launch := { stepIdx := rdLe pl 16 8 },
    bank := byteWrites (commonBase + bankMembers) (le 4 heas.length) |>.foldl (fun m w => memPut m w.1 w.2)
      (memPut (memPut [] (commonBase + bankFstep) 15) (commonBase + bankFceil) 15) }

/-- The figures of set-up, the clock round's group and the trees. -/
def layTrees (part : Nat) (s : State) : State :=
  match s.proot part with
  | none => s
  | some r =>
    let k := s.cc.topo.tier
    let d := drawFibre s
    let up := upFigure k d.1
    let dn := dnFigure k d.1
    let s := d.2.modRoot part (fun r => { r with lm := d.1, up := up, dn := dn, trdy := readyLead up dn })
    let g := placeGroup { r with lm := d.1 } r.members clockGroup s
    let s := reinstall part (g.2.modRoot part (fun r => { r with groups := [(63, g.1)] }))
    if 2000 < readyLead up dn then s.raise .crl 0x1402 part [readyLead up dn] else s

/-- The partition's start at its root: epoch and domain epoch, trees, and the members' set-up. -/
def startPartition (part : Nat) (r : PRoot) (sec : Nat) (s : State) : State :=
  let s := { setEpoch part (some r.epoch) s with crl.parts := tput s.crl.parts part r, crl.held := tput s.crl.held part (sec, 0) }
  sendWaiting part (layTrees part s)

/-! ## PARTITION_CREATE (R28, R531) -/

/-- The partition is registered; where this Creel is its root, its set-up begins. The command ends in slices. -/
def createPart (part : Nat) (pl : Bytes) (heas : List Nat) (q : Req) (s : State) : Effect :=
  let root := rdLe pl 4 4
  let old := tget ({ lastEpoch := 0, live := false } : RegEntry) s.crl.registry part
  let epoch := old.lastEpoch + 1
  let lane := if rdLe pl 3 1 = 0xFF then s.chooseLane heas.length else rdLe pl 3 1
  let sec := gtSec (s.gt .crl)
  let sig := setupSignature root s.cc.topo.plane heas
  let c := cachedSetup sig s
  let e : RegEntry := { lastEpoch := epoch, live := true, root := root, members := heas, lane := lane, fast := rdLe pl 2 1 = 1 }
  let s := putRegistry part e c.2
  let s := if root = s.hea .crl then
    let s := startPartition part (newRoot pl epoch lane heas) sec s
    cacheSetup sig (((s.proot part).map (·.kids)).getD []) s
  else s
  later (addJob .crl { q := q, code := 0x0300, core := 2, args := [part, epoch, sec, bitAt c.1 0], total := 1 } s)

/-- Ranges and fields of the payload. The partition root is a plane-A Creel that holds the root role (R26). -/
def createFields (s : State) (pl : Bytes) : List (Nat × Bool) :=
  let n := rdLe pl 40 4
  let q := rdLe pl 8 4
  let root := rdLe pl 4 4
  [(0, 1 ≤ rdLe pl 0 2 && rdLe pl 0 2 ≤ 0xFFFE), (2, rdLe pl 2 1 ≤ 1), (3, rdLe pl 3 1 ≤ 60 || rdLe pl 3 1 = 0xFF),
    (4, crlHea root && !root.testBit 4 && (s.cc.topo.roots.contains root || (root = s.hea .crl && s.cc.topo.hasRoot))), (8, q = 0 || (1000 ≤ q && q ≤ 1_000_000)),
    (24, rdLe pl 24 1 ≤ 62 || rdLe pl 24 1 = 0xFF), (28, rdLe pl 28 2 < 4096), (30, rdLe pl 30 2 < 4096),
    (32, !badHostRange .crl (rdLe pl 32 8) (4 * n)), (40, 1 ≤ n && n ≤ 262_144)]

def judgePartitionCreate (p : Part) (q : Req) (s : State) (pl : Bytes) : Except Refuse (State → Effect) := do
  let part := rdLe pl 0 2
  let n := rdLe pl 40 4
  checkPl [(0, 25), (26, 18)] (createFields s pl) pl
  guardE (p = .crl && s.cc.topo.registry) wrongTarget
  let list := s.rd .crl (rdLe pl 32 8) (4 * n)
  let heas := (List.range n).map (fun i => rdLe list (4 * i) 4)
  listE (badHeas 4 heas)
  let old := tget ({ lastEpoch := 0, live := false } : RegEntry) s.crl.registry part
  guardE (old.lastEpoch ≠ 0xFFFF_FFFF) (0x0400, 0)
  guardE (!old.live && !old.draining) (0x0401, 0)
  guardE (s.rootLoad (rdLe pl 4 4) < 64) (0x0403, 0)
  match heas.find? (fun h => s.dieHeld h || s.untrustedDie h) with
  | some h => .error (0x0402, h)
  | none =>
  guardE (!classBFull .crl 2 s) (0x0100, 0)
  pure (createPart part pl heas q)

def execPartitionCreate (p : Part) (q : Req) (pl : Bytes) (s : State) : Out :=
  run (q.wf p) (runCmd p q 0x0300 2 pl (judgePartitionCreate p q)) s

/-- A slice of a create: it completes once the partition is in service, or, with another Creel its root, at the slice. -/
def createSlice (b : BJob) (s : State) : State × Bool :=
  let part := b.args.getD 0 0
  let s := sendWaiting part s
  let up := match s.proot part with
    | some r => r.epoch = b.args.getD 1 0 && r.inService
    | none => (tfind s.crl.registry part).all (fun e => e.root ≠ s.hea .crl)
  (s, up)

def createCommit (b : BJob) (s : State) : State :=
  complete .crl b.q b.code b.core 0 0 (lay [(4, b.args.getD 1 0), (8, b.args.getD 2 0), (1, b.args.getD 3 0)]) s

/-! ## The members' confirmations (R29, R190) -/

/-- A confirmation in a plane. The partition is in service once every member has confirmed in both; then the first FSTEP is written. -/
def confirmMember (part hea : Nat) (plane : Plane) (mceil : Nat) (s : State) : State :=
  match s.proot part with
  | none => s
  | some r =>
    let ms := r.members.map (fun m =>
      if m.hea = hea then { m with mceil := mceil, confA := m.confA || plane = .a, confB := m.confB || plane = .b } else m)
    let s := s.modRoot part (fun r => { r with members := ms })
    if r.inService || r.tearing || !ms.all (fun m => m.confA && m.confB) then s
    else
      let least := ms.foldl (fun v m => min v m.mceil) 15
      writeFstep part [] (s.modRoot part (fun r => { r with inService := true, freq.mceilP := least }))

def execMembershipConfirmReceived (part hea : Nat) (plane : Plane) (mceil : Nat) (s : State) : Out :=
  run (part < 0x1_0000 && mceil < 16) (confirmMember part hea plane mceil) s

/-! ## PARTITION_TEARDOWN (R419, R532) -/

/-- Whether a teardown waits for a wind-down: the master that runs here sees more power in the lane than it may shed in a period. -/
def State.mustWind (r : PRoot) (s : State) : Bool := s.crl.whorl.master && s.crl.whorl.started && s.envelope.dn < (s.whLane r.lane).q

/-- The teardown begins at the root. -/
def beginTear (part : Nat) (s : State) : State :=
  match s.proot part with
  | none => s
  | some r =>
    if r.tearing then s
    else
      let wind := s.mustWind r
      let s := s.modRoot part (fun r => { r with tearing := true, freq.windDown := wind })
      if wind then s else tearNow part s

def judgePartitionTeardown (p : Part) (q : Req) (s : State) (pl : Bytes) : Except Refuse (State → Effect) := do
  let part := rdLe pl 0 2
  let epoch := rdLe pl 4 4
  checkPl [(0, 2), (4, 4)] [] pl
  guardE (p = .crl && s.cc.topo.registry) wrongTarget
  match tfind s.crl.registry part with
  | none => .error (0x0404, 0)
  | some e =>
  guardE (e.live && e.lastEpoch = epoch && (s.proot part).all (fun r => r.inService || r.tearing)) (0x0404, 0)
  guardE (!classBFull .crl 2 s) (0x0100, 0)
  pure (fun s =>
    let s := putRegistry part { e with leaving := true, draining := true } s
    later (addJob .crl { q := q, code := 0x0301, core := 2, args := [part, epoch], total := 1 } (beginTear part s)))

def execPartitionTeardown (p : Part) (q : Req) (pl : Bytes) (s : State) : Out :=
  run (q.wf p) (runCmd p q 0x0301 2 pl (judgePartitionTeardown p q)) s

/-- Whether a teardown is over: the partition has left its root. With another Creel its root, the slice ends it. -/
def tearSlice (b : BJob) (s : State) : Bool := (s.proot (b.args.getD 0 0)).all (fun r => r.epoch ≠ b.args.getD 1 0)

/-- The registry marks the ID drained. -/
def tearCommit (b : BJob) (s : State) : State :=
  let part := b.args.getD 0 0
  let s := match tfind s.crl.registry part with
    | some e => if e.lastEpoch = b.args.getD 1 0 then
        putRegistry part { e with live := false, draining := false, leaving := false, members := [] } s
      else s
    | none => s
  complete .crl b.q b.code b.core 0 0 [] s

end Sys2Proof.Machine
end

