-- ==== Sys2Proof/Machine/RootIdle.lean ====
section
/-! DEFINITION. Launches that a partition root commits of itself: IDLE launches of coast, wind-up, wind-down and teardown, and maintenance
launches for self-tests (R418 to R420, R460, R461, R532). -/

namespace Sys2Proof.Machine

/-- The root commits a launch of its own. -/
def idleLaunch (part l : Nat) (windUp : Bool) (s : State) : State :=
  match s.proot part with
  | none => s
  | some r => addLaunch part l r.idleIdx 2 windUp s

/-- Where the next IDLE launch goes: 4,096 after the last count, at least the commit horizon ahead. -/
def PRoot.idleAt (r : PRoot) (now : Nat) : Nat := max (r.lastCount + 4096) (now + 50_000)

/-- The pending launch committed last. -/
def PRoot.newest (r : PRoot) : Option RPend := r.launch.pend.find? (fun p => p.c = r.launch.commitNo)

/-! ## Teardown (R532) -/

/-- The IDLE launch at whose doff every member leaves. -/
def leaveAll (part : Nat) (s : State) : State :=
  match s.proot part with
  | none => s
  | some r =>
    let s := idleLaunch part (r.idleAt (s.crlDtc part)) false s
    match (s.proot part).bind PRoot.newest with
    | none => s
    | some p =>
      let g := leaveTxn r [] r.members { tno := 0 } s
      let s := g.2.modRoot part (fun r => { r with tearC := some p.c, members := r.members.map (fun m => { m with leaveC := some p.c }) })
      closeTxnAt part g.1 p s

/-- The next launch of a teardown: one that ends the last step, then, its verdict known, the one at which the members leave. -/
def tearLaunch (part : Nat) (s : State) : State :=
  match s.proot part with
  | none => s
  | some r =>
    if !r.launch.pend.isEmpty || r.tearC.isSome then s
    else if !r.launch.run.isEmpty && !r.tearIdle then
      (idleLaunch part (r.idleAt (s.crlDtc part)) false s).modRoot part (fun r => { r with tearIdle := true })
    else if r.launch.run.any (fun x => x.endD.isSome) then s
    else leaveAll part s

/-! ## Wind-up and coast (R418, R420) -/

/-- An IDLE launch of a wind-up, one per period; a held launch in its way slips by whole quanta (log entry 48). -/
def windLaunch (part : Nat) (s : State) : State :=
  match s.proot part with
  | none => s
  | some r =>
    if r.launch.pend.any (·.windUp) then s
    else
      let l := max (s.crlDtc part + 50_000) (r.launch.lastL + 100_000)
      let s := match r.launch.pend.find? (fun p => !p.decided && p.l < l + 4096) with
        | some p => slipBy part p (ceilTo (l + 4096 - p.l) r.q) (s.hea .crl) 9 false s
        | none => s
      idleLaunch part l true s

/-- A coast launch. The first carries the coast level; later ones follow 100 µs apart. -/
def coastLaunch (part : Nat) (s : State) : State :=
  match s.proot part with
  | none => s
  | some r =>
    let now := s.crlDtc part
    if r.launch.coastC.isSome then
      let s := idleLaunch part (max (r.launch.lastL + 100_000) (now + 50_000)) false s
      s.modRoot part (fun r => { r with launch.coastC := some r.launch.commitNo })
    else
      let level := r.freq.coast
      let s := idleLaunch part (r.idleAt now) false s
      let s := s.modRoot part (fun r => { r with launch.coastC := some r.launch.commitNo, freq.ballast := level })
      match (s.proot part).bind PRoot.newest with
      | none => s
      | some p => closeTxnAt part (({ tno := 0 } : RTxn).all bankBallast (le 1 level)) p s

/-- The root commits the IDLE launch that its situation calls for, if any. -/
def coastCommit (part : Nat) (s : State) : State :=
  match s.proot part with
  | none => s
  | some r =>
    if !r.inService then s
    else if r.tearing && !r.freq.windDown then tearLaunch part s
    else if r.freq.held && r.freq.windUp && !r.tearing then windLaunch part s
    else if !r.launch.pend.isEmpty then s
    else if r.freq.windDown || (r.freq.coastOk && !r.launch.holding) then coastLaunch part s
    else s

def execCoastLaunchCommit (part : Nat) (s : State) : Out := run (part < 0x1_0000) (coastCommit part) s

/-! ## SELF_TEST (R460, R461) -/

/-- What a test found is not told by any command: it is free (log entry 5). No failure leaves every byte 0. -/
def testResult (promise : Nat) (tables : List Nat) (heas : List Nat) (s : State) : Bytes × State :=
  let d := s.draw
  let e := d.2.draw
  if d.1 % 2 = 0 then (lay [(8, promise)], d.2)
  else
    (lay [(8, promise), (4, d.1 / 2 % 2 ^ 32), (1, tables.getD (e.1 % max 1 tables.length) 0), (3, 0), (4, e.1 / 2 ^ 8 % 2 ^ 32),
      (4, heas.getD (e.1 / 2 ^ 40 % max 1 heas.length) 0)], e.2)

/-- The maintenance launch count M, and the pending launch whose place it takes. -/
def PRoot.maintAt (r : PRoot) (now : Nat) : Nat × Option RPend :=
  match r.launch.pend.find? (fun p => now + 50_000 ≤ p.l) with
  | some p => (p.l, some p)
  | none => (r.idleAt now, none)

/-- The maintenance launch is committed; launches from M on move. -/
def maintLaunch (part m : Nat) (moved : Option RPend) (s : State) : State :=
  match s.proot part with
  | none => s
  | some r =>
    let s := match moved with
      | some p =>
        (rootTree part r 0x04 (lay [(8, p.l), (8, p.l + 300_000), (4, p.slips), (4, s.hea .crl), (1, 0)]) s).modRoot part
          (fun r => r.shift p.l 300_000 none)
      | none => s
    addLaunch part m r.maintIdx 1 false s

/-- The test of the Creel's own tables. -/
def judgeTestOwn (p : Part) (q : Req) (s : State) : Except Refuse (State → Effect) := do
  guardE (p = .crl) wrongTarget
  guardE (!classBFull .crl 2 s) (0x0100, 0)
  pure (fun s => later (addJob .crl { q := q, code := 0x000A, core := 2, args := [0, 0], total := 4 } s))

/-- The test of Spindle tables. -/
def judgeTestDies (p : Part) (q : Req) (part prio us : Nat) (heas : List Nat) (s : State) : Except Refuse (State → Effect) := do
  guardE (s.rootRole p) wrongTarget
  let r ← inServiceE part s
  listE ((heas.zipIdx.find? (fun e => !r.heas.contains e.1)).map (fun e => 4 * e.2)).toList
  let strict := s.crl.planner.reqs.any (fun (e : Nat × ReqEnt) =>
    e.2.part = part && e.2.state = .running && 0 < e.2.tbtTgt && e.2.cls < prio)
  guardE (!strict) (0x0205, 0)
  let now := s.crlDtc part
  let m := r.maintAt now
  let limit := now + 1000 * (if us = 0 then 1_000_000 else us)
  guardE (m.1 + 300_000 ≤ limit) (0x0100, (m.1 + 300_000 - limit) % 2 ^ 32)
  guardE (!classBFull .crl 2 s) (0x0100, 0)
  pure (fun s => later (addJob .crl { q := q, code := 0x000A, core := 2, args := [part, m.1 + 300_000] ++ (if heas.isEmpty then r.heas else heas),
                                      total := 1 } (maintLaunch part m.1 m.2 s)))

def judgeSelfTest (p : Part) (q : Req) (s : State) (pl : Bytes) : Except Refuse (State → Effect) := do
  let part := rdLe pl 0 2
  let prio := rdLe pl 2 1
  let n := rdLe pl 16 4
  let a := rdLe pl 8 8
  checkPl [(0, 3), (4, 16)] [(2, prio ≤ 7), (8, n = 0 || !badHostRange p a (4 * n)), (16, n ≤ 262_144)] pl
  if part = 0 then judgeTestOwn p q s
  else
    let list := s.rd p a (4 * n)
    let heas := (List.range n).map (fun i => rdLe list (4 * i) 4)
    listE ((firstTwice [] 0 heas).toList.map (fun i => 4 * i))
    judgeTestDies p q part prio (rdLe pl 4 4) heas s

def execSelfTest (p : Part) (q : Req) (pl : Bytes) (s : State) : Out := run (q.wf p) (runCmd p q 0x000A 2 pl (judgeSelfTest p q)) s

/-- Whether a self-test of Spindle tables has come to its promise. -/
def testDue (b : BJob) (s : State) : Bool :=
  let part := b.args.getD 0 0
  part = 0 || (s.proot part).isNone || b.args.getD 1 0 ≤ s.crlDtc part

def testCommit (b : BJob) (s : State) : State :=
  let part := b.args.getD 0 0
  let x := if part = 0 then testResult 0 [5, 6, 7, 8] [s.hea .crl] s else testResult (b.args.getD 1 0) [1, 2, 3, 4] (b.args.drop 2) s
  complete .crl b.q b.code b.core 0 0 x.1 x.2

end Sys2Proof.Machine
end

