-- ==== Sys2Proof/Machine/WhorlLaw.lean ====
section
/-! DEFINITION. Whorl's control law and what carries it out: the law of a period, wind-up and wind-down, WHORL_SET at the master and at a
partition root (R405 to R420). -/

namespace Sys2Proof.Machine

/-! ## Lanes (R411, R412) -/

def State.modLane (j : Nat) (f : WLane → WLane) (s : State) : State :=
  { s with crl.whorl.lanes := tmod {} s.crl.whorl.lanes j f }

/-- The lanes that can hold a partition. -/
def laneList : List Nat := List.range 61

/-- Requested ballast of the whole hall, W. -/
def State.ballastSum (s : State) : Rat := laneList.foldl (fun t j => t + (s.whLane j).bw) 0

/-- A ballast level: watts over watts per level, rounded up, at most 255. With no watts per level the quotient is not stated: free. -/
def levelOf (bw : Rat) (n kb free : Nat) : Nat :=
  if n * kb = 0 then free % 256 else (min 255 (1000 * bw / (n * kb : Nat)).ceil).toNat

/-- A lane's level (R412). -/
def State.laneLevel (j free : Nat) (s : State) : Nat := levelOf (s.whLane j).bw (s.laneLoad j).2 s.kbDie free

/-- The coast level (R418). -/
def State.coastLevel (j free : Nat) (s : State) : Nat := levelOf (s.whLane j).q (s.laneLoad j).2 s.kbDie free

/-! ## The law (R412 to R414) -/

def clampI (x lo hi : Int) : Int := max lo (min x hi)

/-- Adds a share of `need` to every lane's ballast in proportion to `w`, up to what its members can draw. -/
def spreadBallast (need : Int) (w : List Int) (s : State) : State :=
  let tot : Int := w.foldl (fun (a b : Int) => a + b) 0
  if tot = 0 then s
  else laneList.foldl (fun s j =>
    let cap : Rat := ((s.laneLoad j).2 * 255 * s.kbDie : Nat) / 1000
    let share : Rat := (need : Rat) * ((w.getD j 0 : Int) : Rat) / (tot : Rat)
    s.modLane j (fun l => { l with bw := min cap (l.bw + share) })) s

/-- Lanes from the most ballast to the least, equal ones from the lowest. -/
def mostBallast (s : State) : List Nat → List Nat
  | [] => []
  | j :: l => insertMost s j (mostBallast s l)
where
  insertMost (s : State) (j : Nat) : List Nat → List Nat
    | [] => [j]
    | i :: l => if (s.whLane i).bw ≤ (s.whLane j).bw then j :: i :: l else i :: insertMost s j l

/-- Takes `x` W of ballast away, lane with the most first. -/
def takeBallast (x : Rat) (s : State) : State :=
  ((mostBallast s laneList).foldl (fun (a : Rat × State) j =>
    let d := min a.1 (a.2.whLane j).bw
    (a.1 - d, a.2.modLane j (fun l => { l with bw := l.bw - d }))) (x, s)).2

/-- The lane of most power among some, the lowest of several. -/
def mostPower (s : State) : List Nat → Option Nat
  | [] => none
  | j :: l => match mostPower s l with
    | some i => if (s.whLane j).q < (s.whLane i).q then some i else some j
    | none => some j

/-- Holds a lane (R412, R417). -/
def holdLane (j : Nat) (trip : Bool) (s : State) : State :=
  (s.modLane j (fun l => { l with held := true, trip := trip, qHold := if l.held then l.qHold else l.q })).setEv .crl 0x4434 4

/-- Load above the track that no ballast is left for: one ceiling lower, or the last unheld lane is held. -/
def easeLoad (k : Nat) (s : State) : State :=
  let free := laneList.filter (fun j => !(s.whLane j).held)
  match mostPower s (free.filter (fun j => 0 < (s.whLane j).fc)) with
  | some j => s.modLane j (fun l => { l with fc := l.fc - 1, since := k })
  | none => match free.getLast? with
    | some j => holdLane j false s
    | none => s

/-- What the law does for load below or above the track by `e`; `f` are the falls of the lanes' power. -/
def lawActs (k : Nat) (e : Int) (f : List Int) (s : State) : State :=
  if e < 0 then
    let n : List Int := laneList.map (fun j => ((s.laneLoad j).2 : Int))
    spreadBallast (-e) (if f.all (· = 0) then n else f) s
  else if 0 < e then
    let have_ := s.ballastSum
    let s := takeBallast (min e have_) s
    if have_ < e then easeLoad k s else s
  else s

/-- Raises the lowest ceiling that may rise (R412, R413, R421); a lane that a trip still holds waits at 0 (R423). -/
def raiseCeiling (k : Nat) (p r up prevE : Int) (s : State) : State :=
  let wait := bits (s.whEnv 0x4400) 8 8
  let may := fun j =>
    let l := s.whLane j
    l.fc < 15 && l.since + wait ≤ k && 8 * p + l.q ≤ 8 * (r + up) && !l.trip
  match if 0 < prevE || s.crl.whorl.ramp then none else laneList.find? may with
  | some j => s.modLane j (fun l => { l with fc := l.fc + 1, since := k })
  | none => s

/-- Releases the lowest held lane that may go (R412, R421, R423). -/
def releaseLane (p r up : Int) (s : State) : State :=
  let may := fun j =>
    let l := s.whLane j
    l.held && p + l.qHold ≤ r + up
  match if s.crl.whorl.ramp then none else laneList.find? may with
  | some j => s.modLane j (fun l => { l with held := false, trip := false })
  | none => s

/-- `WHORL_ENVELOPE` (R414). The tool: 1 ballast headroom, 2 ceilings at 0, 3 lanes held. -/
def checkEnvelope (e : Envelope) (p r : Int) (s : State) : State :=
  let w := s.crl.whorl
  let out := 2 * max (max e.up e.dn) 100_000 < ((p - r).natAbs : Int)
  let n := if out then w.envBad + 1 else 0
  let tool := if n < 3 then 0 else if p < r then 1 else if laneList.any (fun j => (s.whLane j).held) then 3 else 2
  let s := { s with crl.whorl.envBad := n, crl.whorl.envTool := tool }
  if tool ≠ 0 && tool ≠ w.envTool then
    (s.setEv .crl 0x4434 1).raise .crl 0x1A02 0 ([p, r, e.pmax, e.pmin].map (toUnsigned 64) ++ [tool])
  else s

/-- Takes the lanes' power: what each fell by, and the state with the new. -/
def takePower (lanes : List Int) (s : State) : List Int × State :=
  (laneList.map (fun j => max 0 ((s.whLane j).q - lanes.getD j 0)), laneList.foldl (fun s j => s.modLane j (fun l => { l with q := lanes.getD j 0 })) s)

/-- The law of a period (R412). -/
def runLaw (k : Nat) (p : Int) (lanes : List Int) (s : State) : State :=
  let env := s.envelope
  let w := s.crl.whorl
  let r0 := if w.started then w.r else p
  let r := clampI (clampI p (r0 - env.dn) (r0 + env.up)) env.pmin env.pmax
  let e := p - r
  let t := takePower lanes s
  let s := lawActs k e t.1 t.2
  let s := if e ≤ 0 then releaseLane p r env.up (raiseCeiling k p r env.up w.prevE s) else s
  let s := { s with crl.whorl.r := r, crl.whorl.prevE := e, crl.whorl.started := true }
  checkEnvelope env p r s

/-! ## WHORL_SET at a partition root (R415 to R417) -/

def whorlSetBytes (m : WhorlSet) : Bytes :=
  lay [(8, m.k), (1, m.ballast), (1, m.fceil % 16), (2, m.stagger), (1, bitAt m.held 0 + bitAt m.windUp 1 + bitAt m.windDown 2 + bitAt m.coastOk 3),
    (1, m.coast), (2, 0), (4, m.seq)]

/-- A sequence number is newer than the last applied. -/
def seqNewer (new : Nat) : Option Nat → Bool
  | none => true
  | some old =>
    let d := (new + 2 ^ 32 - old % 2 ^ 32) % 2 ^ 32
    1 ≤ d && d < 2 ^ 31

/-- FCEIL and BALLAST in one transaction; what FCEIL now cuts (R229, R413, R416). -/
def writeFigures (part fceil ballast : Nat) (s : State) : State :=
  let s := s.modRoot part (fun r => { r with freq.fceil := fceil, freq.ballast := ballast })
  noteCuts part (closeTxn part (({ tno := 0 } : RTxn).all bankFceil (lay [(1, fceil), (1, ballast)])) s)

/-- A newer WHORL_SET is applied; the stagger waits for the next doff (R415 to R417). -/
def takeSet (part : Nat) (m : WhorlSet) (s : State) : State :=
  match s.proot part with
  | none => s
  | some r =>
    if !seqNewer m.seq r.freq.whSeq then s
    else
      let s := s.modRoot part (fun r => { r with
        launch.newStagger := some (min 200 m.stagger)
        freq.held := m.held, freq.windUp := m.windUp, freq.coastOk := m.coastOk, freq.coast := m.coast
        freq.whSeq := some m.seq })
      let s := s.modRoot part (fun r => { r with freq.windDown := r.freq.windDown || (r.tearing && r.tearC.isNone && !r.tearIdle && m.windDown) })
      writeFigures part (m.fceil % 16) (m.ballast % 256) s

def execWhorlSetReceived (part : Nat) (m : WhorlSet) (s : State) : Out := run (part < 0x1_0000) (takeSet part m) s

/-! ## Winding (R419, R420) -/

def State.wsent (part : Nat) (s : State) : WSent := tget {} s.crl.whorl.sent part
def State.modSent (part : Nat) (f : WSent → WSent) (s : State) : State :=
  { s with crl.whorl.sent := tmod {} s.crl.whorl.sent part f }

/-- Whether the master runs the law. -/
def State.whorlRuns (s : State) : Bool := s.crl.whorl.master && (s.whEnv 0x4400).testBit 0

/-- A partition that the master has not sent anything yet: its wind-up begins if its start would exceed `up` (R420). -/
def newSent (part : Nat) (e : RegEntry) (ran : Bool) (up : Int) (s : State) : State :=
  if (s.wsent part).epoch = e.lastEpoch then s
  else
    let n := (s.regMembers part e).length
    let fresh := match s.proot part with
      | some r => !r.computed
      | none => ran
    let wind := fresh && decide (1000 * up < (n * s.dieW0 : Nat))
    s.modSent part (fun x => { epoch := e.lastEpoch, seq := x.seq, windUp := wind, own := if wind then some 0 else none })

/-- A wind-up's ballast grows by `up`; at its end the lane takes it over and the hold ends (R420). -/
def windUpStep (part lane n : Nat) (up : Int) (s : State) : State :=
  let x := s.wsent part
  match x.own with
  | some b =>
    if !x.windUp then s
    else
      let b := b + (up : Rat)
      if b < ((n * s.dieW0 : Nat) : Rat) / 1000 - up then s.modSent part (fun x => { x with own := some b })
      else (s.modSent part (fun x => { x with own := none, windUp := false, extra := true })).modLane lane (fun l => { l with bw := l.bw + b })
  | none => s

/-- The added stagger ends with the first COMPUTE launch. Of a root elsewhere no message tells it: free (log entry 5). -/
def extraEnds (part : Nat) (s : State) : State :=
  if !(s.wsent part).extra then s
  else match s.proot part with
    | some r => if r.computed then s.modSent part (fun x => { x with extra := false }) else s
    | none => if s.draw.1.testBit 0 then s.draw.2.modSent part (fun x => { x with extra := false }) else s.draw.2

/-- Ballast watts that a partition's members hold by its root's bank. -/
def bankWatts (r : PRoot) (n kb : Nat) : Rat := (bankNat r.bank (commonBase + bankBallast) 1 * n * kb : Nat) / 1000

/-- Coast and wind-down of a partition whose root is here: once the members hold the coast level, the lane, or for a wind-down the
partition, carries it; a wind-down then sheds `dn` a period (R418, R419). -/
def coastStep (part lane n : Nat) (dn : Int) (s : State) : State :=
  match s.proot part with
  | none => s
  | some r =>
    let b := bankWatts r n s.kbDie
    let x := s.wsent part
    let alone := (s.laneLoad lane).1 = 1
    if r.freq.windDown then
      match x.own with
      | some v => s.modSent part (fun x => { x with own := some (max 0 (v - dn)) })
      | none =>
        if r.launch.coastC.isNone || b = 0 then s
        else (s.modSent part (fun x => { x with own := some b })).modLane lane (fun l => if alone then { l with bw := 0, coast := false } else l)
    else if !alone then s
    else if r.launch.coastC.isNone then s.modLane lane (fun l => { l with coast := false })
    else if (s.whLane lane).coast || b = 0 then s
    else s.modLane lane (fun l => { l with coast := true, bw := b })

/-- A partition's winding in a period of the law. -/
def windStep (part : Nat) (e : RegEntry) (ran : Bool) (s : State) : State :=
  let env := s.envelope
  let n := (s.regMembers part e).length
  let old := (s.wsent part).epoch = e.lastEpoch
  let s := newSent part e ran env.up s
  let s := if old then windUpStep part e.lane n env.up s else s
  extraEnds part (if (s.wsent part).windUp then s else coastStep part e.lane n env.dn s)

/-! ## WHORL_SET at the master (R415, R417, R418) -/

/-- The figures of a partition: level, FCEIL, stagger, flags, coast level. -/
def State.figures (part : Nat) (e : RegEntry) (free : Nat) (s : State) : List Nat :=
  let j := e.lane
  let l := s.whLane j
  let x := s.wsent part
  let base := s.laneStagger j
  let level := match x.own with
    | some b => levelOf b (s.regMembers part e).length s.kbDie free
    | none => s.laneLevel j free
  let down := match s.proot part with
    | some r => r.freq.windDown
    | none => e.leaving && s.envelope.dn < l.q
  let coast := s.whorlRuns && (s.laneLoad j).1 = 1 && !s.crl.whorl.tripped
  [level, if s.whorlRuns then l.fc else 15, base + (if x.extra then min (10 * j) (200 - base) else 0),
   bitAt (l.held || x.windUp) 0 + bitAt x.windUp 1 + bitAt down 2 + bitAt coast 3, s.coastLevel j free]

def setOf (k seq : Nat) (f : List Nat) : WhorlSet :=
  let b := f.getD 3 0
  { k := k, ballast := f.getD 0 0, fceil := f.getD 1 0, stagger := f.getD 2 0, held := b.testBit 0, windUp := b.testBit 1,
    windDown := b.testBit 2, coastOk := b.testBit 3, coast := f.getD 4 0, seq := seq }

/-- Sends a WHORL_SET to the active root: here, in this plane, or over PX. -/
def sendSet (part : Nat) (e : RegEntry) (m : WhorlSet) (s : State) : State :=
  let c := { ctlCell 0x0A part e.lastEpoch (whorlSetBytes m) with dst := e.root }
  if e.root = s.cc.topo.hea then takeSet part m s
  else if heaDie e.root / 16 = planeNat s.cc.topo.plane then sendTo .crl s.cc.topo.plane c s
  else sendCell .crl pxPort c s

/-- One partition's decisions leave if they changed, and every 100 periods. -/
def decideSet (k part : Nat) (e : RegEntry) (s : State) : State :=
  let d := if s.kbDie = 0 then s.draw else (0, s)
  let s := d.2
  let f := s.figures part e d.1
  if (s.wsent part).fig = f && k % 100 ≠ 0 then s
  else
    let s := s.modSent part (fun x => { x with epoch := e.lastEpoch, fig := f, seq := (x.seq + 1) % 2 ^ 32 })
    sendSet part e (setOf k (s.wsent part).seq f) s

/-- The partitions of the hall. -/
def State.liveParts (s : State) : List (Nat × RegEntry) := s.crl.registry.filter (fun (e : Nat × RegEntry) => e.2.live)

def sendSets (k : Nat) (s : State) : State := s.liveParts.foldl (fun s e => decideSet k e.1 e.2 s) s

/-! ## A round's result, or none (R408, R412, R422) -/

/-- Measurements of a period: p, lane 62, and that the round completed. -/
def takeRound (k : Nat) (p l62 : Int) (s : State) : State :=
  { s with
      crl.whorl.p := p, crl.whorl.lane62 := l62, crl.whorl.settled := some k, crl.whorl.missRun := 0, crl.whorl.blind := false }

/-- During a trip the track follows the load, and the trip is confirmed once it is at the floor (R422, R425). -/
def tripRound (p : Int) (s : State) : State :=
  let floor := p ≤ 1000 * s.whEnv 0x4424
  { s with
      crl.whorl.r := p, crl.whorl.prevE := 0, crl.whorl.envBad := 0, crl.whorl.envTool := 0
      crl.whorl.tripConf := s.crl.whorl.tripConf || decide floor }

/-- Whether the master still waits for the round of period `k`. -/
def State.roundOpen (k : Nat) (s : State) : Bool :=
  s.crl.whorl.master && s.crl.whorl.k = some k && s.crl.whorl.settled ≠ some k

/-- Nanoseconds since the start of period `k`. -/
def State.sincePeriod (k : Nat) (s : State) : Int := s.gt .crl / 65536 - (k * 100_000 : Nat)

/-- Lanes of the completed round of period `k` (R407). -/
def State.hallLanes (k : Nat) (s : State) : Option (List Int) := (s.crl.whorl.round.filter (fun x => x.1 = k % 2 ^ 32)).map (·.2)

/-- The law on the result of round `k`, once that round has completed at the master. -/
def hallResult (k : Nat) (s : State) : State :=
  match s.hallLanes k with
  | none => s
  | some lanes =>
  if !s.roundOpen k || 50_000 ≤ s.sincePeriod k || coreDown .crl 1 s then s
  else
    let p := (s.whEnv 0x4414 : Int) + (lanes.take 62).foldl (· + ·) 0
    let s := takeRound k p (lanes.getD 62 0) s
    if s.crl.whorl.tripped then sendSets k (tripRound p s)
    else if s.whorlRuns then
      let ran := s.crl.whorl.started
      let s := runLaw k p lanes s
      sendSets k (s.liveParts.foldl (fun s e => windStep e.1 e.2 ran s) s)
    else s

/-- The figures arrived in the cells of the round, which the state holds; the row carries none of its own. -/
def execHallPowerResult (k : Nat) (_ : Unit) (s : State) : Out := run true (hallResult k) s

/-- A missed round; the tenth in a row is `WHORL_BLIND` (R408). -/
def roundMissed (k : Nat) (s : State) : State :=
  if !s.roundOpen k || s.sincePeriod k < 50_000 then s
  else
    let n := s.crl.whorl.missRun + 1
    let s := { s with crl.whorl.missRun := n, crl.whorl.settled := some k, crl.whorl.blind := s.crl.whorl.blind || n = 10 }.bump .crl 0x4438 1
    if n = 10 then (s.setEv .crl 0x4434 2).raise .crl 0x1A01 0 [] else s

def execWhorlRoundMissed (k : Nat) (s : State) : Out := run true (roundMissed k) s

end Sys2Proof.Machine
end

