-- ==== Sys2Proof/Machine/Plant.lean ====
section
/-! DEFINITION. Whorl's periods at a Creel, the plant port's inputs and outputs, trips, and the Modbus server (R405, R406, R410, R421 to R425,
R428). -/

namespace Sys2Proof.Machine

/-! ## Period start (R405, R406, R409, R410, R427) -/

/-- CTRL and the envelope and model registers. -/
def envRegs : List Nat := [0x4400, 0x4408, 0x440C, 0x4410, 0x4414, 0x4418, 0x441C, 0x4420, 0x4424]

/-- What a period takes at its start: registers, committed plant values, RAMP_HOLD. -/
def takeSettings (s : State) : State :=
  let ramp := s.crl.plant.ins.getLsbD 1 || (s.plantLead && s.crl.plant.standby.getLsbD 1)
  { s with
      crl.whorl.env := envRegs.foldl (fun t o => tset 0 t o (s.reg .crl o)) []
      crl.plant.taken := s.crl.plant.commit.orElse (fun _ => s.crl.plant.taken)
      crl.plant.commit := none
      crl.whorl.ramp := ramp }

/-- The plant conditions of R410, while the plant's values count. -/
def takeConditions (s : State) : State :=
  if !s.plantFresh then s
  else
    let soc := s.plantReg 6
    let low := bits (s.whEnv 0x441C) 0 10
    { s with
        crl.whorl.soc := if soc < low then true else if low + 50 < soc then false else s.crl.whorl.soc
        crl.whorl.chw := decide (0 < s.chwOver) }

/-- WHORL_INPUT to the master (R405). -/
def sendInput (s : State) : State :=
  let body := lay [(1, s.crl.plant.ins.toNat), (3, 0), (8, s.crl.whorl.k.getD 0)]
  sendCell .crl pxPort { ctlCell 0x12 0xFFFF 0 body with local_ := true } s

/-- The master's state to the standby, as a BULK message whose place, number and layout are not stated: free bytes (R405). -/
def sendWhorlState (s : State) : State := sendPartner 496 s

/-- While the master does not run, a partition root here holds FCEIL at 15 (R416). -/
def stopMaster (s : State) : State :=
  if !s.crl.whorl.master || !s.crl.whorl.started || (s.whEnv 0x4400).testBit 0 then s
  else
    let s := { s with crl.whorl.started := false }
    s.crl.parts.foldl (fun s (e : Nat × PRoot) => if e.2.freq.fceil = 15 then s else writeFigures e.1 15 e.2.freq.ballast s) s

/-- A lane as the master before left it: free figures, the ballast within what its members can draw. -/
def drawLane (j : Nat) (s : State) : State :=
  let a := s.draw
  let b := a.2.draw
  let cap := (s.laneLoad j).2 * 255 * s.kbDie / 1000
  b.2.modLane j (fun l => { l with
    q := a.1 % 2 ^ 32, bw := (b.1 % (cap + 1) : Nat), fc := a.1 / 2 ^ 32 % 16, held := (a.1 / 2 ^ 36).testBit 0, qHold := b.1 / 2 ^ 64 % 2 ^ 32 })

/-- A standby that becomes master goes on from the last state it received, whose layout no rule gives: free (log entry 113). -/
def continueWhorl (s : State) : State :=
  let s := laneList.foldl (fun s j => drawLane j s) s
  let d := s.draw
  { d.2 with crl.whorl.r := d.1 % 2 ^ 40, crl.whorl.started := (d.1 / 2 ^ 40).testBit 0 }

/-- The role of a plant-connected root: the lead plane's is the master (R405). `was` tells of an earlier period, as standby if not as master. -/
def takeRole (was : Bool) (s : State) : State :=
  let m := s.plantLead
  if s.crl.whorl.master = m then s
  else
    let s := if m && was then continueWhorl s else s
    { s with crl.whorl.master := m }.setEv .crl 0x4434 5

def periodStart (s : State) : State :=
  let k := whorlPeriod (s.gt .crl)
  if !s.cc.time.gtValid || s.crl.whorl.k.any (k ≤ ·) then s
  else
    let was := s.crl.whorl.k.isSome
    let s := takeConditions (takeSettings { s with crl.whorl.k := some k })
    let s := stopMaster (takeRole was s)
    if s.crl.whorl.master then sendWhorlState s else if s.cc.topo.plant then sendInput s else s

def execWhorlPeriodStart (s : State) : Out := run true periodStart s

/-! ## A rack Creel's down ports (R408) -/

/-- The last contribution of a down port that is not in UP is sent again for at most 10,000 periods; then the port is EMPTY. -/
def resendPower (port : Nat) (s : State) : State :=
  let k := whorlPeriod (s.gt .crl) % 2 ^ 32
  let t := s.cc.topo
  let blank : PlyUp := { part := 0xFFFF, pepoch := 0, tree := t.powerTree, c := k, n := 0, op := opSum, fmt := fmtInt32, outFmt := fmtInt32,
                         length := 64, rmode := 0, scaled := false, empty := true, failed := false, counted := 0, tLast := 0, cause := 0,
                         ndtie := 0, seed := 0, idx := 0, lanes := [], rank := 0xFFFF_FFFF, gap := false, ecc := false }
  if t.tier ≠ 1 || !t.powerKids.contains port || (s.port .crl port).state = .up || !s.cc.time.gtValid then s
  else match tfind s.crl.powerRep port with
    | some (m, n) =>
      if n < 10_000 then plyUp port { m with c := k, n := 0 } { s with crl.powerRep := tput s.crl.powerRep port (m, n + 1) }
      else plyUp port blank s
    | none => plyUp port blank s

def execRackPeriodResend (port : Nat) (s : State) : Out := run (port < 129) (resendPower port) s

/-! ## Trips (R422, R423) -/

def tripCell (trip : Bool) (num : Nat) (s : State) : Cell :=
  { ctlCell 0x0B 0xFFFF 0 (lay [(1, bitAt trip 0), (3, 0), (4, num)]) with tree := true, dst := s.cc.topo.powerTree }

/-- WHORL_TRIP down the hall power tree, with HOPS left (R66). -/
def tripDown (hops : Nat) (trip : Bool) (num : Nat) (s : State) : State :=
  sendOn .crl s.cc.topo.powerKids { tripCell trip num s with hops := hops } s

/-- A trip at a Creel: every partition root here holds its lane, and the part is in emergency (R422, R459). -/
def noteTrip (num : Nat) (s : State) : State :=
  { s with
      crl.whorl.tripped := true, crl.whorl.tripNo := num, crl.whorl.tripConf := false, cc.fw.clearedAt := none
      crl.parts := s.crl.parts.map (fun (e : Nat × PRoot) => (e.1, { e.2 with freq.held := true })) }

/-- A trip at the master: ceilings and ballast at 0, every lane held. -/
def masterTrip (s : State) : State :=
  let k := s.crl.whorl.k.getD 0
  let s := laneList.foldl (fun s j => (holdLane j true s).modLane j (fun l => { l with fc := 0, bw := 0, since := k })) s
  { s with crl.whorl.sent := s.crl.whorl.sent.map (fun (e : Nat × WSent) => (e.1, { e.2 with own := e.2.own.map (fun _ => 0) })) }

/-- PLANT_TRIP as this root knows it: its own input, and at the master the standby's. -/
def State.tripLevel (s : State) : Bool := s.crl.plant.ins.getLsbD 0 || (s.plantLead && s.crl.plant.standby.getLsbD 0)

/-- Notes since when PLANT_TRIP, which was asserted before or not, has been deasserted. -/
def noteLevels (was : Bool) (s : State) : State :=
  if s.tripLevel then { s with crl.whorl.clearAt := none }
  else if was then { s with crl.whorl.clearAt := some s.cc.time.tick }
  else s

/-- The master sends a trip down its tree and over PX (R422). -/
def startTrip (num : Nat) (s : State) : State :=
  let s := sendCell .crl pxPort (tripCell true num s) (tripDown 7 true num s)
  noteLevels true (masterTrip (noteTrip num s))

/-- PLANT_TRIP has been asserted for TRIP_DEB µs (R422, R428). -/
def State.tripHeld (s : State) : Bool :=
  s.crl.plant.ins.getLsbD 0 && s.crl.plant.tripAt.any (fun t => t + 1000 * max 1 (bits (s.reg .crl 0x4400) 16 8) ≤ s.cc.time.tick)

/-- PLANT_TRIP debounced at a plant-connected root: the error, and WHORL_TRIP; a standby sends it up PX alone. -/
def tripDebounced (s : State) : State :=
  if !s.cc.topo.plant || !s.tripHeld || s.crl.whorl.tripped then s
  else
    let num := (s.crl.whorl.tripNo + 1) % 2 ^ 32
    let s := (s.setEv .crl 0x4434 0).raise .crl 0x1A04 0 []
    if s.plantLead then startTrip num s else sendCell .crl pxPort (tripCell true num s) s

def execPlantTripDebounced (s : State) : Out := run true tripDebounced s

/-- The end of a trip at the master: WHORL_TRIP with TRIP = 0; the law resumes from r = p (R423). -/
def endTrip (s : State) : State :=
  let num := s.crl.whorl.tripNo
  let s := sendCell .crl pxPort (tripCell false num s) (tripDown 7 false num s)
  { s with crl.whorl.tripped := false, crl.whorl.tripConf := false }

/-- Whether PLANT_TRIP is asserted or was within the last second. -/
def State.tripRecent (s : State) : Bool := s.tripLevel || s.crl.whorl.clearAt.any (fun t => s.cc.time.tick < t + 1_000_000_000)

/-- With TRIP_AUTO, the end of a trip once PLANT_TRIP has been deasserted for 1 s. -/
def tripEndDue (s : State) : State :=
  if s.crl.whorl.master && s.crl.whorl.tripped && !s.tripRecent && (s.whEnv 0x4400).testBit 2 then endTrip s else s

def execTripEnd (s : State) : Out := run true tripEndDue s

def judgeWhorlResume (p : Part) (s : State) (pl : Bytes) : Except Refuse (State → Effect) := do
  checkPl [] [] pl
  guardE (p = .crl && s.crl.whorl.master) wrongTarget
  guardE (!s.tripRecent) (0x0801, 0)
  pure (fun s => okWith (if s.crl.whorl.tripped then endTrip s else s))

def execWhorlResume (p : Part) (q : Req) (pl : Bytes) (s : State) : Out :=
  run (q.wf p) (runCmd p q 0x0800 1 pl (judgeWhorlResume p)) s

/-- WHORL_TRIP at a Spindle: the first copy of a number stops every region, takes the ballast to 0 and fails the step; TRIP = 0 ends it
(R422, R423, R544). -/
def tripSpindle (trip : Bool) (num : Nat) (s : State) : State :=
  let w := s.spn.wh
  if trip then
    if num = w.trips then s
    else
      let s := { s with
        spn.wh.tripped := true, spn.wh.trips := num, spn.wh.ballast := 0, sc.fw.clearedAt := none
        spn.clocks.regions := s.spn.clocks.regions.map (fun (e : Nat × Region) => (e.1, { e.2 with gated := true })) }
      failStepC s.stepC 8 s
  else if w.tripped && (num = w.trips || seqNewer num (some w.trips)) then
    { s with
        spn.wh.tripped := false, spn.wh.trips := num, spn.wh.ballast := bankNat s.spn.banks.active bankBallast 1
        spn.clocks.regions := s.spn.clocks.regions.map (fun (e : Nat × Region) => (e.1, { e.2 with gated := !e.2.present })) }
  else s

/-- WHORL_TRIP at a Creel: forwarded on the tree with one HOP less, a cell that has none left being dropped (R58, R66); the master takes a trip that comes over PX as its own and sends it back. -/
def tripCreel (port : Nat) (trip : Bool) (num hops : Nat) (s : State) : State :=
  if hops = 0 then s.portCount .crl port 0x2C 1
  else if port = pxPort && s.plantLead then
    if trip && !(s.crl.whorl.tripped && s.crl.whorl.tripNo = num) then startTrip num s else s
  else
    let s := tripDown (hops - 1) trip num s
    if trip then noteTrip num s else { s with crl.whorl.tripped := false, crl.whorl.tripConf := false }

def tripReceived (p : Part) (port : Nat) (trip : Bool) (num hops : Nat) (s : State) : State :=
  match p with
  | .spn => tripSpindle trip num s
  | .crl => tripCreel port trip num hops s

def execWhorlTripReceived (p : Part) (port : Nat) (trip : Bool) (n : TripNo) (s : State) : Out :=
  run (port < p.ports) (tripReceived p port trip n.num n.hops) s

/-! ## Inputs and outputs (R405, R410, R421, R425) -/

/-- PLANT_EVENT record. -/
def plantEvent (n : Nat) (level : Bool) (s : State) : Bytes :=
  lay [(1, 0x60), (1, n), (1, bitAt level 0), (1, 0), (8, gtSec (s.gt .crl)), (4, gtNs (s.gt .crl)), (4, s.crl.plant.recSeq), (12, 0)]

/-- A change of a debounced input: its record, and at the standby a WHORL_INPUT. -/
def inputChange (n : Nat) (level : Bool) (s : State) : State :=
  if s.crl.plant.ins.getLsbD n = level then s
  else
    let was := s.tripLevel
    let r := plantEvent n level s
    let ins := if level then s.crl.plant.ins ||| (1#8 <<< n) else s.crl.plant.ins &&& ~~~(1#8 <<< n)
    let s := if n = 0 then { s with crl.plant.tripAt := if level then some s.cc.time.tick else none } else s
    let s := { s with crl.plant.ins := ins, crl.plant.recSeq := (s.crl.plant.recSeq + 1) % 2 ^ 32 }.post .crl
      (bits (s.reg .crl 0x4404) 16 8) r
    let s := noteLevels was s
    if s.cc.topo.plant && !s.plantLead then sendInput s else s

def execPlantInputChange (n : Nat) (level : Bool) (s : State) : Out := run (n < 8) (inputChange n level) s

/-- The master holds the standby's levels as last received. -/
def inputReceived (levels : BitVec 8) (s : State) : State :=
  if s.plantLead then noteLevels s.tripLevel { s with crl.plant.standby := levels } else s

def execWhorlInputReceived (levels : BitVec 8) (k : Nat) (s : State) : Out := run (k < 2 ^ 64) (inputReceived levels) s

/-- A plant heartbeat that has not moved for 10 s with ENV_SRC = 1. -/
def heartbeatStale (s : State) : State :=
  if s.cc.topo.plant && (s.whEnv 0x4400).testBit 1 && !s.crl.whorl.stale && s.crl.plant.hbTick + 10_000_000_000 ≤ s.cc.time.tick then
    ({ s with crl.whorl.stale := true }.setEv .crl 0x4434 3).raise .crl 0x1A03 0 []
  else s

def execPlantHeartbeatStale (s : State) : Out := run true heartbeatStale s

/-- `WHORL_ENVELOPE` stands. -/
def Whorl.envelopeStands (w : Whorl) : Bool := 3 ≤ w.envBad

/-- STAT.STATE: 0 OFF, 1 RUN, 2 STANDBY, 3 TRIPPED, 4 BLIND. -/
def State.whorlState (s : State) : Nat :=
  if !s.cc.topo.plant then 0
  else if s.crl.whorl.tripped then 3
  else if !s.crl.whorl.master then 2
  else if s.crl.whorl.blind then 4
  else if (s.whEnv 0x4400).testBit 0 then 1 else 0

/-- Output states OUT0 to OUT3, closed as 1. -/
def State.plantOuts (s : State) : Nat :=
  let w := s.crl.whorl
  let lim := laneList.any (fun j => (s.whLane j).held || (s.whLane j).fc < 15)
  bitAt (s.whorlRuns && !w.envelopeStands && !w.blind && !w.tripped) 0 + bitAt (w.tripped && w.tripConf) 1 + bitAt (w.master && lim) 2
    + bitAt ((s.reg .crl 0x443C).testBit 12) 3

/-- Watts as the registers show them, kW. -/
def kilo (w : Int) : Nat := (w / 1000).toNat % 2 ^ 32

/-! ## Modbus TCP (R424) -/

/-- Input registers 0 to 10. -/
def State.inputRegs (s : State) : List Nat :=
  let w := s.crl.whorl
  let pair := fun (v : Nat) => [v / 65536, v % 65536]
  let fc := laneList.foldl (fun m j => min m (s.whLane j).fc) 15
  let flags := bitAt w.master 0 + bitAt w.tripped 1 + bitAt w.ramp 2 + bitAt (s.plantFresh && w.soc) 3 + bitAt (s.plantFresh && w.chw) 4
    + bitAt w.stale 5 + bitAt w.envelopeStands 6 + bitAt w.blind 7
  pair (kilo w.p) ++ pair (kilo w.r) ++ pair (kilo w.lane62) ++ [(s.envelope.pmax / 1_000_000).toNat % 65536, fc, flags]
    ++ pair (w.k.getD 0 % 2 ^ 32)

/-- Holding registers 0 to 9; COMMIT reads 0. -/
def State.holdRegs (s : State) : List Nat := (List.range 9).map (tget 0 s.crl.plant.hold) ++ [0]

/-- A 16-bit register, most significant byte first. -/
def regBytes (v : Nat) : Bytes := be 2 v

def setReply (b : Bytes) (s : State) : State := { s with crl.plant.reply := b }

/-- An exception response. -/
def modbusException (fn code : Nat) (s : State) : State := setReply (lay [(1, fn % 128 + 128), (1, code)]) s

/-- A read of `n` registers from `addr`. -/
def modbusRead (fn addr n : Nat) (regs : List Nat) (s : State) : State :=
  if n = 0 || 125 < n then modbusException fn 3 s
  else if regs.length < addr + n then modbusException fn 2 s
  else setReply (lay [(1, fn), (1, 2 * n)] ++ ((regs.drop addr).take n).flatMap regBytes) s

/-- Whether a value lies in a holding register's range. -/
def holdOk (addr v : Nat) : Bool := v < 65536 && (addr ≠ 6 || v ≤ 1000) && (addr ≠ 9 || v ≤ 1)

/-- Writes one holding register: the heartbeat's advance ends `PLANT_STALE`, COMMIT takes registers 0 to 7 together. -/
def holdWrite (addr v : Nat) (s : State) : State :=
  if addr = 9 then
    if v = 1 then { s with crl.plant.commit := some (s.crl.plant.hold.filter (fun (e : Nat × Nat) => e.1 < 8)) } else s
  else
    let moved := addr = 8 && tget 0 s.crl.plant.hold 8 ≠ v
    let s := { s with crl.plant.hold := tset 0 s.crl.plant.hold addr v }
    if moved then { s with crl.plant.hbTick := s.cc.time.tick, crl.whorl.stale := false } else s

/-- An accepted connection. -/
def State.connected (conn : Nat) (s : State) : Bool := conn < s.crl.plant.conns.length

/-- A connection from an address of CRL_WH_PEERn, at most 4 at once. -/
def modbusConnect (ip : Word) (s : State) : State :=
  let peers := (List.range 4).map (fun n => s.reg .crl (0x4440 + 4 * n))
  if ip ≠ 0 && peers.contains ip.toNat && s.crl.plant.conns.length < 4 then { s with crl.plant.conns := s.crl.plant.conns ++ [ip] } else s

def execModbusConnect (ip : Word) (s : State) : Out := run true (modbusConnect ip) s

def execModbusReadHolding (conn addr n : Nat) (s : State) : Out :=
  run true (fun s => if s.connected conn then modbusRead 3 addr n s.holdRegs s else s) s

def execModbusReadInput (conn addr n : Nat) (s : State) : Out :=
  run true (fun s => if s.connected conn then modbusRead 4 addr n s.inputRegs s else s) s

def modbusWriteOne (addr v : Nat) (s : State) : State :=
  if 10 ≤ addr then modbusException 6 2 s
  else if !holdOk addr v then modbusException 6 3 s
  else setReply (lay [(1, 6)] ++ regBytes addr ++ regBytes v) (holdWrite addr v s)

def execModbusWriteSingle (conn addr v : Nat) (s : State) : Out :=
  run true (fun s => if s.connected conn then modbusWriteOne addr v s else s) s

def modbusWriteMany (addr : Nat) (vs : List Nat) (s : State) : State :=
  if vs.isEmpty || 123 < vs.length then modbusException 16 3 s
  else if 10 < addr + vs.length then modbusException 16 2 s
  else if !vs.zipIdx.all (fun e => holdOk (addr + e.2) e.1) then modbusException 16 3 s
  else
    let s := vs.zipIdx.foldl (fun s e => holdWrite (addr + e.2) e.1 s) s
    setReply (lay [(1, 16)] ++ regBytes addr ++ regBytes vs.length) s

def execModbusWriteMultiple (conn addr : Nat) (vs : List Nat) (s : State) : Out :=
  run true (fun s => if s.connected conn then modbusWriteMany addr vs s else s) s

/-- Any other function code is answered with exception 0x01. -/
def execModbusOtherFunction (conn fn : Nat) (s : State) : Out :=
  run true (fun s => if s.connected conn then modbusException fn 1 s else s) s

end Sys2Proof.Machine
end

