-- ==== Sys2Proof/Machine/Slices.lean ====
section
/-! DEFINITION. One slice of a class B command: its items, its commit at the last, its end by `CMD_ABORT` (R449). -/

namespace Sys2Proof.Machine

/-- The job that a channel and sequence number name; where no ring has it, the mailbox of that number. -/
def State.jobOf (p : Part) (ch seq : Nat) (s : State) : Option BJob :=
  ((s.core p).jobs.find? (fun b => b.q.via = .ring ch && b.q.seq = seq)).orElse
    (fun _ => (s.core p).jobs.find? (fun b => b.q.via = .mbox ch && b.q.seq = seq))

def BJob.same (a b : BJob) : Bool := a.q.via = b.q.via && a.q.seq = b.q.seq

def dropJob (p : Part) (b : BJob) (s : State) : State :=
  s.modCore p (fun c => { c with jobs := c.jobs.filter (fun x => !x.same b) })

def keepJob (p : Part) (b : BJob) (s : State) : State :=
  s.modCore p (fun c => { c with jobs := c.jobs.map (fun x => if x.same b then b else x) })

/-- What an ended create leaves: no partition, its ID drained (log entry 53). -/
def createAbort (b : BJob) (s : State) : State :=
  let part := b.args.getD 0 0
  let epoch := b.args.getD 1 0
  let s := if (s.proot part).any (fun r => r.epoch = epoch) then dropPartition part s else s
  match tfind s.crl.registry part with
  | some e => if e.lastEpoch = epoch then putRegistry part { e with live := false, members := [] } s else s
  | none => s

/-- A teardown that ends before its commit point leaves the partition in service. -/
def tearAbort (b : BJob) (s : State) : State :=
  let part := b.args.getD 0 0
  let s := s.modRoot part (fun r => { r with tearing := false, tearIdle := false, freq.windDown := false })
  match tfind s.crl.registry part with
  | some e => putRegistry part { e with leaving := false, draining := false } s
  | none => s

/-- What else ends with a command that is aborted, or that a restart of its core ends. -/
def abortWork (p : Part) (b : BJob) (s : State) : State :=
  match b.code with
  | 0x0300 => createAbort b s
  | 0x0301 => tearAbort b s
  | 0x0406 => skeinAbort s
  | 0x000B => s.modCore p (fun c => { c with sec := { c.sec with zeroizing := false } })
  | _ => s

/-- Whether a job may end by `CMD_ABORT` at this boundary. -/
def BJob.ends (b : BJob) (s : State) : Bool := b.aborting && b.code ≠ 0x000B && !b.past s

/-- A bulk insert's slice inserts items; it ends where one fails (R366). -/
def bulkSlice (b : BJob) (n : Nat) (s : State) : State :=
  let x := insertItems b.staged (min n (b.total - b.done)) b.done (b.out.headD 0) s
  let i := x.2.2.1
  if x.2.2.2 = .ok && i < b.total then keepJob .crl { b with done := i, out := [x.2.1] } x.1
  else
    let y := insStatus x.2.2.2 (dropJob .crl b x.1)
    complete .crl b.q b.code b.core y.1 0 (lay [(4, x.2.1), (4, i)]) y.2

/-- A dump's slice writes its records, at least 4 KiB: 512 records of 8 bytes or more (R265). -/
def dumpSlice (b : BJob) (n : Nat) (s : State) : State :=
  let m := min (max n 512) (b.total - b.done)
  let s := skeinSlice b b.done m s
  if b.done + m < b.total then keepJob .spn { b with done := b.done + m } s else skeinCommit b (dropJob .spn b s)

/-- The commit of a list or load command at its last slice. -/
def commitJob (p : Part) (b : BJob) (s : State) : State :=
  match b.code with
  | 0x0007 => stageCommit p b s
  | 0x000B => complete p b.q b.code b.core 0 0 [] (zeroizeNow p s)
  | 0x0203 => complete p b.q b.code b.core 0 0 [] (calDone s)
  | 0x0308 => tableCommit b s
  | 0x0401 => mapBulkCommit b s
  | 0x0404 => ctxCommit b s
  | 0x0701 => expectCommit p b s
  | _ => s

/-- A slice of a command whose items only count, with its commit after the last. -/
def countSlice (p : Part) (b : BJob) (n : Nat) (s : State) : State :=
  if b.done + n < b.total then keepJob p { b with done := b.done + n } s else commitJob p b (dropJob p b s)

/-- A slice of a command of the roots or of a self-test: it ends when what it waits for has come. -/
def waitSlice (p : Part) (b : BJob) (s : State) : State :=
  match b.code with
  | 0x0300 =>
    let x := createSlice b s
    if x.2 then createCommit b (dropJob p b x.1) else x.1
  | 0x0301 => if tearSlice b s then tearCommit b (dropJob p b s) else s
  | _ => if testDue b s then testCommit b (dropJob p b s) else s

/-- A slice of `n` items of a job. -/
def jobSlice (p : Part) (b : BJob) (n : Nat) (s : State) : State :=
  if b.ends s then complete p b.q b.code b.core 2 0 [] (abortWork p b (dropJob p b s))
  else match b.code with
    | 0x0606 => bulkSlice b n s
    | 0x0406 => dumpSlice b n s
    | 0x0300 => waitSlice p b s
    | 0x0301 => waitSlice p b s
    | 0x000A => waitSlice p b s
    | _ => countSlice p b n s

/-- A slice of the command that `ch` and `seq` name, unless its core restarts; with none, a slice of the
calibration that the die temperature started (R172), else of the request-table rebuild (R377). -/
def classBSlice (p : Part) (ch seq n : Nat) (s : State) : State :=
  match s.jobOf p ch seq with
  | some b => if coreDown p b.core s then s else jobSlice p b n s
  | none => match p, s.crl.ti.calSelf with
    | .spn, _ => s
    | .crl, some done => if coreDown .crl 2 s then s else selfCalSlice done n s
    | .crl, none => rebuildSlice n s

def execClassBSlice (p : Part) (ch seq items : Nat) (s : State) : Out := run (ch < p.chans) (classBSlice p ch seq items) s

end Sys2Proof.Machine
end

