-- ==== Sys2Proof/Machine/WhorlDie.lean ====
section
/-! DEFINITION. The die's side of Whorl: the hall group configuration, power samples and the contribution of every period (R299, R305 to
R307, R407). -/

namespace Sys2Proof.Machine

/-- The hall group configuration; none before the Spindle's HEA is assigned (R299). -/
def State.hallGroup (s : State) : Option GCfg :=
  let t := s.sc.topo
  if t.hea = noHea then none
  else some { tree := t.powerTree, valid := true, member := true, scaled := false, chan := 0xFF, op := opSum, fmt := fmtInt32, outFmt := fmtInt32,
              length := 64, rmode := 0, consumer := 2, source := 2, seedIdx := 0, rank := t.hallRank, size := t.hallSize, lseBias := 0,
              bound := t.hallBound }

/-- Lane `j` of the contribution (R407). -/
def WhorlDie.lane_ (w : WhorlDie) (part j : Nat) : Nat :=
  if j = 63 then 1
  else if j = 62 then w.ballast * w.kb / 1000
  else if j = (if part = 0 then 61 else w.lane) && (part = 0 || j ≤ 60) then w.sample
  else 0

/-- Sends the latched sample's lanes for period `k`, in the lead plane; nothing leaves in HOLD (R290, R407). -/
def sendPower (k : Nat) (s : State) : State :=
  let s := { s with spn.wh.due := none }
  match s.hallGroup with
  | none => s
  | some g =>
    if s.sc.sec.power = 2 then s
    else
      let lanes := (List.range 64).map (fun j => s.spn.wh.lane_ s.spnPart j)
      let m := { plyReport g.tree (k % 2 ^ 32) 0 g s with part := 0xFFFF, pepoch := 0, counted := 1, lanes := lanes }
      (plyUpCells m).foldl (fun s c => sendCell .spn (planeNat s.sc.time.lead) c s) s

/-- A period start. Without a D in the last 100 µs, and outside any partition, the Spindle takes a sample first, and sends when it has
come. -/
def periodSpindle (s : State) : State :=
  let k := whorlPeriod (s.gt .spn)
  let now := s.sc.time.tick
  if !s.sc.time.gtValid || s.spn.wh.k.any (k ≤ ·) then s
  else
    let s := { s with spn.wh.k := some k }
    if s.spnPart = 0 || !s.spn.wh.lastD.any (fun t => now ≤ t + 100_000) then
      { s with spn.wh.pulse := some now, spn.wh.due := some k }
    else sendPower k s

def execWhorlPeriodSpindle (s : State) : Out := run true periodSpindle s

/-- SPN_PWR_VLD within 500 ns of the pulse latches the sample (R544); a contribution that waits for it leaves. -/
def powerSample (w : Word) (s : State) : State :=
  if s.spn.wh.pulse.any (fun t => t + 500 < s.sc.time.tick) then s
  else
    let s := { s with spn.wh.sample := w.toNat }
    match s.spn.wh.due with
    | some k => sendPower k s
    | none => s

def execPowerSampleValid (w : Word) (s : State) : Out := run true (powerSample w) s

/-- A sample that has not come in 500 ns: the previous one is sent (R544). -/
def lateSample (s : State) : State :=
  match s.spn.wh.due, s.spn.wh.pulse with
  | some k, some t => if t + 500 < s.sc.time.tick then sendPower k s else s
  | _, _ => s

end Sys2Proof.Machine
end

