-- ==== Sys2Proof/Machine/RegRead.lean ====
section
/-! DEFINITION. What a read of each register returns, for every register of both windows: the held word, with the fields that show the
part's state (R10, R40, R43, R89 to R94, R122 to R125, R154 to R159, R178 to R181, R206 to R211, R231 to R237, R268 to R271, R292 to R296,
R299, R304, R330, R331, R350, R379 to R381, R401 to R404, R427 to R431, R474 to R495). -/

namespace Sys2Proof.Machine

/-! ## Fields -/

/-- Fields given as (value, width in bits), from bit 0 up. -/
def fields : List (Nat × Nat) → Nat
  | [] => 0
  | (v, n) :: l => v % 2 ^ n + 2 ^ n * fields l

/-- A flag as a field of one bit. -/
def flag (b : Bool) : Nat × Nat := (bitAt b 0, 1)

/-- Word `k` of a wide value. -/
def wordOf (v k : Nat) : Nat := v / 2 ^ (32 * k) % 2 ^ 32

/-- A value of the time engines in units of 2^-16 ns as a saturating signed register shows it (R123; rounding, log entry 55). -/
def satWord (x : Rat) : Nat := toUnsigned 32 (satSigned 32 x.floor)

/-- Numbers of a list as bits. -/
def bitsOf (l : List Nat) : Nat := l.foldl (fun a i => a ||| 2 ^ i) 0

/-! ## What both parts have -/

/-- The die's present clusters and cores, from boot step 2 on (R478). -/
def State.clusterCount (s : State) : Nat := 32 - s.spn.disClu.length
def State.coreCount (s : State) : Nat := 2048 - s.spn.absent.length

/-- The Creel has read its place from the topology record, as it does at boot step 2 (R9, R436, R479). -/
def State.crlPlaced (s : State) : Bool := 2 ≤ s.cc.fw.bootStep

/-- Identification (R478, R479). -/
def State.identReg (p : Part) (o : Nat) (s : State) : Nat :=
  let c := s.core p
  let dev := if 2 ≤ c.fw.bootStep then rdLe c.sec.devId 0 8 else 0
  match o, p with
  | 0x00, .spn => 0xA101_5359
  | 0x00, .crl => 0xA102_5359
  | 0x04, .spn => if 2 ≤ c.fw.bootStep then fields [(s.clusterCount, 8), (s.coreCount, 12)] else 0
  | 0x08, _ => wordOf dev 0
  | 0x0C, _ => wordOf dev 1
  | 0x10, .spn => c.topo.hea
  | 0x10, .crl => if s.crlPlaced then c.topo.hea else noHea
  | 0x14, _ => 0x0007_0401
  | 0x18, .crl =>
    let t := c.topo
    if t.hea = noHea || !s.crlPlaced then 0
    else fields [(t.tier, 2), (planeNat t.plane, 1), flag t.registry, flag t.plant, (0, 11), (if t.tier = 3 then heaRoot t.hea else 0, 11)]
  | _, _ => 0

/-- Firmware status, by the register's number: STAT, VER, CORES0, CORES1 (R480). -/
def State.fwReg (p : Part) (k : Nat) (s : State) : Nat :=
  let c := s.core p
  let f := c.fw
  let runs := bitsOf ((c.cores.filter (fun (e : Nat × FwCore) => e.2.running)).map (·.1))
  match k with
  | 0 => fields [(f.bootStep, 3), flag f.bootFail, (f.failKind, 4), (f.failCore, 4), flag (s.emergency p), flag f.act.isSome,
      flag (f.act.any (·.deferred))]
  | 1 => fields [(f.patch, 16), (f.minor, 8), (f.major, 8)]
  | 2 => wordOf runs 0
  | _ => wordOf runs 1

/-- SEC_STAT (R482). -/
def State.secStat (p : Part) (s : State) : Nat :=
  let c := s.core p
  let keys := c.ports.any (fun (e : Nat × Port) => e.2.keys.tx.isSome || e.2.keys.rx.isSome)
  fields [(c.sec.lifecycle, 2), (c.sec.debug, 2), (c.sec.power, 2), flag keys, flag c.sec.untrusted, flag c.sec.zeroizing]

/-- CH0_CTRL: the held vector, and OPEN (R485). -/
def State.ch0Ctrl (p : Part) (s : State) : Nat := s.reg p (ch0Base p) + bitAt (s.chan p 0).isOpen 0

/-- A capture slot's words (R40, R43). -/
def TCap.reg (c : TCap) : Nat → Nat
  | 0x00 => fields [(c.seq, 16), flag c.gtValid, flag c.dtcValid, (planeNat c.plane, 1), flag c.stepped]
  | 0x04 => wordOf c.gt.toNat 0
  | 0x08 => wordOf c.gt.toNat 1
  | 0x0C => wordOf c.gt.toNat 2
  | 0x10 => wordOf c.gt.toNat 3
  | 0x14 => wordOf c.dtc.toNat 0
  | 0x18 => wordOf c.dtc.toNat 1
  | 0x1C => wordOf c.dcor.toNat 0
  | 0x20 => wordOf c.dcor.toNat 1
  | 0x24 => c.part
  | 0x28 => c.pepoch
  | 0x2C => wordOf c.depoch.toNat 0
  | 0x30 => wordOf c.depoch.toNat 1
  | _ => 0

/-- A port block's words (R90 to R94). -/
def State.portReg (p : Part) (n o : Nat) (s : State) : Nat :=
  let q := s.port p n
  match o with
  | 0x04 => fields [(q.state.code, 4), flag q.degraded, flag q.keys.kpTx, flag q.asymFw, (0, 1), (q.attempts, 8)]
  | 0x14 => q.peerHea
  | 0x18 => fields [(q.peerPort, 8), (q.peerPlane, 1), (q.peerTier, 2), (0, 5), (q.peerMinor, 8), (q.peerMajor, 8)]
  | 0x1C => q.feat
  | _ => s.reg p (portBase p n + o)

/-- A DMA channel's words (R492 to R494). -/
def State.dmaReg (p : Part) (c o : Nat) (s : State) : Nat :=
  let d := s.dmaCh p c
  match o with
  | 0x00 => wordOf d.src 0
  | 0x04 => wordOf d.src 1
  | 0x08 => wordOf d.dst 0
  | 0x0C => wordOf d.dst 1
  | 0x10 => d.count
  | 0x14 => fields [(0, 2), flag d.pace, flag d.remote, flag d.planeB, flag d.notify, (0, 2), (d.retry, 4)]
  | 0x18 => fields [flag d.busy, flag d.paused, flag d.halted, flag d.done, flag d.aborted, (0, 3), (d.fault, 4)]
  | 0x1C => fields [(d.paceCh, 8), flag d.paceCpl]
  | 0x20 => d.low
  | 0x24 => d.high
  | 0x28 => d.hea
  | 0x2C => wordOf d.err 0
  | 0x30 => wordOf d.err 1
  | _ => 0

/-- A mailbox's words (R483). -/
def State.mbReg (p : Part) (core o : Nat) (s : State) : Nat :=
  let m := s.mboxOf p core
  if o < 0x40 then rdLe m.msg o 4
  else if o < 0x80 then rdLe m.reply (o - 0x40) 4
  else if o = 0x84 then fields [flag m.busy, flag m.rdy, flag m.overrun]
  else 0

/-! ## The Spindle -/

/-- SPN_TE_ registers (R122, R123). -/
def State.spnTime (o : Nat) (s : State) : Nat :=
  let t := s.sc.time
  match o with
  | 0x0200 => fields [(t.engA.state.code, 3), (t.engB.state.code, 3), (planeNat t.track, 1), (planeNat t.lead, 1), (s.portS .spn 0, 4),
      (s.portS .spn 1, 4), (s.localState .spn, 4), flag (s.usable .a && s.usable .b), flag t.decay]
  | 0x0204 => satWord t.ab
  | 0x0208 => satWord t.c
  | 0x020C => satWord t.engA.th
  | 0x0210 => satWord t.engB.th
  | _ => s.reg .spn o

/-- The launch sequencer's words (R207, R208, R210). -/
def State.lsReg (o : Nat) (s : State) : Nat :=
  let l := s.spn.launch
  let next := (s.nextPend.map (·.l)).getD (2 ^ 64 - 1)
  match o with
  | 0x0800 => fields [(s.lsState, 3), flag s.fastMode, ((l.cur.map (·.idx)).getD 0, 12), (l.pend.length, 7)]
  | 0x0804 => wordOf s.curL 0
  | 0x0808 => wordOf s.curL 1
  | 0x080C => wordOf next 0
  | 0x0810 => wordOf next 1
  | 0x0814 => fields [(l.trdy, 16), (ceilDiv l.dn 100, 16)]
  | 0x0818 => l.seq % 65536
  | 0x0820 => s.reg .spn o + bitAt s.spn.banks.host.isSome 3
  | 0x0824 => s.reg .spn o + bitAt s.spn.banks.pending 0 + 2 ^ 16 * (s.spn.banks.doffs % 65536)
  | _ => s.reg .spn o

/-- The region clock governor's words (R232, R237). -/
def State.rcReg (o : Nat) (s : State) : Nat :=
  let b := s.spn.banks.active
  if o = 0x0A00 then
    fields [(s.eff, 4), (s.spn.clocks.mceil, 4), (bankNat b bankFstep 1, 4), (bankNat b bankFceil 1, 4),
      flag (s.spn.clocks.regions.any (fun (e : Nat × Region) => e.2.stopped))]
  else if 0x0B00 ≤ o ∧ o < 0x0B80 then
    let r := s.region ((o - 0x0B00) / 4)
    fields [(r.regSlack, 8), (min r.regWarns 0xFF, 8), (min r.regExcess 0xFF, 8), flag r.present]
  else s.reg .spn o

/-- Contexts resident on the die: those of its cores and of its translation entries, but for the saved ones. -/
def State.residents (s : State) : Nat :=
  let y := s.spn.sync
  let zero := if y.coreCtx.length < s.coreCount then [0] else []
  let all := zero ++ y.coreCtx.map (fun (e : Nat × Nat) => e.2) ++ y.xlat.map (fun (e : Nat × Xlat) => e.2.ctx)
  (all.eraseDups.filter (fun c => !y.saved.contains c)).length

/-- The sync object engine's words (R269, R271). -/
def State.soReg (o : Nat) (s : State) : Nat :=
  let y := s.spn.sync
  match o with
  | 0x0C04 => fields [(y.objs.length, 16), (y.xlat.length, 15)]
  | 0x0C14 => fields [(y.waiters.length, 16), (s.residents, 7)]
  | 0x0C18 => fields [flag y.dumping, flag y.frozen, (0, 14), (y.slices, 16)]
  | _ => s.reg .spn o

/-- The word of a barrier channel (R295). EMPTY counts from boot step 2 on, where the die's cores are known (log entry 56). -/
def State.bwChan (n : Nat) (s : State) : Nat :=
  let c := s.bchan n
  let missing := (s.missing n).length
  fields [(c.gen, 16), (missing, 12), flag c.group.isSome, flag (2 ≤ s.sc.fw.bootStep && s.chanEmpty n), flag c.localDone]

/-- The word of a channel's lowest missing core and group (R295). -/
def State.bwFirst (n : Nat) (s : State) : Nat :=
  let c := s.bchan n
  let first := match (s.missing n).head? with
    | some core => s.logOf core
    | none => 0xFFF
  fields [(first, 16), (c.group.getD 0, 6), flag c.group.isSome]

/-- The barrier and wake network's words (R293, R295, R296). -/
def State.bwReg (o : Nat) (s : State) : Nat :=
  let chans := s.spn.bar.chans
  if o = 0x0D00 then
    let cfg := s.reg .spn 0x0D04
    fields [(bitsOf ((chans.filter (fun (e : Nat × BarChan) => !e.2.arrived.isEmpty)).map (·.1)), 8),
      (bitsOf ((chans.filter (fun (e : Nat × BarChan) => e.2.group.isSome)).map (·.1)), 8), flag (s.fastMode && bits cfg 0 4 ≠ 0)]
  else if 0x0D20 ≤ o ∧ o < 0x0D40 then s.bwChan ((o - 0x0D20) / 4)
  else if 0x0D40 ≤ o ∧ o < 0x0D60 then s.bwFirst ((o - 0x0D40) / 4)
  else if 0x0E00 ≤ o ∧ o < 0x0F00 then
    let k := (o - 0x0E00) / 4
    bitsOf ((List.range 32).filter (fun b => s.coreAwake (32 * k + b)))
  else s.reg .spn o

/-- Bytes of the hall group configuration (R299). -/
def State.hallReg (o : Nat) (s : State) : Nat :=
  match s.hallGroup with
  | some g => rdLe g.bytes (o - 0x0F20) 4
  | none => 0

/-- The determinism unit's words and views (R401 to R403). -/
def State.dtReg (o : Nat) (s : State) : Nat :=
  let d := s.spn.det
  if o = 0x1004 then fields [(d.gen, 8), flag (!d.seedPend.isEmpty), (d.expect.length, 11)]
  else if o = 0x1008 then wordOf d.stepIdx 0
  else if o = 0x100C then wordOf d.stepIdx 1
  else if o = 0x101C then 2 ^ 16 * (d.snapSeq % 65536)
  else if 0x1020 ≤ o ∧ o < 0x10A0 then wordOf (tget 0 d.ndSnap ((o - 0x1020) / 8)) (o / 4 % 2)
  else if 0x1400 ≤ o ∧ o < 0x1C00 then wordOf (tget 0 (tget [] d.gens d.gen) ((o - 0x1400) / 8)) (o / 4 % 2)
  else if 0x6000 ≤ o ∧ o < 0x6800 then wordOf (tget 0 d.slots ((o - 0x6000) / 8)) (o / 4 % 2)
  else s.reg .spn o

/-- The Spindle's Whorl words (R431). -/
def State.spnWhorl (o : Nat) (s : State) : Nat :=
  let w := s.spn.wh
  match o with
  | 0x1100 => w.sample
  | 0x1104 => fields [(bankNat s.spn.banks.active bankBallast 1, 8), flag w.tripped, (if s.spnPart = 0 then 0x3F else w.lane, 6)]
  | 0x1108 => w.trips
  | _ => 0

/-- The bank image that the window shows, and where (R206, R210). -/
def State.windowReg (o : Nat) (s : State) : Nat :=
  let ctl := s.reg .spn 0x0820
  bankNat (if ctl.testBit 6 then s.spn.banks.active else s.spn.banks.shadow) (0x4000 * bits ctl 4 2 + (o - 0xC000)) 4

/-- Interrupt and summary words of the Spindle (R483, R490). -/
def State.spnInt (o : Nat) (s : State) : Nat :=
  match o with
  | 0x0040 => s.sources .spn
  | 0x0048 => bitsOf (s.vectors .spn)
  | 0x0060 => wordOf (s.mbPend .spn) 0
  | 0x0064 => wordOf (s.mbPend .spn) 1
  | 0x0068 => s.dmaPend .spn
  | _ => s.reg .spn o

/-- A read in the SPN_ window (R475). -/
def State.readSpn (o : Nat) (s : State) : Nat :=
  if o < 0x0020 then s.identReg .spn o
  else if o < 0x0030 then s.fwReg .spn ((o - 0x0020) / 4)
  else if 0x0040 ≤ o ∧ o < 0x0070 then s.spnInt o
  else if o = 0x0080 then s.secStat .spn
  else if o = 0x00A0 then s.ch0Ctrl .spn
  else if 0x0200 ≤ o ∧ o < 0x0218 then s.spnTime o
  else if 0x0300 ≤ o ∧ o < 0x0400 then (s.sc.time.slot ((o - 0x0300) / 0x40)).reg (o % 0x40)
  else if 0x0400 ≤ o ∧ o < 0x0480 then s.portReg .spn ((o - 0x0400) / 0x40) (o % 0x40)
  else if 0x0500 ≤ o ∧ o < 0x0700 then s.dmaReg .spn ((o - 0x0500) / 0x40) (o % 0x40)
  else if 0x0800 ≤ o ∧ o < 0x0828 then s.lsReg o
  else if 0x0900 ≤ o ∧ o < 0x0980 then (s.cluster ((o - 0x0900) / 4)).s % 2 ^ 32
  else if 0x0980 ≤ o ∧ o < 0x0A00 then (s.cluster ((o - 0x0980) / 4)).resid % 65536
  else if 0x0A00 ≤ o ∧ o < 0x0C00 then s.rcReg o
  else if 0x0C00 ≤ o ∧ o < 0x0C20 then s.soReg o
  else if 0x0D00 ≤ o ∧ o < 0x0F00 then s.bwReg o
  else if 0x0F20 ≤ o ∧ o < 0x0F40 then s.hallReg o
  else if (0x1000 ≤ o ∧ o < 0x10A0) ∨ (0x1400 ≤ o ∧ o < 0x1C00) ∨ (0x6000 ≤ o ∧ o < 0x6800) then s.dtReg o
  else if 0x1100 ≤ o ∧ o < 0x1110 then s.spnWhorl o
  else if 0x2000 ≤ o ∧ o < 0x6000 then bankNat s.spn.ply.area (o - 0x2000) 4
  else if 0x6800 ≤ o ∧ o < 0x8B00 then s.mbReg .spn ((o - 0x6800) / 0x100) (o % 0x100)
  else if 0xC000 ≤ o ∧ o < 0x1_0000 then s.windowReg o
  else s.reg .spn o

/-! ## The Creel -/

/-- Codes of a reference's state (R158). -/
def QualState.code : QualState → Nat
  | .disabled => 0
  | .failed => 1
  | .qualifying => 2
  | .wtr => 3
  | .qualified => 4

/-- CRL_TE_ registers (R125). LEAD shows a lead plane once one has been heard. -/
def State.crlTime (o : Nat) (s : State) : Nat :=
  let t := s.cc.time
  match o with
  | 0x2200 => if !s.crlPlaced then 0xFFFF_0F00 else fields [(t.engA.state.code, 3), flag s.isTimeRoot, flag ((t.gtValid || s.isTimeRoot) && t.lead = s.cc.topo.plane), (0, 3),
      (s.crlS, 8), (t.engA.port.getD 0xFF, 8), (s.tq .crl, 8)]
  | 0x2204 => satWord t.engA.th
  | 0x2208 => s.heartbeat .crl pxPort
  | _ => s.reg .crl o

/-- QL of a reference; a DISABLED one shows no quality (R158). -/
def State.qlReg (n : Nat) (s : State) : Nat :=
  let r := s.ref n
  let off := r.state = QualState.disabled
  let eth := 2 ≤ n && n < 6
  fields [(r.state.code, 4), (if off then 0xF else s.iqOf n, 4), (if eth then r.ssm else 0, 4), (if eth then r.cclass else 0, 8),
    (if n = 6 then 0 else if off then 0xF else s.fiqOf n, 4),
    flag (s.crl.ref.phaseSel = some n), flag (s.crl.ref.freqSel = some n)]

/-- The reference unit's words (R156 to R159). -/
def State.refReg (o : Nat) (s : State) : Nat :=
  let r := s.crl.ref
  if o = 0x3004 then
    fields [(r.state.code, 4), (r.phaseSel.getD 0xF, 4), (r.freqSel.getD 0xF, 4), (r.labelSel.getD 0xF, 4), (s.rootClass .crl, 4), flag r.step.isSome,
      flag r.slew.isSome, flag r.learned]
  else if o = 0x3008 then (if r.state = UnitState.holdover then r.hoElapsed s.cc.time.tick / secTicks else 0) % 2 ^ 32
  else if 0x3040 ≤ o ∧ o < 0x30C0 ∧ o % 0x10 = 4 then s.qlReg ((o - 0x3040) / 0x10)
  else if 0x3100 ≤ o ∧ o < 0x3140 ∧ o % 0x10 = 0 then s.reg .crl o + bitAt (s.pout ((o - 0x3100) / 0x10)).fly 6
  else s.reg .crl o

/-- A last stamp's words (R181). -/
def TiInput.reg (i : TiInput) : Nat → Nat
  | 0x0 => fields [(gtFrac i.last, 16), (i.seq, 16)]
  | 0x4 => gtNs i.last
  | 0x8 => wordOf (gtSec i.last) 0
  | _ => wordOf (gtSec i.last) 1

/-- CAL_BUSY: a full calibration of `TI_CAL` or of the die temperature is in progress (R172, R179). -/
def State.calBusy (s : State) : Bool := s.crl.ti.calSelf.isSome || s.cc.jobs.any (fun b => b.code = 0x0203)

/-- The time-interval unit's words (R179 to R181). -/
def State.tiReg (o : Nat) (s : State) : Nat :=
  let t := s.crl.ti
  if o = 0x3400 then
    let n := s.tiArmed.length
    s.reg .crl o + bitAt s.calBusy 1 + bitAt t.linValid 2 + 2 ^ 16 * (n % 16) + bitAt (n = 16) 20
  else if 0x3440 ≤ o ∧ o < 0x3460 then
    let n := (o - 0x3440) / 4
    s.reg .crl o + bitAt (s.tiOwned n) 14 + bitAt (s.tiSettling n) 15
  else if 0x3480 ≤ o ∧ o < 0x3500 then (s.tiIn ((o - 0x3480) / 0x10)).reg (o % 0x10)
  else s.reg .crl o

/-- The ply engine's counts; the hall power tree is no group of R300 (R299, R331). -/
def State.plyStat (s : State) : Nat :=
  let y := s.crl.ply
  fields [((y.rounds.filter (fun (e : Nat × Round) => e.2.isOpen)).length, 16), (y.trees.length, 13)]

/-- The lag of a partition's mirroring in doffs (R380). -/
def PRoot.lagDoffs (r : PRoot) : Nat :=
  match r.out.unacked.min? with
  | some c => min 4 (r.nowC - c)
  | none => 0

/-- The largest figure of the partitions rooted here. -/
def State.maxRoot (f : PRoot → Nat) (s : State) : Nat := s.crl.parts.foldl (fun m (e : Nat × PRoot) => max m (f e.2)) 0

/-- The planner's words (R380). LRU_EMPTY counts from boot step 2 on (log entry 56). -/
def State.plnReg (o : Nat) (s : State) : Nat :=
  let n := s.crl.planner
  match o with
  | 0x4200 => fields [(n.reqs.length, 20), flag n.solo, (s.maxRoot PRoot.lagDoffs, 3)]
  | 0x4208 => fields [(n.nodes.length, 25), flag (2 ≤ s.cc.fw.bootStep && n.lru.isEmpty)]
  | _ => s.reg .crl o

/-- The trace's words (R404). -/
def State.traceReg (o : Nat) (s : State) : Nat :=
  match o with
  | 0x430C => s.crl.traceWr
  | 0x4310 => s.crl.traceWraps % 2 ^ 32
  | 0x431C => (s.crl.parts.map (fun (e : Nat × PRoot) => e.2.expect.length)).sum
  | _ => s.reg .crl o

/-- The Creel's Whorl words (R428, R430). -/
def State.whReg (o : Nat) (s : State) : Nat :=
  let w := s.crl.whorl
  match o with
  | 0x4404 => s.reg .crl o + fields [(s.whorlState, 3), flag w.master, flag w.ramp, flag (s.plantFresh && w.soc), flag (s.plantFresh && w.chw),
      flag w.stale, flag w.envelopeStands]
  | 0x4428 => kilo w.p
  | 0x442C => kilo w.r
  | 0x4430 => kilo w.lane62
  | 0x443C => s.reg .crl o + s.crl.plant.ins.toNat + 2 ^ 8 * s.plantOuts
  | _ => s.reg .crl o

/-- Interrupt and summary words of the Creel (R483, R491). -/
def State.crlInt (o : Nat) (s : State) : Nat :=
  if o = 0x0100 then s.sources .crl
  else if o = 0x010C then s.mbPend .crl
  else if o = 0x0110 then s.dmaPend .crl
  else if 0x0114 ≤ o ∧ o < 0x0128 then wordOf (bitsOf s.portPend) ((o - 0x0114) / 4)
  else s.reg .crl o

/-- A read in the CRL_ window (R477). -/
def State.readCrl (o : Nat) (s : State) : Nat :=
  if o < 0x0020 then s.identReg .crl o
  else if 0x0040 ≤ o ∧ o < 0x004C then s.fwReg .crl ((o - 0x0040) / 4)
  else if o = 0x0080 then s.secStat .crl
  else if 0x0100 ≤ o ∧ o < 0x01A0 then s.crlInt o
  else if o = 0x01C0 then s.ch0Ctrl .crl
  else if 0x2020 ≤ o ∧ o < 0x2120 then (s.cc.time.slot ((o - 0x2020) / 0x40)).reg ((o - 0x2020) % 0x40)
  else if 0x2200 ≤ o ∧ o < 0x2210 then s.crlTime o
  else if 0x3000 ≤ o ∧ o < 0x3140 then s.refReg o
  else if 0x3400 ≤ o ∧ o < 0x3500 then s.tiReg o
  else if o = 0x4000 then s.plyStat
  else if o = 0x4110 then min 31 (s.maxRoot PRoot.heldSteps)
  else if 0x4200 ≤ o ∧ o < 0x4240 then s.plnReg o
  else if 0x4300 ≤ o ∧ o < 0x4320 then s.traceReg o
  else if 0x4400 ≤ o ∧ o < 0x4500 then s.whReg o
  else if 0x9000 ≤ o ∧ o < 0x9B00 then s.mbReg .crl ((o - 0x9000) / 0x100) (o % 0x100)
  else if 0xA000 ≤ o ∧ o < 0xA800 then s.dmaReg .crl ((o - 0xA000) / 0x40) (o % 0x40)
  else if 0x1_0000 ≤ o ∧ o < 0x1_2040 then s.portReg .crl ((o - 0x1_0000) / 0x40) (o % 0x40)
  else if 0x4_0000 ≤ o ∧ o < 0x8_0000 then tget 0 s.epochView ((o - 0x4_0000) / 4)
  else if 0x39_0000 ≤ o ∧ o < 0x39_0040 then wordOf (bitsOf s.crl.msixPend) ((o - 0x39_0000) / 4)
  else s.reg .crl o

/-- The aligned word that a read of a register window returns; an unassigned address reads 0 (R10, R474). -/
def State.readReg (p : Part) (off : Nat) (s : State) : Nat :=
  let o := off / 4 * 4
  match p with
  | .spn => s.readSpn o
  | .crl => s.readCrl o

/-! ## The cluster interface (R46, R545) -/

/-- The DTC that a cluster core reads: what the cluster time bus carries, 2 to 4 counts late by the core's own lag (R46; log entry 139). -/
def State.clusterTime (core : Nat) (s : State) : Nat := s.spn.timeBus - (2 + Config.timeLag core % 3)

/-- The word that a core reads in its window; 0 where there is none to read (R246, R274, R304, R388, R390, R545). -/
def State.windowRead (core off : Nat) (s : State) : Nat :=
  let p := s.cport core
  let gen := (s.spn.launch.cur.map (·.gen)).getD s.spn.det.gen
  match off with
  | 0x18 => fields [(p.status, 8), flag p.pending]
  | 0x20 => p.value
  | 0x44 => fields [(p.barStatus, 8), flag p.barPending, (0, 7), (p.barGen, 16)]
  | 0x60 => s.clusterTime core
  | 0x68 => s.stepIndex
  | 0x70 => gen
  | _ =>
    if 0x800 ≤ off && off < 0x1000 && off % 8 = 0 then tget 0 (tget [] s.spn.det.gens gen) ((off - 0x800) / 8)
    else if 0x2000 ≤ off && off < 0x6000 then (memByte s.spn.ply.area (off - 0x2000)).toNat
    else 0

end Sys2Proof.Machine
end

