-- ==== Sys2Proof/Machine/RegWrite.lean ====
section
/-! DEFINITION. Register-port accesses to a register without a row of its own, whichever register the offset names, reads that clear a
counter, and the debug port (R7, R8, R10, R216, R234 to R236, R268, R292, R304, R401, R474 to R495, R511 to R514, R556). -/

namespace Sys2Proof.Machine

/-! ## Writes (R7, R474) -/

/-- A write as the access codes state: RW fields are set, W1C bits written 1 are cleared unless hardware sets them in the same cycle
(R8), all else is ignored. -/
def plainWrite (p : Part) (o v : Nat) (s : State) : State :=
  let d := regDef p o
  if d.rw = 0 && d.w1c = 0 then s
  else
    let old := s.reg p o
    let kept := old - (old &&& d.rw)
    s.setReg p o ((kept - (kept &&& d.w1c &&& s.clearing p o v)) ||| (v &&& d.rw))

/-- SPN_RC_CFG and SPN_RC_FTABk, outside any partition and within their rules (R216, R234). -/
def rcWrite (o v : Nat) (s : State) : State :=
  let ok := if o = 0x0A08 then bits v 0 8 ≤ bits v 8 8 else ftabOk (s.ftabWith ((o - 0x0A40) / 4) (bits v 0 12))
  if s.spnPart = 0 && ok then plainWrite .spn o v s else cfgDenied s

/-- A word of an IN area; OUT areas and what lies beyond the fields of R304 ignore writes. -/
def inWrite (o v : Nat) (s : State) : State :=
  let k := o % 0x800
  let put := fun (w : Nat) => { s with spn.ply.area := memWr s.spn.ply.area o (le 4 w) }
  if k < 0x200 then put v
  else if k = 0x200 then put (v % 2 ^ 16)
  else if k = 0x220 then put (v % 2)
  else s

/-- A write to a mailbox block: the message while none is unanswered, the doorbell, the flags (R483, R484). -/
def mbWrite (p : Part) (core o v : Nat) (s : State) : State :=
  if o < 0x40 then
    s.modMbox p core (fun m =>
      if m.busy then { m with overrun := true }
      else { m with msg := (padTo 64 m.msg).take o ++ le 4 v ++ (padTo 64 m.msg).drop (o + 4) })
      |> (fun s' => if (s.mboxOf p core).busy then s'.noteEv p (mbFlagsOff p core) 4 else s')
  else if o = 0x80 then mbDoorbell p core v s
  else if o = 0x84 then
    let w := s.clearing p (mbFlagsOff p core) v
    s.modMbox p core (fun m => { m with rdy := m.rdy && !w.testBit 1, overrun := m.overrun && !w.testBit 2 })
  else s

/-- Word `k` of a wide value replaced. -/
def putWord (x k v : Nat) : Nat := x - wordOf x k * 2 ^ (32 * k) + v % 2 ^ 32 * 2 ^ (32 * k)

/-- A field of an idle DMA channel (R492 to R494). -/
def dmaField (p : Part) (o v : Nat) (d : Dma) : Dma :=
  match o with
  | 0x00 => { d with src := putWord d.src 0 v }
  | 0x04 => { d with src := putWord d.src 1 v }
  | 0x08 => { d with dst := putWord d.dst 0 v }
  | 0x0C => { d with dst := putWord d.dst 1 v }
  | 0x10 => { d with count := v % 2 ^ 32 }
  | 0x18 => { d with done := d.done && !v.testBit 3, aborted := d.aborted && !v.testBit 4 }
  | 0x1C => { d with paceCh := (match p with | .spn => bits v 0 4 | .crl => bits v 0 8), paceCpl := v.testBit 8 }
  | 0x20 => { d with low := v % 2 ^ 32 }
  | 0x24 => { d with high := v % 2 ^ 32 }
  | 0x28 => { d with hea := v % 2 ^ 32 }
  | _ => d

/-- A write to a DMA block; one that is busy or halted takes only START and ABORT (R493). -/
def dmaWrite (p : Part) (c o v : Nat) (s : State) : State :=
  if o = 0x14 then writeDmaCtrl p c v s
  else if (s.dmaCh p c).busy || (s.dmaCh p c).halted then s
  else s.modDma p c (dmaField p o (if o = 0x18 then s.clearing p (dmaStatOff p c) v else v))

/-- A write to a port block; one of LP_ASYM makes the host its last writer (R90 to R94). -/
def portWrite (p : Part) (n o v : Nat) (s : State) : State :=
  if o = 0 then writeLpCtrl p n v s
  else
    let s := plainWrite p (portBase p n + o) v s
    if o = 0x10 then s.modPort p n (fun q => { q with asymFw := false, asymHost := some (s.tick p) }) else s

/-- A write to channel 0's block; base and size registers only while it is closed (R485). -/
def ch0Write (p : Part) (o v : Nat) (s : State) : State :=
  if o = 0 then writeCh0Ctrl p v s
  else if (s.chan p 0).isOpen then s
  else plainWrite p (ch0Base p + o) v s

/-- A register that may be written only outside any partition (R268, R292, R401). -/
def outsideWrite (o v : Nat) (s : State) : State := if s.spnPart = 0 then plainWrite .spn o v s else s

/-- A write in the SPN_ window (R475). -/
def writeSpn (o v : Nat) (s : State) : State :=
  if 0x00A0 ≤ o ∧ o < 0x00C0 then ch0Write .spn (o - 0x00A0) v s
  else if o = 0x0100 then captureTrig .spn v s
  else if 0x0400 ≤ o ∧ o < 0x0480 then portWrite .spn ((o - 0x0400) / 0x40) (o % 0x40) v s
  else if 0x0480 ≤ o ∧ o < 0x04C0 then ringDoorbell .spn ((o - 0x0480) / 4) v s
  else if 0x0500 ≤ o ∧ o < 0x0700 then dmaWrite .spn ((o - 0x0500) / 0x40) (o % 0x40) v s
  else if o = 0x0820 then writeBankCtrl none v s
  else if o = 0x0A08 ∨ (0x0A40 ≤ o ∧ o < 0x0A80) then rcWrite o v s
  else if o = 0x0C00 ∨ o = 0x0D04 ∨ o = 0x1000 then outsideWrite o v s
  else if o = 0x101C then writeNdCtrl v s
  else if 0x2000 ≤ o ∧ o < 0x6000 then inWrite (o - 0x2000) v s
  else if 0x6800 ≤ o ∧ o < 0x8B00 then mbWrite .spn ((o - 0x6800) / 0x100) (o % 0x100) v s
  else if 0xC000 ≤ o ∧ o < 0x1_0000 then windowWrite none o v s
  else plainWrite .spn o v s

/-- A write to the reference unit: settings count at once, and the selection with them (R136, R153 to R159). -/
def refWrite (o v : Nat) (s : State) : State :=
  if o = 0x300C then writeAgeing v s
  else if 0x3100 ≤ o ∧ o < 0x3140 then
    match o % 0x10 with
    | 0 => writeOutCtrl ((o - 0x3100) / 0x10) v s
    | 8 => writeOffsetHi ((o - 0x3100) / 0x10) v s
    | _ => plainWrite .crl o v s
  else
    let s := plainWrite .crl o v s
    if o = 0x3000 || (0x3040 ≤ o && o % 0x10 = 0) then refreshRefs s else s

/-- A write in the CRL_ window (R477). -/
def writeCrl (o v : Nat) (s : State) : State :=
  if o = 0x0108 then intEoi v s
  else if 0x01C0 ≤ o ∧ o < 0x01E0 then ch0Write .crl (o - 0x01C0) v s
  else if o = 0x2000 then captureTrig .crl v s
  else if 0x3000 ≤ o ∧ o < 0x3140 then refWrite o v s
  else if 0x3440 ≤ o ∧ o < 0x3460 then writeTiIn ((o - 0x3440) / 4) v s
  else if o = 0x4300 ∨ o = 0x4304 ∨ o = 0x4308 then writeTrace o v s
  else if 0x8000 ≤ o ∧ o < 0x8400 then ringDoorbell .crl ((o - 0x8000) / 4) v s
  else if 0x9000 ≤ o ∧ o < 0x9B00 then mbWrite .crl ((o - 0x9000) / 0x100) (o % 0x100) v s
  else if 0xA000 ≤ o ∧ o < 0xA800 then dmaWrite .crl ((o - 0xA000) / 0x40) (o % 0x40) v s
  else if 0x1_0000 ≤ o ∧ o < 0x1_2040 then portWrite .crl ((o - 0x1_0000) / 0x40) (o % 0x40) v s
  else plainWrite .crl o v s

/-- A write of a whole aligned word. -/
def writeReg (p : Part) (o v : Nat) (s : State) : State :=
  match p with
  | .spn => writeSpn o v s
  | .crl => writeCrl o v s

/-- A register-port write; one that does not cover a whole aligned word is ignored (R474). -/
def execRegisterWrite (p : Part) (off : Nat) (be : BitVec 4) (v : Word) (s : State) : Out :=
  run true (fun s => if be = 0xF && off % 4 = 0 then writeReg p off v.toNat s else s) s

/-! ## Reads (R8, R474) -/

/-- A read of the aligned word at an offset: its value stands on the bus; an RC counter is reset, and `ev` events of the same cycle are
counted after that. -/
def readClear (p : Part) (off ev : Nat) (s : State) : State :=
  let o := off / 4 * 4
  let s := s.modCore p (fun c => { c with bus := BitVec.ofNat 32 (s.readReg p o) })
  if (regDef p o).rc = 0 then s else s.setReg p o (min ev 0xFFFF_FFFF)

def execRcRegisterRead (p : Part) (off : Nat) (ev : Nat) (s : State) : Out := run true (readClear p off ev) s

/-! ## The debug port (R511 to R514, R556) -/

/-- A part as Config names it. -/
def tapPart : Part → Nat
  | .spn => 0
  | .crl => 1

def State.debugLevel (p : Part) (s : State) : Nat := (s.core p).sec.debug

/-- Memory that the debug port reaches: the die's, or the Creel stack. -/
def tapMemory (p : Part) (a : Nat) : Bool := a < 2 ^ 56 && !badAddr p a

/-- A core that the debug port reaches: any but SEC. -/
def tapCore (p : Part) (core : Nat) : Bool := 0 < core && core < p.cores

/-- The end of an operation: DONE, and DENIED where nothing was reached. -/
def tapEnd (p : Part) (denied : Bool) (s : State) : State :=
  s.modCore p (fun c => { c with tap := { c.tap with done := true, denied := denied } })

/-- A read's data. -/
def tapData (p : Part) (v : Nat) (s : State) : State :=
  tapEnd p false (s.modCore p (fun c => { c with tap := { c.tap with data := BitVec.ofNat 64 v } }))

/-- A value that the manual does not state. -/
def tapFree (p : Part) (s : State) : State := let d := s.draw; tapData p d.1 d.2

/-- A read in the service space. -/
def serviceRead (p : Part) (i : ServiceItem) (s : State) : State :=
  let c := s.core p
  match i with
  | .ident => tapData p (s.identReg p 0) s
  | .devId => tapData p (if 2 ≤ c.fw.bootStep then rdLe c.sec.devId 0 8 else 0) s
  | .states => tapData p (s.secStat p % 16) s
  | .challenge k => tapData p ((c.sec.challenge.map (fun (x : Bytes × Nat) => rdLe x.1 (8 * k) 8)).getD 0) s
  | .enrol => if c.sec.lifecycle = 0 then tapFree p s else tapEnd p true s
  | .request | .token _ | .present => tapData p 0 s

/-- An XACT read: registers without clearing, memory, and cores from OBSERVE on; the service space always. -/
def tapRead (p : Part) (space addr : Nat) (s : State) : State :=
  let open_ := 1 ≤ s.debugLevel p
  match space with
  | 0 => if open_ then tapData p (s.readReg p addr) s else tapEnd p true s
  | 1 => if open_ && tapMemory p addr then tapData p (leNat (s.rd p addr 8)) s else tapEnd p true s
  | 2 => if open_ && tapCore p (Config.debugCore (tapPart p) addr) then tapFree p s else tapEnd p true s
  | _ => serviceRead p (Config.serviceItem (tapPart p) addr) s

def execTapXactRead (p : Part) (space : Nat) (addr : Nat) (s : State) : Out := run (space < 4 && addr < 2 ^ 56) (tapRead p space addr) s

/-- A fresh challenge in place of the one held (R513). -/
def newChallenge (p : Part) (s : State) : State :=
  let ch := randomBytes p (s.core p).sec.draws 32
  s.modCore p (fun c => { c with sec := { c.sec with challenge := some (ch, c.time.tick), draws := c.sec.draws + 1 } })

/-- The unlock at the debug port (R512 to R514): the level asked for, by the token written there where one is needed. A token is used up
whether or not it opens the level. -/
def tapUnlock (p : Part) (level : Nat) (s : State) : State :=
  let sec := (s.core p).sec
  let spent := s.modCore p (fun c => { c with sec := { c.sec with challenge := none } })
  if !(level = 1 || level = 2) || level ≤ sec.debug then s
  else if needsToken sec.lifecycle level && (tokenFault p level (memRd (s.core p).tap.token 0 4800) s).isSome then spent.setEv p (secEvents p) 4
  else if level = 2 && servesNow p s then s
  else enterDebug p level spent

/-- A write in the service space. -/
def serviceWrite (p : Part) (i : ServiceItem) (v : Nat) (s : State) : State :=
  match i with
  | .request => tapEnd p false (newChallenge p s)
  | .token o => tapEnd p false (s.modCore p (fun c => { c with tap := { c.tap with token := memWr c.tap.token o (le 8 v) } }))
  | .present => tapEnd p false (tapUnlock p (v % 256) s)
  | .enrol => tapEnd p ((s.core p).sec.lifecycle ≠ 0) s
  | .ident | .devId | .states | .challenge _ => tapEnd p false s

/-- A write in the core debug space: a core halts, runs on, has its DTCSEL written (R45), or is stepped or written elsewhere, which shows in no
state of the part (R511). -/
def coreWrite (p : Part) (addr v : Nat) (s : State) : State :=
  let core := Config.debugCore (tapPart p) addr
  match Config.debugOp (tapPart p) addr v with
  | 0 => s.modFwCore p core (fun c => { c with halted := true })
  | 1 => runHeld p core (s.modFwCore p core (fun c => { c with halted := false }))
  | 2 => if p = .crl then { s with crl.dtcSel := tput s.crl.dtcSel core (v % 65536) } else s
  | _ => s

/-- An XACT write: registers with their full effect, memory and cores at INVASIVE; the service space always. -/
def tapWrite (p : Part) (space addr v : Nat) (s : State) : State :=
  let full := s.debugLevel p = 2
  match space with
  | 0 => if full then tapEnd p false (if addr % 4 = 0 then writeReg p addr (v % 2 ^ 32) s else s) else tapEnd p true s
  | 1 => if full && tapMemory p addr then tapEnd p false (s.wr p addr (le 8 v)) else tapEnd p true s
  | 2 => if full && tapCore p (Config.debugCore (tapPart p) addr) then tapEnd p false (coreWrite p addr v s) else tapEnd p true s
  | _ => serviceWrite p (Config.serviceItem (tapPart p) addr) v s

def execTapXactWrite (p : Part) (space : Nat) (addr : Nat) (data : Word64) (s : State) : Out :=
  run (space < 4 && addr < 2 ^ 56) (tapWrite p space addr data.toNat) s

/-- A status operation changes nothing: DONE and DENIED stand as the last operation left them. -/
def execTapXactStatus (_ : Part) (s : State) : Out := run true id s

end Sys2Proof.Machine
end

