-- ==== Sys2Proof/Machine/Restart.lean ====
section
/-! DEFINITION. The rows that restart a firmware core, with what they end of its class B work (R455, R456, R458, R459). -/

namespace Sys2Proof.Machine

/-- Takes away the class B work that a restart has ended, command and effects: none of it had reached its commit point (R456). -/
def dropEnded (p : Part) (s : State) : State :=
  ((s.core p).jobs.filter (fun b => !s.inFlight p (b.q.via, b.q.seq))).foldl (fun s b => abortWork p b (dropJob p b s)) s

def judgeCoreRestart (p : Part) (q : Req) (_ : State) (pl : Bytes) : Except Refuse (State → Effect) := do
  let core := rdLe pl 0 1
  checkPl [(0, 1)] [(0, core < p.cores)] pl
  pure (fun s => later (dropEnded p (restartOrHold p core (s.modFwCore p core (fun c => { c with restartQ := some q })))))

def execCoreRestart (p : Part) (q : Req) (pl : Bytes) (s : State) : Out := run (q.wf p) (runCmd p q 0x0006 0 pl (judgeCoreRestart p q)) s

/-- A watchdog expires; not that of a halted core (R511). PWR in an emergency raises `FW_WATCHDOG` and waits (R459). -/
def watchdog (p : Part) (core : Nat) (s : State) : State :=
  if coreDown p core s then s
  else if core = 1 && s.emergency p then restartOrHold p 1 ((s.setEv p (fwEvents p) 2).raise p 0x1B02 0 [core])
  else restartCore p core s

def execCoreWatchdogExpiry (p : Part) (core : Nat) (s : State) : Out :=
  run (core < p.cores) (fun s => dropEnded p (watchdog p core s)) s

/-- An unrecoverable exception restarts its core, PWR's only outside an emergency (R455, R459). -/
def execCoreException (p : Part) (core : Nat) (s : State) : Out :=
  run (core < p.cores) (fun s => if coreDown p core s then s else dropEnded p (restartOrHold p core s)) s

def execFwActivationNextCore (p : Part) (s : State) : Out := run true (fun s => dropEnded p (activateNext p s)) s

def execEmergencyCleared (p : Part) (s : State) : Out := run true (fun s => dropEnded p (emergencyOver p s)) s

end Sys2Proof.Machine
end

