-- ==== Sys2Proof/Machine/Dispatch.lean ====
section
/-! DEFINITION. Which meaning each command has: one arm per constructor of `Instr`. -/

namespace Sys2Proof.Machine

def exec (i : Instr) (s : State) : Host.Outcome State Fault Refusal :=
  match i with
  | .registerWrite p off be v => Sys2Proof.Machine.execRegisterWrite p off be v s
  | .rcRegisterRead p off ev => Sys2Proof.Machine.execRcRegisterRead p off ev s
  | .tcapTrigWrite p v => Sys2Proof.Machine.execTcapTrigWrite p v s
  | .portEnable p port v => Sys2Proof.Machine.execPortEnable p port v s
  | .portDisable p port v => Sys2Proof.Machine.execPortDisable p port v s
  | .portRetrainBit p port v => Sys2Proof.Machine.execPortRetrainBit p port v s
  | .portClrQuar p port v => Sys2Proof.Machine.execPortClrQuar p port v s
  | .bankBegin x => Sys2Proof.Machine.execBankBegin x s
  | .bankEnd x => Sys2Proof.Machine.execBankEnd x s
  | .bankAbort x => Sys2Proof.Machine.execBankAbort x s
  | .bankWindowWrite off x => Sys2Proof.Machine.execBankWindowWrite off x s
  | .ndSnap v => Sys2Proof.Machine.execNdSnap v s
  | .ndClr v => Sys2Proof.Machine.execNdClr v s
  | .outputOffsetHiWrite m v => Sys2Proof.Machine.execOutputOffsetHiWrite m v s
  | .refAgeingWrite v => Sys2Proof.Machine.execRefAgeingWrite v s
  | .traceBaseWrite off v => Sys2Proof.Machine.execTraceBaseWrite off v s
  | .tiInputConfigWrite n v => Sys2Proof.Machine.execTiInputConfigWrite n v s
  | .mbDoorbell p core v => Sys2Proof.Machine.execMbDoorbell p core v s
  | .ringDoorbell p ch v => Sys2Proof.Machine.execRingDoorbell p ch v s
  | .ch0Open p v => Sys2Proof.Machine.execCh0Open p v s
  | .ch0Close p v => Sys2Proof.Machine.execCh0Close p v s
  | .intEoi v => Sys2Proof.Machine.execIntEoi v s
  | .dmaStart p c v => Sys2Proof.Machine.execDmaStart p c v s
  | .dmaAbort p c v => Sys2Proof.Machine.execDmaAbort p c v s
  | .ringEntryDispatch p ch => Sys2Proof.Machine.execRingEntryDispatch p ch s
  | .classBSlice p ch seq items => Sys2Proof.Machine.execClassBSlice p ch seq items s
  | .completionRoomReturn p ch => Sys2Proof.Machine.execCompletionRoomReturn p ch s
  | .mgmtHello p q pl => Sys2Proof.Machine.execMgmtHello p q pl s
  | .chanOpen p q pl => Sys2Proof.Machine.execChanOpen p q pl s
  | .chanClose p q pl => Sys2Proof.Machine.execChanClose p q pl s
  | .fence p q pl => Sys2Proof.Machine.execFence p q pl s
  | .cmdAbort p q pl => Sys2Proof.Machine.execCmdAbort p q pl s
  | .coreRestart p q pl => Sys2Proof.Machine.execCoreRestart p q pl s
  | .fwStage p q pl => Sys2Proof.Machine.execFwStage p q pl s
  | .fwActivate p q pl => Sys2Proof.Machine.execFwActivate p q pl s
  | .fwWithdraw p q pl => Sys2Proof.Machine.execFwWithdraw p q pl s
  | .selfTest p q pl => Sys2Proof.Machine.execSelfTest p q pl s
  | .zeroize p q pl => Sys2Proof.Machine.execZeroize p q pl s
  | .debugUnlock p q pl => Sys2Proof.Machine.execDebugUnlock p q pl s
  | .timeSet p q pl => Sys2Proof.Machine.execTimeSet p q pl s
  | .timePhaseStep p q pl => Sys2Proof.Machine.execTimePhaseStep p q pl s
  | .timeLeadSet p q pl => Sys2Proof.Machine.execTimeLeadSet p q pl s
  | .portRetrain p q pl => Sys2Proof.Machine.execPortRetrain p q pl s
  | .tiArm p q pl => Sys2Proof.Machine.execTiArm p q pl s
  | .tiCancel p q pl => Sys2Proof.Machine.execTiCancel p q pl s
  | .tiCal p q pl => Sys2Proof.Machine.execTiCal p q pl s
  | .partitionCreate p q pl => Sys2Proof.Machine.execPartitionCreate p q pl s
  | .partitionTeardown p q pl => Sys2Proof.Machine.execPartitionTeardown p q pl s
  | .memberJoin p q pl => Sys2Proof.Machine.execMemberJoin p q pl s
  | .memberLeave p q pl => Sys2Proof.Machine.execMemberLeave p q pl s
  | .launchCommit p q pl => Sys2Proof.Machine.execLaunchCommit p q pl s
  | .launchWithdraw p q pl => Sys2Proof.Machine.execLaunchWithdraw p q pl s
  | .freqRequest p q pl => Sys2Proof.Machine.execFreqRequest p q pl s
  | .ledgerRead p q pl => Sys2Proof.Machine.execLedgerRead p q pl s
  | .launchTableLoad p q pl => Sys2Proof.Machine.execLaunchTableLoad p q pl s
  | .descWrite p q pl => Sys2Proof.Machine.execDescWrite p q pl s
  | .soMap p q pl => Sys2Proof.Machine.execSoMap p q pl s
  | .soMapBulk p q pl => Sys2Proof.Machine.execSoMapBulk p q pl s
  | .soUnmap p q pl => Sys2Proof.Machine.execSoUnmap p q pl s
  | .soSignal p q pl => Sys2Proof.Machine.execSoSignal p q pl s
  | .ctxSwitch p q pl => Sys2Proof.Machine.execCtxSwitch p q pl s
  | .ctxReset p q pl => Sys2Proof.Machine.execCtxReset p q pl s
  | .skeinDump p q pl => Sys2Proof.Machine.execSkeinDump p q pl s
  | .plyArm p q pl => Sys2Proof.Machine.execPlyArm p q pl s
  | .plyDisarm p q pl => Sys2Proof.Machine.execPlyDisarm p q pl s
  | .samplerBind p q pl => Sys2Proof.Machine.execSamplerBind p q pl s
  | .outputCfg p q pl => Sys2Proof.Machine.execOutputCfg p q pl s
  | .bobbinTest p q pl => Sys2Proof.Machine.execBobbinTest p q pl s
  | .planCfg p q pl => Sys2Proof.Machine.execPlanCfg p q pl s
  | .reqSubmit p q pl => Sys2Proof.Machine.execReqSubmit p q pl s
  | .reqCancel p q pl => Sys2Proof.Machine.execReqCancel p q pl s
  | .reqResume p q pl => Sys2Proof.Machine.execReqResume p q pl s
  | .reqQuery p q pl => Sys2Proof.Machine.execReqQuery p q pl s
  | .prefixInsert p q pl => Sys2Proof.Machine.execPrefixInsert p q pl s
  | .prefixInsertBulk p q pl => Sys2Proof.Machine.execPrefixInsertBulk p q pl s
  | .prefixRemove p q pl => Sys2Proof.Machine.execPrefixRemove p q pl s
  | .adapterPublish p q pl => Sys2Proof.Machine.execAdapterPublish p q pl s
  | .adapterRebind p q pl => Sys2Proof.Machine.execAdapterRebind p q pl s
  | .seedSet p q pl => Sys2Proof.Machine.execSeedSet p q pl s
  | .digestExpect p q pl => Sys2Proof.Machine.execDigestExpect p q pl s
  | .whorlResume p q pl => Sys2Proof.Machine.execWhorlResume p q pl s
  | .coreWatchdogExpiry p core => Sys2Proof.Machine.execCoreWatchdogExpiry p core s
  | .coreException p core => Sys2Proof.Machine.execCoreException p core s
  | .coreRestartDone p core => Sys2Proof.Machine.execCoreRestartDone p core s
  | .fwActivationNextCore p => Sys2Proof.Machine.execFwActivationNextCore p s
  | .emergencyBegin p cause => Sys2Proof.Machine.execEmergencyBegin p cause s
  | .emergencyClearTimer p => Sys2Proof.Machine.execEmergencyClearTimer p s
  | .coldResetRelease p => Sys2Proof.Machine.execColdResetRelease p s
  | .coldResetAssert => Sys2Proof.Machine.execColdResetAssert s
  | .moduleInputLoss => Sys2Proof.Machine.execModuleInputLoss s
  | .perstAssert => Sys2Proof.Machine.execPerstAssert s
  | .dmaUnitCopy p c ok => Sys2Proof.Machine.execDmaUnitCopy p c ok s
  | .dmaAccessRetry p c ok => Sys2Proof.Machine.execDmaAccessRetry p c ok s
  | .bulkWriteReceived p port m => Sys2Proof.Machine.execBulkWriteReceived p port m s
  | .bulkAckReceived p c msgNo status => Sys2Proof.Machine.execBulkAckReceived p c msgNo status s
  | .bulkAckTimeout p c => Sys2Proof.Machine.execBulkAckTimeout p c s
  | .blockSlotSend p port => Sys2Proof.Machine.execBlockSlotSend p port s
  | .blockReceived p port blk => Sys2Proof.Machine.execBlockReceived p port blk s
  | .lcbReceived p port m => Sys2Proof.Machine.execLcbReceived p port m s
  | .idleReceived p port credits => Sys2Proof.Machine.execIdleReceived p port credits s
  | .cellSwitch port => Sys2Proof.Machine.execCellSwitch port s
  | .linkBackoffExpiry p port => Sys2Proof.Machine.execLinkBackoffExpiry p port s
  | .trainMarkersLocked p port => Sys2Proof.Machine.execTrainMarkersLocked p port s
  | .fecLockAchieved p port => Sys2Proof.Machine.execFecLockAchieved p port s
  | .identifyReceived p port m => Sys2Proof.Machine.execIdentifyReceived p port m s
  | .linkStateTimeout p port => Sys2Proof.Machine.execLinkStateTimeout p port s
  | .calibrateComplete p port => Sys2Proof.Machine.execCalibrateComplete p port s
  | .linkLockLost p port => Sys2Proof.Machine.execLinkLockLost p port s
  | .linkAuthBurst p port => Sys2Proof.Machine.execLinkAuthBurst p port s
  | .linkDegradedWindow p port symbols corrected => Sys2Proof.Machine.execLinkDegradedWindow p port symbols corrected s
  | .creditStall p port cls => Sys2Proof.Machine.execCreditStall p port cls s
  | .bulkSatWindowEnd p port => Sys2Proof.Machine.execBulkSatWindowEnd p port s
  | .portSatReceived hea part port sat ratio => Sys2Proof.Machine.execPortSatReceived hea part port sat ratio s
  | .rekeyDue p port => Sys2Proof.Machine.execRekeyDue p port s
  | .rkInitReceived p port content => Sys2Proof.Machine.execRkInitReceived p port content s
  | .rkRespReceived p port content => Sys2Proof.Machine.execRkRespReceived p port content s
  | .oldKeyDiscard p port => Sys2Proof.Machine.execOldKeyDiscard p port s
  | .kxInitReceived p port content => Sys2Proof.Machine.execKxInitReceived p port content s
  | .kxRespReceived p port content => Sys2Proof.Machine.execKxRespReceived p port content s
  | .kxAuthReceived p port content => Sys2Proof.Machine.execKxAuthReceived p port content s
  | .kxFailReceived p port reason => Sys2Proof.Machine.execKxFailReceived p port reason s
  | .treqSend p port => Sys2Proof.Machine.execTreqSend p port s
  | .treqReceived p port m stamp => Sys2Proof.Machine.execTreqReceived p port m stamp s
  | .trespReceived p port m stamp => Sys2Proof.Machine.execTrespReceived p port m stamp s
  | .servoWindowEnd p port u => Sys2Proof.Machine.execServoWindowEnd p port u s
  | .leadLostSend => Sys2Proof.Machine.execLeadLostSend s
  | .leadLostReceived src lostRoot lostPlane => Sys2Proof.Machine.execLeadLostReceived src lostRoot lostPlane s
  | .leadChangeReceived p port sec plane => Sys2Proof.Machine.execLeadChangeReceived p port sec plane s
  | .leadChangeBoundary p => Sys2Proof.Machine.execLeadChangeBoundary p s
  | .phaseStepReceived p port sec amt num => Sys2Proof.Machine.execPhaseStepReceived p port sec amt num s
  | .phaseStepBoundary p => Sys2Proof.Machine.execPhaseStepBoundary p s
  | .phaseStepPxReturn num => Sys2Proof.Machine.execPhaseStepPxReturn num s
  | .phaseStepAbandon num => Sys2Proof.Machine.execPhaseStepAbandon num s
  | .qwordOriginate => Sys2Proof.Machine.execQwordOriginate s
  | .qwordReceived p port m => Sys2Proof.Machine.execQwordReceived p port m s
  | .tiInputEdge src port fine => Sys2Proof.Machine.execTiInputEdge src port fine s
  | .tiJobTimeout tag => Sys2Proof.Machine.execTiJobTimeout tag s
  | .tiArmTimeout tag => Sys2Proof.Machine.execTiArmTimeout tag s
  | .tiTempCalTrigger temp => Sys2Proof.Machine.execTiTempCalTrigger temp s
  | .tiInbandCalCycle ch hits delay => Sys2Proof.Machine.execTiInbandCalCycle ch hits delay s
  | .tiDelayInjection n => Sys2Proof.Machine.execTiDelayInjection n s
  | .inbandPortVisit port txs rxs => Sys2Proof.Machine.execInbandPortVisit port txs rxs s
  | .asymUpdate p port => Sys2Proof.Machine.execAsymUpdate p port s
  | .pfPulseTimeout n => Sys2Proof.Machine.execPfPulseTimeout n s
  | .freqMeasureWindow ref ppb short => Sys2Proof.Machine.execFreqMeasureWindow ref ppb short s
  | .todMessageReceived msg => Sys2Proof.Machine.execTodMessageReceived msg s
  | .ptpAnnounceReceived eth m => Sys2Proof.Machine.execPtpAnnounceReceived eth m s
  | .ptpSyncReceived eth seq origin stamp => Sys2Proof.Machine.execPtpSyncReceived eth seq origin stamp s
  | .ptpDelayRespReceived eth seq t4 => Sys2Proof.Machine.execPtpDelayRespReceived eth seq t4 s
  | .ptpMasterSend eth => Sys2Proof.Machine.execPtpMasterSend eth s
  | .announceReceiptTimeout eth => Sys2Proof.Machine.execAnnounceReceiptTimeout eth s
  | .esmcReceived eth m => Sys2Proof.Machine.execEsmcReceived eth m s
  | .esmcTimeout eth => Sys2Proof.Machine.execEsmcTimeout eth s
  | .ethLos e => Sys2Proof.Machine.execEthLos e s
  | .refWtrExpiry ref => Sys2Proof.Machine.execRefWtrExpiry ref s
  | .acquireLockTimer => Sys2Proof.Machine.execAcquireLockTimer s
  | .holdoverClassTimer temp => Sys2Proof.Machine.execHoldoverClassTimer temp s
  | .hoLearnedTimer => Sys2Proof.Machine.execHoLearnedTimer s
  | .ageingLearnUpdate v => Sys2Proof.Machine.execAgeingLearnUpdate v s
  | .pulseOutputEdge m => Sys2Proof.Machine.execPulseOutputEdge m s
  | .launchSetReceived l idx c => Sys2Proof.Machine.execLaunchSetReceived l idx c s
  | .withdrawReceived l => Sys2Proof.Machine.execWithdrawReceived l s
  | .readinessEvaluation l => Sys2Proof.Machine.execReadinessEvaluation l s
  | .readyCombine part port m => Sys2Proof.Machine.execReadyCombine part port m s
  | .readyAtRoot part port m => Sys2Proof.Machine.execReadyAtRoot part port m s
  | .launchDecisionDeadline part l => Sys2Proof.Machine.execLaunchDecisionDeadline part l s
  | .goReceived l at_ idx => Sys2Proof.Machine.execGoReceived l at_ idx s
  | .slipReceived l l' n hea reason => Sys2Proof.Machine.execSlipReceived l l' n hea reason s
  | .doff m => Sys2Proof.Machine.execDoff m s
  | .launch => Sys2Proof.Machine.execLaunch s
  | .shadowRefill => Sys2Proof.Machine.execShadowRefill s
  | .bankWriteReceived m => Sys2Proof.Machine.execBankWriteReceived m s
  | .bankEndReceived m => Sys2Proof.Machine.execBankEndReceived m s
  | .launchFaultReceived part hea l kind => Sys2Proof.Machine.execLaunchFaultReceived part hea l kind s
  | .rootDoff part => Sys2Proof.Machine.execRootDoff part s
  | .membershipConfirmReceived part hea plane mceil => Sys2Proof.Machine.execMembershipConfirmReceived part hea plane mceil s
  | .regionStretch c r => Sys2Proof.Machine.execRegionStretch c r s
  | .crossingQueueStall writer reader q => Sys2Proof.Machine.execCrossingQueueStall writer reader q s
  | .freqSettleConfirm c => Sys2Proof.Machine.execFreqSettleConfirm c s
  | .clockSettleTimeout c => Sys2Proof.Machine.execClockSettleTimeout c s
  | .policySet part v => Sys2Proof.Machine.execPolicySet part v s
  | .soOpSignal core op0 op1 => Sys2Proof.Machine.execSoOpSignal core op0 op1 s
  | .soOpSignalTo core op0 op1 => Sys2Proof.Machine.execSoOpSignalTo core op0 op1 s
  | .soOpBroadcast core op0 op1 => Sys2Proof.Machine.execSoOpBroadcast core op0 op1 s
  | .soOpWaitTake core op0 op1 => Sys2Proof.Machine.execSoOpWaitTake core op0 op1 s
  | .soOpWait core op0 op1 => Sys2Proof.Machine.execSoOpWait core op0 op1 s
  | .soOpArriveWait core op0 op1 => Sys2Proof.Machine.execSoOpArriveWait core op0 op1 s
  | .soOpClear core op0 op1 => Sys2Proof.Machine.execSoOpClear core op0 op1 s
  | .soOpRead core op0 op1 => Sys2Proof.Machine.execSoOpRead core op0 op1 s
  | .soOpInit core op0 op1 => Sys2Proof.Machine.execSoOpInit core op0 op1 s
  | .soOpSeqSet core op0 op1 => Sys2Proof.Machine.execSoOpSeqSet core op0 op1 s
  | .soOpRemote core op0 op2 op1 => Sys2Proof.Machine.execSoOpRemote core op0 op2 op1 s
  | .soBankApply bank => Sys2Proof.Machine.execSoBankApply bank s
  | .soWaitExpiry core => Sys2Proof.Machine.execSoWaitExpiry core s
  | .signalCellReceived m => Sys2Proof.Machine.execSignalCellReceived m s
  | .fabricSignalWord w => Sys2Proof.Machine.execFabricSignalWord w s
  | .fabricTapWord w => Sys2Proof.Machine.execFabricTapWord w s
  | .coreResetInput core => Sys2Proof.Machine.execCoreResetInput core s
  | .countRealignCheck => Sys2Proof.Machine.execCountRealignCheck s
  | .barArrive core w => Sys2Proof.Machine.execBarArrive core w s
  | .barArriveWait core w => Sys2Proof.Machine.execBarArriveWait core w s
  | .barWait core w => Sys2Proof.Machine.execBarWait core w s
  | .barrierWaitExpiry core => Sys2Proof.Machine.execBarrierWaitExpiry core s
  | .plyUpReceived port m => Sys2Proof.Machine.execPlyUpReceived port m s
  | .plyCellGapTimeout part tree port => Sys2Proof.Machine.execPlyCellGapTimeout part tree port s
  | .plyDownForward m => Sys2Proof.Machine.execPlyDownForward m s
  | .plyRelease m => Sys2Proof.Machine.execPlyRelease m s
  | .heldOutputWrite part => Sys2Proof.Machine.execHeldOutputWrite part s
  | .planningPass part => Sys2Proof.Machine.execPlanningPass part s
  | .stragglerReceived part hea l reason unit => Sys2Proof.Machine.execStragglerReceived part hea l reason unit s
  | .moveTimeoutExpiry idx => Sys2Proof.Machine.execMoveTimeoutExpiry idx s
  | .mirrorAckReceived part c n => Sys2Proof.Machine.execMirrorAckReceived part c n s
  | .mirrorSilenceTimeout => Sys2Proof.Machine.execMirrorSilenceTimeout s
  | .mirrorRebuildStart => Sys2Proof.Machine.execMirrorRebuildStart s
  | .whorlPeriodSpindle => Sys2Proof.Machine.execWhorlPeriodSpindle s
  | .rackPeriodResend port => Sys2Proof.Machine.execRackPeriodResend port s
  | .hallPowerResult k u => Sys2Proof.Machine.execHallPowerResult k u s
  | .whorlRoundMissed k => Sys2Proof.Machine.execWhorlRoundMissed k s
  | .whorlSetReceived part m => Sys2Proof.Machine.execWhorlSetReceived part m s
  | .plantInputChange n level => Sys2Proof.Machine.execPlantInputChange n level s
  | .whorlInputReceived levels k => Sys2Proof.Machine.execWhorlInputReceived levels k s
  | .plantTripDebounced => Sys2Proof.Machine.execPlantTripDebounced s
  | .whorlTripReceived p port trip n => Sys2Proof.Machine.execWhorlTripReceived p port trip n s
  | .tripEnd => Sys2Proof.Machine.execTripEnd s
  | .plantHeartbeatStale => Sys2Proof.Machine.execPlantHeartbeatStale s
  | .coastLaunchCommit part => Sys2Proof.Machine.execCoastLaunchCommit part s
  | .modbusConnect ip => Sys2Proof.Machine.execModbusConnect ip s
  | .modbusReadHolding conn addr n => Sys2Proof.Machine.execModbusReadHolding conn addr n s
  | .modbusReadInput conn addr n => Sys2Proof.Machine.execModbusReadInput conn addr n s
  | .modbusWriteSingle conn addr v => Sys2Proof.Machine.execModbusWriteSingle conn addr v s
  | .modbusWriteMultiple conn addr vs => Sys2Proof.Machine.execModbusWriteMultiple conn addr vs s
  | .modbusOtherFunction conn fn => Sys2Proof.Machine.execModbusOtherFunction conn fn s
  | .powerSampleValid w => Sys2Proof.Machine.execPowerSampleValid w s
  | .stepfailInput => Sys2Proof.Machine.execStepfailInput s
  | .commitVoteSend => Sys2Proof.Machine.execCommitVoteSend s
  | .commitVoteCombine part port m => Sys2Proof.Machine.execCommitVoteCombine part port m s
  | .commitVoteAtRoot part port m => Sys2Proof.Machine.execCommitVoteAtRoot part port m s
  | .commitDecisionDeadline part l => Sys2Proof.Machine.execCommitDecisionDeadline part l s
  | .commitReceived m => Sys2Proof.Machine.execCommitReceived m s
  | .treeBreakReceived part hea port => Sys2Proof.Machine.execTreeBreakReceived part hea port s
  | .treeRepairDone part => Sys2Proof.Machine.execTreeRepairDone part s
  | .rootLostReportReceived part hea c => Sys2Proof.Machine.execRootLostReportReceived part hea c s
  | .takeoverReceived plane c => Sys2Proof.Machine.execTakeoverReceived plane c s
  | .napEntry p => Sys2Proof.Machine.execNapEntry p s
  | .creelHoldEntry => Sys2Proof.Machine.execCreelHoldEntry s
  | .tapXactRead p space addr => Sys2Proof.Machine.execTapXactRead p space addr s
  | .tapXactWrite p space addr data => Sys2Proof.Machine.execTapXactWrite p space addr data s
  | .tapXactStatus p => Sys2Proof.Machine.execTapXactStatus p s
  | .whorlPeriodStart => Sys2Proof.Machine.execWhorlPeriodStart s
  | .qwordTimeout => Sys2Proof.Machine.execQwordTimeout s
  | .todMessageTimeout => Sys2Proof.Machine.execTodMessageTimeout s
  | .pf10mNoEdge n => Sys2Proof.Machine.execPf10mNoEdge n s
  | .slewEnd => Sys2Proof.Machine.execSlewEnd s
  | .tiInputSettled n => Sys2Proof.Machine.execTiInputSettled n s
  | .clusterStepEnd c => Sys2Proof.Machine.execClusterStepEnd c s
  | .emergencyCleared p => Sys2Proof.Machine.execEmergencyCleared p s
  | .dmaPaceResume p c => Sys2Proof.Machine.execDmaPaceResume p c s
  | .moduleColdReset => Sys2Proof.Machine.execModuleColdReset s
  | .perstRelease => Sys2Proof.Machine.execPerstRelease s
  | .bar2Write addr data => Sys2Proof.Machine.execBar2Write addr data s
  | .ptpDelayReqSend eth => Sys2Proof.Machine.execPtpDelayReqSend eth s
  | .ptpDelayReqReceived eth seq stamp => Sys2Proof.Machine.execPtpDelayReqReceived eth seq stamp s
  | .ptpFollowUpReceived eth seq origin => Sys2Proof.Machine.execPtpFollowUpReceived eth seq origin s
  | .esmcSend eth => Sys2Proof.Machine.execEsmcSend eth s

end Sys2Proof.Machine
end

