-- ==== Sys2Proof/Machine/Tick.lean ====
section
/-! DEFINITION. What happens when no command waits: one TICK of 1 ns at both parts (log entry 3). -/

namespace Sys2Proof.Machine

/-- One TICK of an engine: its GT moves by 1 ns, and by the share of a window's 64,000 TICKs of what its slew differs from that of the engine
that TICK follows (R106, R111). -/
def Engine.advance (steer : Rat) (e : Engine) : Engine :=
  let x := e.frac + (e.steer - steer) / 64000
  { e with gt := e.gt + 65536 + x.floor, frac := x - x.floor }

/-- One TICK of a part's time: its count moves by 1 and the GT of the engine that TICK follows by 1 ns. -/
def Time.advance (t : Time) : Time :=
  let steer := t.tracked.steer
  { t with tick := t.tick + 1, engA := t.engA.advance steer, engB := t.engB.advance steer }

/-- One TICK of 1 ns at both parts; the Spindle drives its DTC on the cluster time bus (R46), and the
time-interval unit sends what waits (R167, R169). -/
def tickBoth (s : State) : State :=
  let s := { s with sc.time := s.sc.time.advance, cc.time := s.cc.time.advance }
  tickTi { s with spn.timeBus := s.dtc }

/-- A step with no command waiting. -/
def idle (s : State) : Out := done s (lateSample (tickBoth s))

end Sys2Proof.Machine
end

