-- ==== Sys2Proof/Safety.lean ====
section
/-! DEFINITION. What counts as a safe run, in the terms the statements use: going on, what a byte of memory reads as, and
what a state may differ in when only reporting (records, completions, interrupts, power notes) lies between it and another. -/

namespace Sys2Proof.Machine

/-- An outcome that goes on. -/
def goesOn (o : Out) : Prop := ∃ t, o = .next t

/-- Every vector with its pending bit set is masked (R491). -/
abbrev State.PendingMasked (s : State) : Prop := ∀ v ∈ s.crl.msixPend, s.masked v = true

/-- The byte at an address: of die memory on a Spindle, of the stack or of host memory on a Creel (R442). -/
def State.byte (p : Part) (x : Nat) (s : State) : Byte :=
  match p with
  | .spn => memByte s.sc.mem x
  | .crl => if hostBit ≤ x then memByte s.cc.hostMem (x - hostBit) else memByte s.cc.mem x

/-- An address lies in the completion ring of an open channel: its 64-byte header and its slots (R440). -/
def State.inRing (p : Part) (ch x : Nat) (s : State) : Prop :=
  (s.chan p ch).isOpen = true ∧ (s.chan p ch).cplBase ≤ x ∧ x < (s.chan p ch).cplBase + 64 + 64 * (s.chan p ch).cplSize

/-- `t` is `a` but for reporting: records and completions (bytes of the completion rings of open channels, mailbox replies,
commands in flight and waiting, error counts, the TICK of each core's last completion), the event bits RING_FULL, RECORD_BIG and POWER, ring interrupt bits, interrupt messages,
and the notes of a part's power. Every other register, unit, table and byte of memory is the same. -/
structure Reports (a t : State) : Prop where
  spn      : t.spn = a.spn
  crl      : { t.crl with msix := a.crl.msix, msixPend := a.crl.msixPend } = a.crl
  pending  : t.pending = a.pending
  free     : t.free = a.free
  time     : ∀ p, (t.core p).time = (a.core p).time
  ports    : ∀ p, (t.core p).ports = (a.core p).ports
  jobs     : ∀ p, (t.core p).jobs = (a.core p).jobs
  dma      : ∀ p, (t.core p).dma = (a.core p).dma
  cores    : ∀ p, (t.core p).cores = (a.core p).cores
  fw       : ∀ p, (t.core p).fw = (a.core p).fw
  topo     : ∀ p, (t.core p).topo = (a.core p).topo
  tap      : ∀ p, (t.core p).tap = (a.core p).tap
  bus      : ∀ p, (t.core p).bus = (a.core p).bus
  held     : ∀ p, (t.core p).held = (a.core p).held
  sec      : ∀ p, { (t.core p).sec with power := (a.core p).sec.power, gateTick := (a.core p).sec.gateTick } = (a.core p).sec
  regs     : ∀ p off, off ≠ fwEvents p → off ≠ secEvents p → (∀ ch, off ≠ ringIrqOff p ch) →
    t.reg p off = a.reg p off
  fwBits   : ∀ p i, i ≠ 3 → i ≠ 4 → (t.reg p (fwEvents p)).testBit i = (a.reg p (fwEvents p)).testBit i
  secBits  : ∀ p i, i ≠ 2 → (t.reg p (secEvents p)).testBit i = (a.reg p (secEvents p)).testBit i
  mem      : ∀ p x, (∀ ch, ¬ a.inRing p ch x) → t.byte p x = a.byte p x
  rings    : ∀ p ch, (t.chan p ch).isOpen = true →
    (a.chan p ch).isOpen = true ∧ (t.chan p ch).cplBase = (a.chan p ch).cplBase ∧ (t.chan p ch).cplSize = (a.chan p ch).cplSize

/-- No FENCE or CHAN_CLOSE waits at a part, and channel 0 does not close. -/
abbrev State.noWaits (s : State) : Prop :=
  ((s.core .spn).waiting = [] ∧ (s.chan .spn 0).closing = false) ∧ (s.core .crl).waiting = [] ∧ (s.chan .crl 0).closing = false

/-- `t` is what follows from `a` at a step's end: but for reporting it is `a`; and where no command waits, nothing is reported
either, but for interrupt messages and power notes. -/
structure Follows (a t : State) : Prop extends Reports a t where
  inflight : a.noWaits → ∀ p, (t.core p).inflight = (a.core p).inflight
  waiting  : a.noWaits → ∀ p, (t.core p).waiting = (a.core p).waiting
  chans    : a.noWaits → ∀ p, (t.core p).chans = (a.core p).chans
  mbox     : a.noWaits → ∀ p, (t.core p).mbox = (a.core p).mbox
  errs     : a.noWaits → ∀ p, (t.core p).errs = (a.core p).errs
  errSeq   : a.noWaits → ∀ p, (t.core p).errSeq = (a.core p).errSeq
  lastTick : a.noWaits → ∀ p, (t.core p).lastTick = (a.core p).lastTick
  memAll   : a.noWaits → ∀ p x, t.byte p x = a.byte p x

/-- What part `r` holds is the same in both states, but for reporting. -/
structure Kept (r : Part) (s t : State) : Prop where
  spn      : r = .spn → t.spn = s.spn
  crl      : r = .crl → { t.crl with msix := s.crl.msix, msixPend := s.crl.msixPend } = s.crl
  time     : (t.core r).time = (s.core r).time
  ports    : (t.core r).ports = (s.core r).ports
  jobs     : (t.core r).jobs = (s.core r).jobs
  dma      : (t.core r).dma = (s.core r).dma
  cores    : (t.core r).cores = (s.core r).cores
  fw       : (t.core r).fw = (s.core r).fw
  topo     : (t.core r).topo = (s.core r).topo
  tap      : (t.core r).tap = (s.core r).tap
  bus      : (t.core r).bus = (s.core r).bus
  held     : (t.core r).held = (s.core r).held
  sec      : { (t.core r).sec with power := (s.core r).sec.power, gateTick := (s.core r).sec.gateTick } = (s.core r).sec
  regs     : ∀ off, off ≠ fwEvents r → off ≠ secEvents r → (∀ ch, off ≠ ringIrqOff r ch) → t.reg r off = s.reg r off
  mem      : ∀ x, (∀ ch, ¬ s.inRing r ch x) → t.byte r x = s.byte r x

/-- A command of part `p` that stores nothing: the other part is as it was but for reporting, and so is every byte of memory. -/
structure Elsewhere (p : Part) (s t : State) : Prop where
  other : ∀ r, r ≠ p → Kept r s t
  mem   : ∀ r x, (∀ ch, ¬ s.inRing r ch x) → t.byte r x = s.byte r x

/-- Every class B job of a part has its command in flight. -/
abbrev State.WorkInFlight (p : Part) (s : State) : Prop := ∀ j ∈ (s.core p).jobs, s.inFlight p (j.q.via, j.q.seq) = true

/-- `t` follows from `s` where core `n` has gone down: of the class B work of its accepted commands only what has passed its commit point, and
that of the command `q` for which it goes down, is still there; where the part has no such work, nothing elsewhere changes (R456). -/
structure EndsWork (p : Part) (n : Nat) (q : Option Req) (s t : State) : Prop where
  frame : (s.core p).jobs = [] → Elsewhere p s t
  old   : ∀ j ∈ (t.core p).jobs, j ∈ (s.core p).jobs
  ended : ∀ i ∈ (s.core p).inflight, i.core = n → i.taken = true → q.any (fun x => x.via = i.via && x.seq = i.seq) = false →
    s.pastCommit p i = false → ∀ j ∈ (t.core p).jobs, (j.q.via, j.q.seq) ≠ (i.via, i.seq)

/-- A command at `s` answers a next state, and that follows from `a`. -/
def gives (c : Instr) (s a : State) : Prop := ∃ t, exec c s = .next t ∧ Follows a t

/-! ## The register port -/

/-- Offsets at which a register write does more than set and clear the fields that the register holds: those of the rows with a name of
their own, and of blocks whose fields are units' state (R475, R477). -/
def ownEffect (p : Part) (o : Nat) : Bool :=
  (match p with
    | .spn => [(0x00A0, 0x00C0), (0x0100, 0x0104), (0x0400, 0x04C0), (0x0500, 0x0700), (0x0820, 0x0824), (0x0A08, 0x0A0C), (0x0A40, 0x0A80),
        (0x0C00, 0x0C04), (0x0D04, 0x0D08), (0x1000, 0x1004), (0x101C, 0x1020), (0x2000, 0x6000), (0x6800, 0x8B00), (0xC000, 0x1_0000)]
    | .crl => [(0x0108, 0x010C), (0x01C0, 0x01E0), (0x2000, 0x2004), (0x3000, 0x3140), (0x3440, 0x3460), (0x4300, 0x430C), (0x8000, 0x8400),
        (0x9000, 0x9B00), (0xA000, 0xA800), (0x1_0000, 0x1_2040)]).any (fun (r : Nat × Nat) => r.1 ≤ o && o < r.2)

/-! ## Host commands as their cores judge them (R445, R464) -/

/-- A host command: part, request, code, owning core, the row's payload, and the judgement that accepts it with its effect or refuses it. -/
structure Judged where
  p     : Part
  q     : Req
  code  : Nat
  core  : Nat
  pl    : Bytes
  judge : State → Bytes → Except Refuse (State → Effect)

/-- The host commands among the commands. -/
def judged : Instr → Option Judged
  | .mgmtHello p q pl => some ⟨p, q, 0x0001, 2, pl, judgeHello p⟩
  | .chanOpen p q pl => some ⟨p, q, 0x0002, 2, pl, judgeChanOpen p⟩
  | .chanClose p q pl => some ⟨p, q, 0x0003, 2, pl, judgeChanClose p q⟩
  | .fence p q pl => some ⟨p, q, 0x0004, 2, pl, judgeFence p q⟩
  | .cmdAbort p q pl => some ⟨p, q, 0x0005, 2, pl, judgeAbort p⟩
  | .coreRestart p q pl => some ⟨p, q, 0x0006, 0, pl, judgeCoreRestart p q⟩
  | .fwStage p q pl => some ⟨p, q, 0x0007, 0, pl, judgeFwStage p q⟩
  | .fwActivate p q pl => some ⟨p, q, 0x0008, 0, pl, judgeFwActivate p⟩
  | .fwWithdraw p q pl => some ⟨p, q, 0x0009, 0, pl, judgeFwWithdraw p⟩
  | .selfTest p q pl => some ⟨p, q, 0x000A, 2, pl, judgeSelfTest p q⟩
  | .zeroize p q pl => some ⟨p, q, 0x000B, 0, pl, judgeZeroize p q⟩
  | .debugUnlock p q pl => some ⟨p, q, 0x000C, 0, pl, judgeUnlock p⟩
  | .timeSet p q pl => some ⟨p, q, 0x0100, 2, pl, judgeTimeSetOn p q⟩
  | .timePhaseStep p q pl => some ⟨p, q, 0x0101, 2, pl, timeCmd p (judgePhaseStep q)⟩
  | .timeLeadSet p q pl => some ⟨p, q, 0x0102, 2, pl, timeCmd p judgeLeadSet⟩
  | .portRetrain p q pl => some ⟨p, q, 0x0200, (match p with | .spn => 2 | .crl => pccOf (rdLe pl 0 2)), pl, judgePortRetrain p⟩
  | .tiArm p q pl => some ⟨p, q, 0x0201, 2, pl, judgeTiArm p⟩
  | .tiCancel p q pl => some ⟨p, q, 0x0202, 2, pl, judgeTiCancel p⟩
  | .tiCal p q pl => some ⟨p, q, 0x0203, 2, pl, judgeTiCal p q⟩
  | .partitionCreate p q pl => some ⟨p, q, 0x0300, 2, pl, judgePartitionCreate p q⟩
  | .partitionTeardown p q pl => some ⟨p, q, 0x0301, 2, pl, judgePartitionTeardown p q⟩
  | .memberJoin p q pl => some ⟨p, q, 0x0302, 2, pl, judgeMemberJoin p⟩
  | .memberLeave p q pl => some ⟨p, q, 0x0303, 2, pl, judgeMemberLeave p⟩
  | .launchCommit p q pl => some ⟨p, q, 0x0304, 2, pl, judgeLaunchCommit p⟩
  | .launchWithdraw p q pl => some ⟨p, q, 0x0305, 2, pl, judgeLaunchWithdraw p⟩
  | .freqRequest p q pl => some ⟨p, q, 0x0306, 2, pl, judgeFreqRequest p q⟩
  | .ledgerRead p q pl => some ⟨p, q, 0x0307, 2, pl, judgeLedgerRead p⟩
  | .launchTableLoad p q pl => some ⟨p, q, 0x0308, 2, pl, judgeTableLoad p q⟩
  | .descWrite p q pl => some ⟨p, q, 0x0309, 2, pl, judgeDescWrite p⟩
  | .soMap p q pl => some ⟨p, q, 0x0400, 2, pl, judgeSoMap p⟩
  | .soMapBulk p q pl => some ⟨p, q, 0x0401, 2, pl, judgeSoMapBulk p q⟩
  | .soUnmap p q pl => some ⟨p, q, 0x0402, 2, pl, judgeSoUnmap p⟩
  | .soSignal p q pl => some ⟨p, q, 0x0403, 2, pl, judgeSoSignal p q⟩
  | .ctxSwitch p q pl => some ⟨p, q, 0x0404, 2, pl, judgeCtxSwitch p q⟩
  | .ctxReset p q pl => some ⟨p, q, 0x0405, 2, pl, judgeCtxReset p⟩
  | .skeinDump p q pl => some ⟨p, q, 0x0406, 2, pl, judgeSkeinDump p q⟩
  | .plyArm p q pl => some ⟨p, q, 0x0500, 2, pl, judgePlyArm p q⟩
  | .plyDisarm p q pl => some ⟨p, q, 0x0501, 2, pl, judgePlyDisarm p q⟩
  | .samplerBind p q pl => some ⟨p, q, 0x0502, 2, pl, judgeSamplerBind p q⟩
  | .outputCfg p q pl => some ⟨p, q, 0x0503, 2, pl, judgeOutputCfg p q⟩
  | .bobbinTest p q pl => some ⟨p, q, 0x0504, 2, pl, judgeBobbin p⟩
  | .planCfg p q pl => some ⟨p, q, 0x0600, 2, pl, judgePlanCfg p⟩
  | .reqSubmit p q pl => some ⟨p, q, 0x0601, 2, pl, judgeReqSubmit p⟩
  | .reqCancel p q pl => some ⟨p, q, 0x0602, 2, pl, judgeReqCancel p q⟩
  | .reqResume p q pl => some ⟨p, q, 0x0603, 2, pl, judgeReqResume p⟩
  | .reqQuery p q pl => some ⟨p, q, 0x0604, 2, pl, judgeReqQuery p⟩
  | .prefixInsert p q pl => some ⟨p, q, 0x0605, 2, pl, judgePrefixInsert p⟩
  | .prefixInsertBulk p q pl => some ⟨p, q, 0x0606, 2, pl, judgePrefixBulk p q⟩
  | .prefixRemove p q pl => some ⟨p, q, 0x0607, 2, pl, judgePrefixRemove p⟩
  | .adapterPublish p q pl => some ⟨p, q, 0x0608, 2, pl, judgeAdapterPublish p⟩
  | .adapterRebind p q pl => some ⟨p, q, 0x0609, 2, pl, judgeAdapterRebind p q⟩
  | .seedSet p q pl => some ⟨p, q, 0x0700, 2, pl, judgeSeedSet p⟩
  | .digestExpect p q pl => some ⟨p, q, 0x0701, 2, pl, judgeDigestExpect p q⟩
  | .whorlResume p q pl => some ⟨p, q, 0x0800, 1, pl, judgeWhorlResume p⟩
  | _ => none

/-- The payload a command is judged by (log entry 12). -/
def Judged.body (j : Judged) (s : State) : Bytes := s.payload j.p j.q j.code j.pl
/-- The state in which it is judged: its core has taken it. -/
def Judged.taken (j : Judged) (s : State) : State := takeCmd j.p j.q j.code j.core (j.body s) s
/-- The judgement, its bound counted (R445). -/
def Judged.verdict (j : Judged) (s : State) : Except Refuse (State → Effect) :=
  inTime j.p j.q j.code (j.taken s) (j.judge (j.taken s) (j.body s))
/-- The command names a place its part has, and its core is not down (R456). -/
def Judged.up (j : Judged) (s : State) : Bool := j.q.wf j.p && !coreDown j.p j.core s

/-- A host command that its core takes and accepts. -/
def accepts (c : Instr) (s : State) : Bool :=
  match judged c with
  | some j => j.up s && (j.verdict s).toBool
  | none => false

/-- The state in which a host command's core has taken it; of any other command, the state itself. -/
def takenBy (c : Instr) (s : State) : State :=
  match judged c with
  | some j => j.taken s
  | none => s

/-- A host command that its core has taken at `s` has the effect `f`, and completes at once with `OK` and the result `res`. -/
def answersOk (c : Instr) (s : State) (res : Bytes) (f : State → State) : Prop :=
  match judged c with
  | some j => gives c s (complete j.p j.q j.code j.core 0 0 res (f (j.taken s)))
  | none => False

/-- A host command that its core has taken at `s` has the effect `f`, and completes later. -/
def answersLater (c : Instr) (s : State) (f : State → State) : Prop := gives c s (f (takenBy c s))

/-- The payload a host command is judged by. -/
def bodyOf (c : Instr) (s : State) : Bytes :=
  match judged c with
  | some j => j.body s
  | none => []

end Sys2Proof.Machine
end

