-- ==== Sys2Proof/Certificates/Slice0/Obligations.lean ====
section
/-! DEFINITION. The statements for the provers: what each command does where it completes, where it does nothing, what it leaves alone, and
what every step keeps. A statement's clauses are named by the command they are about. -/

open Sys2Proof Sys2Proof.Machine

/-! ## The block as a whole -/

/-- A step takes the command at the front of the queue: it is what that command does with the queue's rest. With no command waiting one TICK passes,
which is the model's choice (log entry 3): both parts' counts move by 1, each engine of theirs with them, and the die drives the DTC it then has on the
cluster time bus. -/
def Obligations.StepRunsFront : Prop :=
(∀ (c : Instr) (rest : List Instr) (s : State), step { s with pending := c :: rest } = exec c { s with pending := rest }) ∧
  (∀ (s : State), s.pending = [] → step s = idle s) ∧
  (∀ (s : State), s.pending = [] → ∃ t, step s = .next t ∧ t.pending = [] ∧
    (∀ p, t.tick p = s.tick p + 1 ∧ (t.core p).time = (s.core p).time.advance) ∧
    t.spn.timeBus = ({ s with sc.time := s.sc.time.advance } : State).dtc)

/-- A command that names units its part has answers a next state, from every state, and leaves the queue of waiting commands alone; one that
names a unit the part has not is stopped, and changes nothing; no command is refused. That the last stops is the model's choice (log entry 119). -/
def Obligations.ExecAnswersWhatIsWellFormed : Prop :=
(∀ (c : Instr) (s : State), c.wellFormed = true → ∃ t, exec c s = .next t ∧ t.pending = s.pending) ∧
  (∀ (c : Instr) (s : State), c.wellFormed = false → exec c s = .fault .noSuchUnit)

/-- After every step, from whatever state, an interrupt vector that is pending is one that the host masks, it stands once among the pending ones, and
none is pending while PERST_N holds the PCIe function in reset (R491, R550). -/
def Obligations.StepsLeaveOnlyMaskedVectorsPending : Prop :=
∀ (s t : State), step s = .next t → t.PendingMasked ∧ t.crl.msixPend.Nodup ∧ (t.crl.pcieDown = true → t.crl.msixPend = [])

/-- What the spec gives at reset: ports DISABLED, GT not valid and TICK 0, TQ 0xFF, channels closed, DMA channels idle with three repetitions, debug
CLOSED, power RUN, boot not begun, T_RDY 2,000, no launch and no vector pending, and every counter of a port 0 (R47, R79, R94, R199, R450, R493, R517). -/
def Obligations.ResetHoldsWhatTheSpecGives : Prop :=
(∀ (p : Part) (n : Nat), (State.reset.port p n).state = .disabled) ∧
  (∀ (p : Part), State.reset.tick p = 0 ∧ (State.reset.core p).time.gtValid = false ∧ State.reset.tq p = 0xFF) ∧
  (∀ (p : Part) (ch : Nat), (State.reset.chan p ch).isOpen = false) ∧
  (∀ (p : Part) (c : Nat), (State.reset.dmaCh p c).busy = false ∧ (State.reset.dmaCh p c).retry = 3) ∧
  (∀ (p : Part), (State.reset.core p).sec.debug = 0 ∧ (State.reset.core p).sec.power = 0 ∧ (State.reset.core p).fw.bootStep = 0) ∧
  State.reset.spn.launch.trdy = 2000 ∧ State.reset.spn.launch.pend = [] ∧ State.reset.PendingMasked ∧
  (∀ (p : Part) (n k : Nat), n < p.ports → k ∈ [0x20, 0x24, 0x28, 0x2C, 0x30, 0x38] → State.reset.reg p (portBase p n + k) = 0)

/-- SPN_RING_DBn and CRL_RING_DBn: a write of the word at its offset is the doorbell of channel n, and the word reads 0 at reset. The doorbell gives the command ring
its new WRITE, and its TICK is noted for the bounds of the commands it posts; it is ignored, with DB_BAD, on a channel that is not open or is record-only, where the value lies more than SIZE slots
beyond READ, and where it lies behind the last WRITE accepted; a repeated value changes nothing (R486). -/
def Obligations.RingDoorbellRegisters : Prop :=
(∀ (n : Nat) (v : Word) (s : State), n < 16 →
    exec (.registerWrite .spn (0x0480 + 0x4 * n) 0xF v) s = exec (.ringDoorbell .spn n v) s ∧
      State.reset.readReg .spn (0x0480 + 0x4 * n) = 0) ∧
  (∀ (n : Nat) (v : Word) (s : State), n < 256 →
    exec (.registerWrite .crl (0x8000 + 0x4 * n) 0xF v) s = exec (.ringDoorbell .crl n v) s ∧
      State.reset.readReg .crl (0x8000 + 0x4 * n) = 0) ∧
  (∀ (p : Part) (n : Nat) (v : Word) (s : State) (ahead had : Nat), n < p.chans → ahead = (v.toNat + 2 ^ 32 - (s.chan p n).cmdRead) % 2 ^ 32 →
    had = ((s.chan p n).cmdWrite + 2 ^ 32 - (s.chan p n).cmdRead) % 2 ^ 32 →
    ((s.chan p n).isOpen = false ∨ (s.chan p n).cmdSize = 0 ∨ (s.chan p n).cmdSize < ahead ∨ ahead < had →
      ∃ t, exec (.ringDoorbell p n v) s = .next t ∧ (t.reg p (fwEvents p)).testBit 5 = true ∧ Follows (s.setEv p (fwEvents p) 5) t) ∧
    ((s.chan p n).isOpen = true → (s.chan p n).cmdSize ≠ 0 → ahead ≤ (s.chan p n).cmdSize → had ≤ ahead →
      gives (.ringDoorbell p n v) s (s.modChan p n (fun c => { c with
        cmdWrite := v.toNat, posts := if ahead = had then c.posts else c.posts ++ [(v.toNat, s.tick p)] })))) ∧
  (∀ (p : Part) (n : Nat) (v : Word) (s : State), n < p.chans → s.noWaits → (s.chan p n).isOpen = true → (s.chan p n).cmdSize ≠ 0 →
    ((s.chan p n).cmdWrite + 2 ^ 32 - (s.chan p n).cmdRead) % 2 ^ 32 ≤ (s.chan p n).cmdSize → v.toNat = (s.chan p n).cmdWrite →
    ∃ t, exec (.ringDoorbell p n v) s = .next t ∧ Elsewhere p s t ∧ ∀ ch, t.chan p ch = s.chan p ch)

/-- CRL offset 0x4_0000 + 4p shows the epoch table entry of partition ID p as it stands in the cycle of the read, that is, without what is written to the table
in that TICK, whatever command follows the read; a write there changes nothing (R495). -/
def Obligations.EpochTableView : Prop :=
(∀ (n ev : Nat) (c : Instr) (rest : List Instr) (s t : State), n < 0x1_0000 → t = { s with pending := c :: rest } →
    ∃ u, step { s with pending := .rcRegisterRead .crl (0x4_0000 + 0x4 * n) ev :: c :: rest } = .next u ∧
      u.cc.bus = BitVec.ofNat 32 (tget 0 s.epochView n) ∧ Follows { t with cc.bus := BitVec.ofNat 32 (tget 0 s.epochView n) } u) ∧
  (∀ (s : State), s.crl.epochsAt ≠ s.cc.time.tick → s.epochView = s.crl.epochs) ∧
  (∀ (part : Nat) (v : Option Nat) (s : State), (setEpoch part v s).epochView = s.epochView) ∧
  (∀ (n : Nat) (be : BitVec 4) (v : Word) (s : State), n < 0x1_0000 → gives (.registerWrite .crl (0x4_0000 + 0x4 * n) be v) s s)

/-! ## The register port -/

/-- REGISTER_WRITE of a register without a row of its own sets its RW fields and clears the W1C bits that are written 1 and that hardware
does not set in the same cycle; it leaves a register without such fields, and a reserved offset, and is ignored where it does not cover a
whole aligned word (R7, R8, R10, R474). At the offset of a row it is that row: captures, the bank's control and window, counters, outputs,
the ageing, interval inputs, the trace, EOI, mailbox doorbells, DMA and port control and channel 0, each by the bits written.
A read puts the register's value on the bus; an RC counter then holds what was counted in the same cycle, and any other
register stays (R7, R8). -/
def Obligations.RegisterWritesAndReads : Prop :=
(∀ (p : Part) (off : Nat) (v : Word) (s : State), off % 4 = 0 → ownEffect p off = false →
    ((regDef p off).rw ≠ 0 ∨ (regDef p off).w1c ≠ 0) →
    ∃ w, (∀ i, w.testBit i = if (regDef p off).rw.testBit i then v.toNat.testBit i
        else (s.reg p off).testBit i && !((regDef p off).w1c.testBit i && v.toNat.testBit i && !(s.justSet p off).testBit i)) ∧
      gives (.registerWrite p off 0xF v) s (s.setReg p off w)) ∧
  (∀ (p : Part) (off : Nat) (v : Word) (s : State), off % 4 = 0 → ownEffect p off = false → (regDef p off).rw = 0 → (regDef p off).w1c = 0 →
    gives (.registerWrite p off 0xF v) s s) ∧
  (∀ (v : Word) (s : State), gives (.registerWrite .spn 0x0044 0xF v) s (s.setReg .spn 0x0044 v.toNat)) ∧
  (∀ (v : Word) (s : State), gives (.registerWrite .crl 0x0104 0xF v) s (s.setReg .crl 0x0104 v.toNat)) ∧
  (∀ (p : Part) (off : Nat) (be : BitVec 4) (v : Word) (s : State), (be ≠ 0xF ∨ off % 4 ≠ 0) → gives (.registerWrite p off be v) s s) ∧
  (∀ (off : Nat) (v : Word) (s : State), 0x2_0000 ≤ off → off < 0x38_0000 → gives (.registerWrite .crl off 0xF v) s s) ∧
  (∀ (v : Word) (s : State), exec (.registerWrite .spn 0x0100 0xF v) s = exec (.tcapTrigWrite .spn v) s ∧
    exec (.registerWrite .crl 0x2000 0xF v) s = exec (.tcapTrigWrite .crl v) s ∧
    exec (.registerWrite .crl 0x300C 0xF v) s = exec (.refAgeingWrite v) s ∧
    exec (.registerWrite .crl 0x0108 0xF v) s = exec (.intEoi v) s) ∧
  (∀ (off : Nat) (v : Word) (s : State), (0xC000 ≤ off → off < 0x1_0000 → off % 4 = 0 →
      exec (.registerWrite .spn off 0xF v) s = exec (.bankWindowWrite off ⟨none, v⟩) s) ∧
    (off = 0x4300 ∨ off = 0x4304 ∨ off = 0x4308 → exec (.registerWrite .crl off 0xF v) s = exec (.traceBaseWrite off v) s)) ∧
  (∀ (v : Word) (s : State), (v.toNat.testBit 0 = true → exec (.registerWrite .spn 0x0820 0xF v) s = exec (.bankBegin ⟨none, v⟩) s) ∧
    (v.toNat.testBit 1 = true → exec (.registerWrite .spn 0x0820 0xF v) s = exec (.bankEnd ⟨none, v⟩) s) ∧
    (v.toNat.testBit 2 = true → exec (.registerWrite .spn 0x0820 0xF v) s = exec (.bankAbort ⟨none, v⟩) s) ∧
    (v.toNat.testBit 0 = true → exec (.registerWrite .spn 0x101C 0xF v) s = exec (.ndSnap v) s) ∧
    (v.toNat.testBit 1 = true → exec (.registerWrite .spn 0x101C 0xF v) s = exec (.ndClr v) s)) ∧
  (∀ (n : Nat) (v : Word) (s : State), (n < 4 → exec (.registerWrite .crl (0x3108 + 0x10 * n) 0xF v) s = exec (.outputOffsetHiWrite n v) s) ∧
    (n < 8 → exec (.registerWrite .crl (0x3440 + 4 * n) 0xF v) s = exec (.tiInputConfigWrite n v) s)) ∧
  (∀ (c : Nat) (v : Word) (s : State), v.toNat.testBit 0 = true →
    (c < 35 → exec (.registerWrite .spn (0x6880 + 0x100 * c) 0xF v) s = exec (.mbDoorbell .spn c v) s) ∧
    (c < 11 → exec (.registerWrite .crl (0x9080 + 0x100 * c) 0xF v) s = exec (.mbDoorbell .crl c v) s)) ∧
  (∀ (c : Nat) (v : Word) (s : State), (v.toNat.testBit 0 = true →
      (c < 8 → exec (.registerWrite .spn (0x0514 + 0x40 * c) 0xF v) s = exec (.dmaStart .spn c v) s) ∧
      (c < 32 → exec (.registerWrite .crl (0xA014 + 0x40 * c) 0xF v) s = exec (.dmaStart .crl c v) s)) ∧
    (v.toNat.testBit 1 = true →
      (c < 8 → exec (.registerWrite .spn (0x0514 + 0x40 * c) 0xF v) s = exec (.dmaAbort .spn c v) s) ∧
      (c < 32 → exec (.registerWrite .crl (0xA014 + 0x40 * c) 0xF v) s = exec (.dmaAbort .crl c v) s))) ∧
  (∀ (p : Part) (n : Nat) (v : Word) (s : State), n < p.ports →
    (v.toNat.testBit 0 = true → exec (.registerWrite p (portBase p n) 0xF v) s = exec (.portEnable p n v) s) ∧
    (v.toNat.testBit 0 = false → exec (.registerWrite p (portBase p n) 0xF v) s = exec (.portDisable p n v) s) ∧
    (v.toNat.testBit 1 = true → exec (.registerWrite p (portBase p n) 0xF v) s = exec (.portRetrainBit p n v) s) ∧
    (v.toNat.testBit 2 = true → exec (.registerWrite p (portBase p n) 0xF v) s = exec (.portClrQuar p n v) s)) ∧
  (∀ (p : Part) (v : Word) (s : State),
    (v.toNat.testBit 0 = true → exec (.registerWrite p (ch0Base p) 0xF v) s = exec (.ch0Open p v) s) ∧
    (v.toNat.testBit 0 = false → exec (.registerWrite p (ch0Base p) 0xF v) s = exec (.ch0Close p v) s)) ∧
(∀ (p : Part) (off ev : Nat) (s : State), (regDef p (off / 4 * 4)).rc ≠ 0 →
    gives (.rcRegisterRead p off ev) s
      ((s.modCore p (fun c => { c with bus := BitVec.ofNat 32 (s.readReg p (off / 4 * 4)) })).setReg p (off / 4 * 4) (min ev 0xFFFF_FFFF))) ∧
  (∀ (p : Part) (off ev : Nat) (s : State), (regDef p (off / 4 * 4)).rc = 0 →
    gives (.rcRegisterRead p off ev) s (s.modCore p (fun c => { c with bus := BitVec.ofNat 32 (s.readReg p (off / 4 * 4)) })))

/-- A write to TCAP_TRIG that names one slot outside its capture period takes one TICK edge into it: the DTC of the partition (the die's; on a
Creel the one the write names) with DTC_VALID, the GT of that DTC, TQ and the plane, and adds one to its SEQ; GT alone with DTC_VALID 0 where
the die serves no partition. A write at the same TICK joins that capture. Every other slot and unit stays (R39, R41 to R44). That GT is
taken at the edge of the DTC is the model's choice (log entry 135).
ND_SNAP copies the counters and counts the snapshot, ND_CLR clears them but for what is counted in the same cycle, SNAP before CLR (R8, R387, R403); a write to OUT_OFFSET_HI gives the
64-bit offset, clamped to half a second, to the next alignment instant (R153, R159); a write of the ageing ends learning (R143). -/
def Obligations.CapturesSnapshotsAndOffsets : Prop :=
(∀ (n k : Nat) (s : State), n < 4 → (s.sc.time.slot n).at_ = none → s.spnPart ≠ 0 →
    dtcOf (s.gt .spn) s.spn.banks.epochS s.spn.banks.dcor = some k →
    ∃ c : TCap, c.seq = ((s.sc.time.slot n).seq + 1) % 65536 ∧ c.gt = gtWord (gtOf k s.spn.banks.epochS s.spn.banks.dcor) (s.tq .spn) ∧
      c.plane = s.sc.time.track ∧ c.dtcValid = true ∧ c.dtc = BitVec.ofNat 64 k ∧ c.part = s.spnPart ∧ c.pepoch = s.spnPepoch ∧
      c.stepped = (s.sc.time.slot n).fresh ∧ c.at_ = some s.sc.time.tick ∧
      gives (.tcapTrigWrite .spn (BitVec.ofNat 32 (2 ^ n))) s (s.modTime .spn (fun x => x.setSlot n c))) ∧
  (∀ (n : Nat) (s : State), n < 4 → (s.sc.time.slot n).at_ = none → s.spnPart = 0 →
    ∃ c : TCap, c.seq = ((s.sc.time.slot n).seq + 1) % 65536 ∧ c.gt = gtWord (s.gt .spn) (s.tq .spn) ∧ c.dtcValid = false ∧ c.dtc = 0 ∧
      c.part = 0 ∧ c.stepped = (s.sc.time.slot n).fresh ∧ c.at_ = some s.sc.time.tick ∧
      gives (.tcapTrigWrite .spn (BitVec.ofNat 32 (2 ^ n))) s (s.modTime .spn (fun x => x.setSlot n c))) ∧
  (∀ (n part k epochS : Nat) (d : Int) (s : State), n < 4 → part ≠ 0 → part < 0xFFFF → (s.cc.time.slot n).at_ = none →
    tfind s.crl.held part = some (epochS, d) → dtcOf (s.gt .crl) epochS d = some k →
    ∃ c : TCap, c.seq = ((s.cc.time.slot n).seq + 1) % 65536 ∧ c.gt = gtWord (gtOf k epochS d) (s.tq .crl) ∧
      c.plane = s.cc.topo.plane ∧ c.dtcValid = true ∧ c.dtc = BitVec.ofNat 64 k ∧ c.part = part ∧ c.pepoch = tget 0 s.crl.epochs part ∧
      c.stepped = (s.cc.time.slot n).fresh ∧ c.at_ = some s.cc.time.tick ∧
      gives (.tcapTrigWrite .crl (BitVec.ofNat 32 (2 ^ n + 65536 * part))) s (s.modTime .crl (fun x => x.setSlot n c))) ∧
  (∀ (n : Nat) (s : State), n < 4 → (s.sc.time.slot n).at_ = some s.sc.time.tick →
    gives (.tcapTrigWrite .spn (BitVec.ofNat 32 (2 ^ n))) s s) ∧
  (∀ (p : Part) (v : Word) (s : State), v.toNat % 16 = 0 → gives (.tcapTrigWrite p v) s s) ∧
(∀ (v : Word) (s : State), v.toNat / 2 % 2 = 0 →
    gives (.ndSnap v) s { s with spn.det.ndSnap := s.spn.det.nd, spn.det.snapSeq := (s.spn.det.snapSeq + 1) % 65536 }) ∧
  (∀ (v : Word) (s : State) (l : Tbl Nat), l = (if s.spn.det.ndTick = s.sc.time.tick then s.spn.det.ndNow else []) →
    (v.toNat % 2 = 0 → gives (.ndClr v) s { s with spn.det.nd := l }) ∧
    (v.toNat % 2 = 1 → gives (.ndClr v) s { s with
      spn.det.ndSnap := s.spn.det.nd, spn.det.snapSeq := (s.spn.det.snapSeq + 1) % 65536, spn.det.nd := l }) ∧
    (v.toNat / 2 % 2 = 1 → gives (.ndSnap v) s { s with
      spn.det.ndSnap := s.spn.det.nd, spn.det.snapSeq := (s.spn.det.snapSeq + 1) % 65536, spn.det.nd := l })) ∧
  (∀ (m : Nat) (v : Word) (s : State), m < 4 →
    gives (.outputOffsetHiWrite m v) s ((s.setReg .crl (outOff m + 8) v.toNat).modOut m (fun o => { o with pendOff := some (s.cc.time.tick,
      max (-(500_000_000 * 65536)) (min (toSigned 64 (s.reg .crl (outOff m + 4) + 2 ^ 32 * v.toNat)) (500_000_000 * 65536))) }))) ∧
  (∀ (v : Word) (s : State), ∃ w, w.testBit 5 = false ∧ (∀ i, i ≠ 5 → w.testBit i = (s.reg .crl 0x3000).testBit i) ∧
    gives (.refAgeingWrite v) s ((s.setReg .crl 0x300C v.toNat).setReg .crl 0x3000 w))

/-- ENABLE written 1 takes a DISABLED port to DOWN, ENABLE written 0 takes a port to DISABLED, RETRAIN takes any port that is enabled to
DOWN with attempts 0, and CLR_QUAR takes a port from QUARANTINE to DOWN with attempts 0; the port's keys and queue are dropped and
no other port changes (R80, R90). Ports that are UP, and a Creel's parent port, tell their units as well and are not claimed here. -/
def Obligations.PortControlBitsMovePort : Prop :=
∀ (p : Part) (n : Nat) (v : Word) (s : State), n < p.ports → (s.port p n).state ≠ .up → (p = .crl → s.cc.time.engA.port ≠ some n) →
    ((s.port p n).state = .disabled → n ∉ (s.core p).topo.disabledPorts → v.toNat / 2 % 4 = 0 →
      ∃ t, exec (.portEnable p n v) s = .next t ∧ Elsewhere p s t ∧ (∀ m, m ≠ n → t.port p m = s.port p m) ∧
        t.port p n = { s.port p n with state := .down, since := s.tick p, tx := [], keys := {} }) ∧
    (∃ t, exec (.portDisable p n v) s = .next t ∧ Elsewhere p s t ∧ (∀ m, m ≠ n → t.port p m = s.port p m) ∧
        t.port p n = { s.port p n with state := .disabled, since := s.tick p, tx := [], keys := {} }) ∧
    ((s.port p n).state ≠ .disabled → v.toNat % 2 = 1 → v.toNat / 4 % 2 = 0 →
      ∃ t, exec (.portRetrainBit p n v) s = .next t ∧ Elsewhere p s t ∧ (∀ m, m ≠ n → t.port p m = s.port p m) ∧
        t.port p n = { s.port p n with state := .down, since := s.tick p, tx := [], keys := {}, attempts := 0 }) ∧
    ((s.port p n).state = .quarantine → v.toNat % 2 = 1 → v.toNat / 2 % 2 = 0 →
      ∃ t, exec (.portClrQuar p n v) s = .next t ∧ Elsewhere p s t ∧ (∀ m, m ≠ n → t.port p m = s.port p m) ∧
        t.port p n = { s.port p n with state := .down, since := s.tick p, tx := [], keys := {}, attempts := 0 })

/-- Every writer of the die scope has a staging of its own: the host (`none`), and each firmware core of the Spindle. BANK_BEGIN opens its
transaction where none is open; BANK_WINDOW_WRITE puts a word that the die scope owns into it, and is denied without one and for a word it
does not own; BANK_END closes it: outside the closed window its bytes enter the shadow bank, inside it they wait, and one that wrote a byte
twice is dropped with CONFLICT; BANK_ABORT drops it, and does nothing without one; BANK_END without one is denied (R192, R193, R210). -/
def Obligations.BankTransactionEntersWhole : Prop :=
(∀ (w : Option Nat) (v : Word) (s : State), w.all (· < 35) = true → s.spn.banks.staged w = none → v.toNat / 2 % 2 = 0 →
    gives (.bankBegin ⟨w, v⟩) s (stage w (some {}) (setBankCtl w (v.toNat &&& 0x70) s))) ∧
  (∀ (w : Option Nat) (v : Word) (s : State) (x : Txn), w.all (· < 35) = true → s.spn.banks.staged w = some x → v.toNat / 2 % 4 = 0 →
    gives (.bankBegin ⟨w, v⟩) s (setBankCtl w (v.toNat &&& 0x70) s)) ∧
  (∀ (w : Option Nat) (v : Word) (s : State) (x : Txn), w.all (· < 35) = true → s.spn.banks.staged w = some x → v.toNat % 2 = 0 →
    gives (.bankAbort ⟨w, v⟩) s (stage w none (setBankCtl w (v.toNat &&& 0x70) s))) ∧
  (∀ (w : Option Nat) (v : Word) (s : State), w.all (· < 35) = true → s.spn.banks.staged w = none → v.toNat % 2 = 0 →
    gives (.bankAbort ⟨w, v⟩) s (setBankCtl w (v.toNat &&& 0x70) s)) ∧
  (∀ (w : Option Nat) (v : Word) (s : State) (x : Txn), w.all (· < 35) = true → s.spn.banks.staged w = some x → x.conflict = false →
    v.toNat / 4 % 2 = 0 → v.toNat % 2 = 0 → s.bankClosed = false → (∀ y ∈ x.writes, y.1 ∉ s.spn.banks.touched) →
    ∃ a, a = stage w none (setBankCtl w (v.toNat &&& 0x70) s) ∧ gives (.bankEnd ⟨w, v⟩) s { a with
      spn.banks.pending := s.spn.banks.pending || w.isNone
      spn.banks.shadow := x.writes.foldl (fun m (y : Nat × Byte) => memPut m y.1 y.2) s.spn.banks.shadow
      spn.banks.touched := (s.spn.banks.touched ++ x.writes.map (fun (y : Nat × Byte) => y.1)).eraseDups }) ∧
  (∀ (w : Option Nat) (v : Word) (s : State) (x : Txn), w.all (· < 35) = true → s.spn.banks.staged w = some x → x.conflict = false →
    v.toNat / 4 % 2 = 0 → v.toNat % 2 = 0 → s.bankClosed = true →
    ∃ a, a = stage w none (setBankCtl w (v.toNat &&& 0x70) s) ∧ gives (.bankEnd ⟨w, v⟩) s { a with
      spn.banks.pending := s.spn.banks.pending || w.isNone
      spn.banks.heldTxns := s.spn.banks.heldTxns ++ [x.writes] }) ∧
  (∀ (w : Option Nat) (v : Word) (s : State) (x : Txn), w.all (· < 35) = true → s.spn.banks.staged w = some x → x.conflict = true →
    v.toNat / 4 % 2 = 0 → v.toNat % 2 = 0 →
    gives (.bankEnd ⟨w, v⟩) s ((stage w none (setBankCtl w (v.toNat &&& 0x70) s)).setEv .spn 0x0824 1)) ∧
  (∀ (w : Option Nat) (v : Word) (s : State), w.all (· < 35) = true → s.spn.banks.staged w = none → v.toNat / 4 % 2 = 0 → v.toNat % 2 = 0 →
    gives (.bankEnd ⟨w, v⟩) s ((setBankCtl w (v.toNat &&& 0x70) s).setEv .spn 0x0824 2)) ∧
  (∀ (w : Option Nat) (off at_ : Nat) (v : Word) (s : State) (x : Txn), w.all (· < 35) = true → 0xC000 ≤ off → off < 0x1_0000 → off % 4 = 0 →
    s.spn.banks.staged w = some x → (s.bankCtl w).testBit 6 = false → at_ = 0x4000 * (s.bankCtl w / 16 % 4) + (off - 0xC000) →
    0x20 ≤ at_ → at_ < 0x920 →
    ∃ ws : List (Nat × Byte), ws = (List.range 4).map (fun i => (at_ + i, BitVec.ofNat 8 (v.toNat / 2 ^ (8 * i)))) ∧
      gives (.bankWindowWrite off ⟨w, v⟩) s (stage w (some {
        writes := x.writes ++ ws, conflict := x.conflict || ws.any (fun y => x.writes.any (fun z => z.1 = y.1)) }) s)) ∧
  (∀ (w : Option Nat) (off : Nat) (v : Word) (s : State), w.all (· < 35) = true → 0xC000 ≤ off → off < 0x1_0000 → off % 4 = 0 →
    (s.spn.banks.staged w = none ∨ (s.bankCtl w).testBit 6 = true) → gives (.bankWindowWrite off ⟨w, v⟩) s (s.setEv .spn 0x0824 2)) ∧
  (∀ (w : Option Nat) (off at_ : Nat) (v : Word) (s : State) (x : Txn), w.all (· < 35) = true → 0xC000 ≤ off → off < 0x1_0000 → off % 4 = 0 →
    s.spn.banks.staged w = some x → (s.bankCtl w).testBit 6 = false → at_ = 0x4000 * (s.bankCtl w / 16 % 4) + (off - 0xC000) →
    (at_ < 0x20 ∨ 0x920 ≤ at_) → gives (.bankWindowWrite off ⟨w, v⟩) s (stage w (some x) (s.setEv .spn 0x0824 2)))

/-- TRACE_BASE_WRITE takes an aligned base or size and makes the unit start a new buffer, and ignores one that is not aligned (R402; log entry 39);
TI_INPUT_CONFIG_WRITE is ignored while the reference unit owns the input; else THRESH is clamped, and a change of THRESH, SLOPE or TERM settles within 10 µs (R161, R180); INT_EOI of a vector
that is still asserted and not masked sends a further message, and of one that is not asserted does nothing (R491). -/
def Obligations.TraceInputAndEoiWrites : Prop :=
(∀ (v : Word) (s : State), v.toNat % 64 = 0 → gives (.traceBaseWrite 0x4300 v) s { s.setReg .crl 0x4300 v.toNat with crl.traceNew := true }) ∧
  (∀ (v : Word) (s : State), gives (.traceBaseWrite 0x4304 v) s { s.setReg .crl 0x4304 v.toNat with crl.traceNew := true }) ∧
  (∀ (v : Word) (s : State), v.toNat % 4096 = 0 → gives (.traceBaseWrite 0x4308 v) s { s.setReg .crl 0x4308 v.toNat with crl.traceNew := true }) ∧
  (∀ (v : Word) (s : State), v.toNat % 64 ≠ 0 → gives (.traceBaseWrite 0x4300 v) s s) ∧
  (∀ (v : Word) (s : State), v.toNat % 4096 ≠ 0 → gives (.traceBaseWrite 0x4308 v) s s) ∧
  (∀ (n : Nat) (v : Word) (s : State), n < 8 → s.tiOwned n = true → gives (.tiInputConfigWrite n v) s s) ∧
  (∀ (n w : Nat) (v : Word) (s : State), n < 8 → s.tiOwned n = false → w = (v.toNat &&& 0xFFFF_3C00) + clampThresh v.toNat →
    (s.reg .crl (tiInOff n) % 4096 ≠ w % 4096 →
      gives (.tiInputConfigWrite n v) s ((s.setReg .crl (tiInOff n) w).modTi n (fun i => { i with settleAt := some (s.cc.time.tick + 10_000) }))) ∧
    (s.reg .crl (tiInOff n) % 4096 = w % 4096 → gives (.tiInputConfigWrite n v) s (s.setReg .crl (tiInOff n) w))) ∧
  (∀ (v : Word) (s : State), v.toNat % 512 ∉ s.vectors .crl → gives (.intEoi v) s s) ∧
  (∀ (v : Word) (s : State), v.toNat % 512 ∈ s.vectors .crl → s.masked (v.toNat % 512) = false → s.crl.msixPend = [] → s.crl.pcieDown = false →
    ∃ t, exec (.intEoi v) s = .next t ∧ (s.crl.msix ++ [v.toNat % 512]) <+: t.crl.msix ∧ Follows s t)

/-! ## Mailboxes, channels, DMA, the ring engine -/

/-- MB_DOORBELL latches the message, answers BUSY and hands the command to its core with the TICK of the doorbell, or completes it with the
status of the entry check that fails; while one is unanswered it is ignored and MB_OVERRUN shows (R439, R442, R484).
The ring engine takes the entry at READ of an open channel that has completion room, counts READ and the expected sequence number,
and hands the command to its core (R446). A slice counts the items of a class B command, or ends it ABORTED at its boundary (R449).
An entry out of sequence completes with its refusal; without an entry, or while the completion ring lacks room, nothing is taken.
Room that returns lets the stored records in while they fit, a LOSS entry first; with the last the episode ends, and the bounds of the commands
posted meanwhile are extended by it (R444). -/
def Obligations.MailboxesAndTheRingEngineHandOn : Prop :=
(∀ (p : Part) (core : Nat) (v : Word) (s : State) (e pl : Bytes), core < p.cores → (s.mboxOf p core).busy = false →
    e = padTo 64 (s.mboxOf p core).msg → (entryPayload p true e s).toOption = some pl → coreDown p (owningCore p (rdLe e 0 2) pl) s = false →
    gives (.mbDoorbell p core v) s ((s.modMbox p core (fun m => { m with latched := padTo 64 m.msg, busy := true, rdy := false })).modCore p (fun c => { c with
      inflight := c.inflight ++ [{
        via := .mbox core, seq := rdLe e 4 4, key := rdLe e 8 8, code := rdLe e 0 2,
        core := owningCore p (rdLe e 0 2) pl, relaxed := (rdLe e 2 1).testBit 1, notify := (rdLe e 2 1).testBit 2, payload := pl
        posted := some (s.tick p) }] }))) ∧
  (∀ (p : Part) (core : Nat) (v : Word) (s : State) (e : Bytes) (x : Refuse), core < p.cores → (s.mboxOf p core).busy = false →
    e = padTo 64 (s.mboxOf p core).msg → entryPayload p true e s = .error x →
    gives (.mbDoorbell p core v) s (complete p (reqOf (.mbox core) e) (rdLe e 0 2) (owningCore p (rdLe e 0 2) []) x.1 x.2 []
      (s.modMbox p core (fun m => { m with latched := padTo 64 m.msg, busy := true, rdy := false })))) ∧
  (∀ (p : Part) (core : Nat) (v : Word) (s : State), core < p.cores → (s.mboxOf p core).busy = true →
    gives (.mbDoorbell p core v) s ((s.modMbox p core (fun m => { m with overrun := true })).noteEv p (mbFlagsOff p core) 4)) ∧
(∀ (p : Part) (ch : Nat) (s : State) (c : Chan) (e pl : Bytes) (read : Nat) (a : State), ch < p.chans → c = s.chan p ch →
    c.isOpen = true → c.cmdSize ≠ 0 → c.cmdRead ≠ c.cmdWrite → c.full = false → c.room p 1 s = true → (c.stale = false ∨ ch = 0) →
    e = s.rd p (c.cmdBase + 64 + 64 * (c.cmdRead % c.cmdSize)) 64 → mustWait p ch (reqOf (.ring ch) e) s = false →
    rdLe e 4 4 = c.nextSeq → (c.recent.all (fun r => r.1 ≠ rdLe e 8 8)) = true → ((rdLe e 2 1).testBit 1 = false ∨ s.featureOn p 0 = true) →
    read = (c.cmdRead + 1) % 2 ^ 32 → a = s.wr p (c.cmdBase + 8) (le 4 read) → (entryPayload p false e a).toOption = some pl →
    coreDown p (owningCore p (rdLe e 0 2) pl) s = false →
    gives (.ringEntryDispatch p ch) s (((a.modChan p ch (fun y => { y with cmdRead := read, posts := c.posts.filter (fun d => d.1 ≠ read) })).modChan p ch (fun x => { x with
        nextSeq := (x.nextSeq + 1) % 2 ^ 32 })).modCore p (fun k => { k with
      inflight := k.inflight ++ [{
        via := .ring ch, seq := rdLe e 4 4, key := rdLe e 8 8, code := rdLe e 0 2,
        core := owningCore p (rdLe e 0 2) pl, relaxed := (rdLe e 2 1).testBit 1, notify := (rdLe e 2 1).testBit 2, payload := pl
        posted := (c.posts.find? (fun d => (d.1 + 2 ^ 32 - c.cmdRead) % 2 ^ 32 ≠ 0)).map (fun d => d.2) }] }))) ∧
  (∀ (p : Part) (ch : Nat) (s : State) (c : Chan) (e : Bytes) (read : Nat), ch < p.chans → c = s.chan p ch →
    c.isOpen = true → c.cmdSize ≠ 0 → c.cmdRead ≠ c.cmdWrite → c.full = false → c.room p 1 s = true →
    e = s.rd p (c.cmdBase + 64 + 64 * (c.cmdRead % c.cmdSize)) 64 → mustWait p ch (reqOf (.ring ch) e) s = false →
    rdLe e 4 4 ≠ c.nextSeq → read = (c.cmdRead + 1) % 2 ^ 32 →
    gives (.ringEntryDispatch p ch) s (complete p (reqOf (.ring ch) e) (rdLe e 0 2) (owningCore p (rdLe e 0 2) []) 0x0102 0 []
      ((s.wr p (c.cmdBase + 8) (le 4 read)).modChan p ch (fun y => { y with cmdRead := read, posts := c.posts.filter (fun d => d.1 ≠ read) })))) ∧
  (∀ (p : Part) (ch : Nat) (s : State), ch < p.chans →
    ((s.chan p ch).isOpen = false ∨ (s.chan p ch).cmdSize = 0 ∨ (s.chan p ch).cmdRead = (s.chan p ch).cmdWrite ∨ (s.chan p ch).full = true) →
    gives (.ringEntryDispatch p ch) s s) ∧
  (∀ (p : Part) (ch seq n : Nat) (s : State) (b : BJob), ch < p.chans → s.jobOf p ch seq = some b → coreDown p b.core s = false →
    b.ends s = false → b.code ∉ [0x0606, 0x0406, 0x0300, 0x0301, 0x000A] → b.done + n < b.total →
    gives (.classBSlice p ch seq n) s (keepJob p { b with done := b.done + n } s)) ∧
  (∀ (p : Part) (ch seq n : Nat) (s : State) (b : BJob), ch < p.chans → s.jobOf p ch seq = some b → coreDown p b.core s = false →
    b.aborting = true → b.code = 0x0007 →
    gives (.classBSlice p ch seq n) s (complete p b.q b.code b.core 2 0 [] (dropJob p b s))) ∧
  (∀ (p : Part) (ch : Nat) (s : State), ch < p.chans → (s.chan p ch).isOpen = true → (s.chan p ch).full = true →
    (s.chan p ch).room p 1 s = true → (s.chan p ch).lost = 0 →
    gives (.completionRoomReturn p ch) s (drainStore p ch (s.chan p ch).store s)) ∧
  (∀ (p : Part) (ch : Nat) (s : State), ch < p.chans → (s.chan p ch).isOpen = true → (s.chan p ch).full = true →
    (s.chan p ch).room p 1 s = true → (s.chan p ch).lost ≠ 0 →
    gives (.completionRoomReturn p ch) s (drainStore p ch (s.chan p ch).store
      ((ringWrite p ch (padTo 64 (lay [(1, 0x71), (3, 0), (4, (s.chan p ch).lost), (1, (s.chan p ch).lostType)])) true s).modChan p ch (fun c => { c with
        lost := 0, lostType := 0xFF })))) ∧
  (∀ (p : Part) (ch : Nat) (s : State), (drainStore p ch [] s).chan p ch = { s.chan p ch with
    store := [], full := false
    posts := (s.chan p ch).posts.map (fun e => (e.1, e.2 + (s.tick p - max e.2 (s.chan p ch).fullAt))) })

/-- CH0_OPEN opens channel 0 over the rings that its registers name, with sequence number 0, or is ignored with DB_BAD where a ring is not
legal, and calls off a close that waits where it is open; CH0_CLOSE closes it at once where none of its commands is left, else when they have completed (R485). -/
def Obligations.ChannelZeroOpensAndCloses : Prop :=
(∀ (p : Part) (v : Word) (s : State), (s.chan p 0).isOpen = false → s.noWaits →
    ringOk p (ch0Pair p 0x04 s) (s.reg p (ch0Base p + 0x0C)) = true → ringOk p (ch0Pair p 0x10 s) (s.reg p (ch0Base p + 0x18)) = true →
    ∃ t, exec (.ch0Open p v) s = .next t ∧ (t.chan p 0).isOpen = true ∧ (t.chan p 0).nextSeq = 0 ∧
      (t.chan p 0).cmdBase = ch0Pair p 0x04 s ∧ (t.chan p 0).cmdSize = s.reg p (ch0Base p + 0x0C) ∧
      (t.chan p 0).cplBase = ch0Pair p 0x10 s ∧ (t.chan p 0).cplSize = s.reg p (ch0Base p + 0x18) ∧
      Follows ((s.setReg p (ch0Base p) (v.toNat &&& (regDef p (ch0Base p)).rw)).modChan p 0 (fun _ => t.chan p 0)) t) ∧
  (∀ (p : Part) (v : Word) (s : State), (s.chan p 0).isOpen = false →
    (ringOk p (ch0Pair p 0x04 s) (s.reg p (ch0Base p + 0x0C)) = false ∨ ringOk p (ch0Pair p 0x10 s) (s.reg p (ch0Base p + 0x18)) = false) →
    gives (.ch0Open p v) s ((s.setReg p (ch0Base p) (v.toNat &&& (regDef p (ch0Base p)).rw)).setEv p (fwEvents p) 5)) ∧
  (∀ (p : Part) (v : Word) (s : State), (s.chan p 0).isOpen = true →
    gives (.ch0Open p v) s ((s.setReg p (ch0Base p) (v.toNat &&& (regDef p (ch0Base p)).rw)).modChan p 0 (fun c => { c with closing := false }))) ∧
  (∀ (p : Part) (v : Word) (s : State), s.noWaits → (s.chan p 0).isOpen = true → s.chanIdle p 0 = true →
    ∃ t, exec (.ch0Close p v) s = .next t ∧ Elsewhere p s t ∧ (t.chan p 0).isOpen = false ∧ (t.core p).inflight = (s.core p).inflight) ∧
  (∀ (p : Part) (v : Word) (s : State), s.noWaits → (s.chan p 0).isOpen = true → s.chanIdle p 0 = false →
    ∃ t, exec (.ch0Close p v) s = .next t ∧ Elsewhere p s t ∧ t.chan p 0 = { s.chan p 0 with closing := true } ∧ (t.core p).inflight = (s.core p).inflight)

/-- START on an idle channel takes the fields of the write and makes the channel BUSY, or DONE at once for a count of 0, or gives FAULT =
INVALID; it goes on with a halted transfer, and is ignored while BUSY; ABORT stops a halted or paused channel, and makes a running one stop at
its next unit (R450 to R452, R493). -/
def Obligations.DmaStartsAndAborts : Prop :=
(∀ (p : Part) (c : Nat) (v : Word) (s : State) (d : Dma), c < p.dmas → (s.dmaCh p c).busy = false → (s.dmaCh p c).halted = false →
    v.toNat / 2 % 2 = 0 → d = dmaCtrlFields p v.toNat (s.dmaCh p c) → dmaInvalid p d s = false → d.count ≠ 0 →
    gives (.dmaStart p c v) s ((s.modDma p c (dmaCtrlFields p v.toNat)).modDma p c (fun y => { y with
      busy := true, fault := 0, tries := 0, failTick := none, msg := none, abortDue := false, paused := y.pace && y.high ≤ ringFill p y s }))) ∧
  (∀ (p : Part) (c : Nat) (v : Word) (s : State) (d : Dma), c < p.dmas → (s.dmaCh p c).busy = false → (s.dmaCh p c).halted = false →
    v.toNat / 2 % 2 = 0 → d = dmaCtrlFields p v.toNat (s.dmaCh p c) → dmaInvalid p d s = false → d.count = 0 →
    gives (.dmaStart p c v) s (((s.modDma p c (dmaCtrlFields p v.toNat)).modDma p c (fun y => { y with fault := 0, done := true })).noteEv p
      (dmaStatOff p c) 8)) ∧
  (∀ (p : Part) (c : Nat) (v : Word) (s : State) (d : Dma), c < p.dmas → (s.dmaCh p c).busy = false → (s.dmaCh p c).halted = false →
    v.toNat / 2 % 2 = 0 → d = dmaCtrlFields p v.toNat (s.dmaCh p c) → dmaInvalid p d s = true →
    gives (.dmaStart p c v) s ((s.modDma p c (dmaCtrlFields p v.toNat)).modDma p c (fun y => { y with fault := 1 }))) ∧
  (∀ (p : Part) (c : Nat) (v : Word) (s : State), c < p.dmas → (s.dmaCh p c).busy = true → v.toNat / 2 % 2 = 0 → gives (.dmaStart p c v) s s) ∧
  (∀ (p : Part) (c : Nat) (v : Word) (s : State), c < p.dmas → (s.dmaCh p c).busy = false → (s.dmaCh p c).halted = true → v.toNat / 2 % 2 = 0 →
    gives (.dmaStart p c v) s (s.modDma p c (fun d => { d with halted := false, busy := true, fault := 0, tries := 0, failTick := none }))) ∧
  (∀ (p : Part) (c : Nat) (v : Word) (s : State), c < p.dmas → (s.dmaCh p c).halted = false → (s.dmaCh p c).busy = true →
    (s.dmaCh p c).paused = true → gives (.dmaAbort p c v) s ((s.noteEv p (dmaStatOff p c) 16).modDma p c (fun d => { d with
      busy := false, paused := false, halted := false, aborted := true, abortDue := false, msg := none, failTick := none }))) ∧
  (∀ (p : Part) (c : Nat) (v : Word) (s : State), c < p.dmas → (s.dmaCh p c).halted = true →
    gives (.dmaAbort p c v) s ((s.noteEv p (dmaStatOff p c) 16).modDma p c (fun d => { d with
      busy := false, paused := false, halted := false, aborted := true, abortDue := false, msg := none, failTick := none }))) ∧
  (∀ (p : Part) (c : Nat) (v : Word) (s : State), c < p.dmas → (s.dmaCh p c).halted = false → (s.dmaCh p c).busy = true →
    (s.dmaCh p c).paused = false → gives (.dmaAbort p c v) s (s.modDma p c (fun d => { d with abortDue := true })))

/-! ## Host commands

Each statement is over every state and payload at which the command's core accepts it (`accepts`); `b` is the payload it is
judged by.
-/

/-- The owning core takes a command, notes the TICK of acceptance and judges it. A refusal completes with its status and detail and has
no other effect; a core that restarts refuses every command, naming the µs left (R445, R456, R466). -/
def Obligations.HostCommandRefusedWithoutEffect : Prop :=
(∀ (c : Instr) (j : Judged) (s : State) (r : Refuse), judged c = some j → j.up s = true → j.verdict s = .error r →
    gives c s (complete j.p j.q j.code j.core r.1 r.2 [] (j.taken s))) ∧
  (∀ (c : Instr) (j : Judged) (s : State) (e : Nat), judged c = some j → j.q.wf j.p = true → (s.fwCore j.p j.core).down = some e →
    gives c s (complete j.p j.q j.code j.core 0x0100 (ceilDiv (e - s.tick j.p) 1000) [] (j.taken s))) ∧
  (∀ (j : Judged) (s : State), ∃ i ∈ ((j.taken s).core j.p).inflight, i.via = j.q.via ∧ i.seq = j.q.seq ∧ i.taken = true ∧
    i.acc = max (s.tick j.p) (tget 0 (s.core j.p).lastTick j.core))

/-- `MGMT_HELLO` puts the features that both sides have in use (R454); `CHAN_OPEN` opens a channel over its rings (R441); `CMD_ABORT` marks the
class B command it names, and answers 0 for one that cannot be ended (R449); `FW_WITHDRAW` withdraws the scheduled activation (R459).
`CHAN_CLOSE` closes a channel that has no command left, and else waits for its commands (R441); `FENCE` completes at once where it has
nothing to wait for, and else waits for the commands of its channels that were accepted before it (R448). -/
def Obligations.ManagementCommandsTakeEffect : Prop :=
(∀ (p : Part) (q : Req) (pl : Bytes) (s : State) (c : Instr) (b : Bytes), c = .mgmtHello p q pl → accepts c s = true → b = bodyOf c s →
    answersOk c s (lay [(1, (s.core p).fw.major), (1, (s.core p).fw.minor), (2, (s.core p).fw.patch), (4, (s.core p).fw.features),
      (4, rdLe b 0 4 &&& (s.core p).fw.features)])
      (fun a => a.modCore p (fun x => { x with fw := { x.fw with inUse := some (rdLe b 0 4 &&& x.fw.features) } }))) ∧
  (∀ (p : Part) (q : Req) (pl : Bytes) (s : State) (c : Instr) (b : Bytes) (read : Nat), c = .chanOpen p q pl → accepts c s = true →
    b = bodyOf c s → read = (if rdLe b 16 4 = 0 then 0 else rdLe (s.rd p (rdLe b 8 8 + 8) 4) 0 4) →
    answersOk c s [] (fun a => a.modChan p (rdLe b 0 2) (fun x => { x with
      isOpen := true, cmdBase := rdLe b 8 8, cmdSize := rdLe b 16 4, cplBase := rdLe b 24 8, cplSize := rdLe b 32 4, vector := rdLe b 4 2
      nextSeq := rdLe b 20 4, cmdRead := read, cmdWrite := read, posts := [], cplWrite := rdLe (s.rd p (rdLe b 24 8) 4) 0 4, recent := []
      closing := false, stale := false }))) ∧
  (∀ (p : Part) (q : Req) (pl : Bytes) (s : State) (c : Instr) (b : Bytes) (x : BJob), c = .cmdAbort p q pl → accepts c s = true →
    b = bodyOf c s → x ∈ (s.core p).jobs → x.q.via = .ring (rdLe b 0 2) → x.q.seq = rdLe b 4 4 →
    answersOk c s (lay [(4, 1)]) (fun a => a.modCore p (fun k => { k with
      jobs := k.jobs.map (fun y => if y.q.via = .ring (rdLe b 0 2) && y.q.seq = rdLe b 4 4 then { y with aborting := true } else y) }))) ∧
  (∀ (p : Part) (q : Req) (pl : Bytes) (s : State) (c : Instr) (b : Bytes), c = .cmdAbort p q pl → accepts c s = true → b = bodyOf c s →
    (∀ x ∈ (s.core p).jobs, ¬ (x.q.via = .ring (rdLe b 0 2) ∧ x.q.seq = rdLe b 4 4)) → answersOk c s (lay [(4, 0)]) (fun a => a)) ∧
  (∀ (p : Part) (q : Req) (pl : Bytes) (s : State) (c : Instr), c = .fwWithdraw p q pl → accepts c s = true → (s.core p).fw.act = none →
    answersOk c s (lay [(4, 0)]) (fun a => a)) ∧
  (∀ (p : Part) (q : Req) (pl : Bytes) (s : State) (c : Instr) (x : Activation), c = .fwWithdraw p q pl → accepts c s = true →
    (s.core p).fw.act = some x →
    ∃ t, exec c s = .next t ∧ Elsewhere p s t ∧ (t.core p).fw = { (s.core p).fw with act := none } ∧ (t.reg p (fwEvents p)).testBit 6 = true) ∧
(∀ (p : Part) (q : Req) (pl : Bytes) (s : State) (c : Instr) (b : Bytes), c = .chanClose p q pl → accepts c s = true → b = bodyOf c s →
    s.noWaits → s.chanIdle p (rdLe b 0 2) = true → ∃ t, exec c s = .next t ∧ Elsewhere p s t ∧ (t.chan p (rdLe b 0 2)).isOpen = false) ∧
  (∀ (p : Part) (q : Req) (pl : Bytes) (s : State) (c : Instr) (b : Bytes), c = .chanClose p q pl → accepts c s = true → b = bodyOf c s →
    s.noWaits → ((takenBy c s).chanIdle p (rdLe b 0 2)) = false →
    ∃ t, exec c s = .next t ∧ Elsewhere p s t ∧ t.chan p (rdLe b 0 2) = s.chan p (rdLe b 0 2) ∧
      (t.core p).waiting = [{ q := q, code := 0x0003, core := 2, on := [], close := some (rdLe b 0 2) }]) ∧
  (∀ (p : Part) (q : Req) (pl : Bytes) (s : State) (c : Instr), c = .fence p q pl → accepts c s = true → (s.core p).inflight = [] →
    answersOk c s [] (fun a => a)) ∧
  (∀ (p : Part) (q : Req) (pl : Bytes) (s : State) (c : Instr) (b : Bytes) (i : Inflight) (ch : Nat), c = .fence p q pl →
    accepts c s = true → b = bodyOf c s → s.noWaits → i ∈ (s.core p).inflight → i.taken = true → i.via = .ring ch → i.seq ≠ q.seq →
    (rdLe b 0 (match p with | .spn => 2 | .crl => 32)).testBit ch = true →
    ∃ t on, exec c s = .next t ∧ Elsewhere p s t ∧ (i.via, i.seq) ∈ on ∧ (t.core p).waiting = [{ q := q, code := 0x0004, core := 2, on := on }] ∧
      ∀ e ∈ on, e ≠ (q.via, q.seq))

/-- `CORE_RESTART` takes the core down for 3 ms, ends the class B work that it had accepted and that has not reached its commit point, and
sets CORE_RESTARTED (R455, R456); `FW_STAGE`, `SELF_TEST` and `ZEROIZE` begin work of class B (R449, R457, R515); `FW_ACTIVATE` schedules the
cores of its mask in the order of R458, deferred in an emergency (R459); `DEBUG_UNLOCK` answers OK at the level in force, a fresh challenge
where the level needs a token and none is named, opens a level that needs none or whose token is good, and refuses a bad token with its
cause (R512 to R514). -/
def Obligations.FirmwareAndDebugCommandsTakeEffect : Prop :=
(∀ (p : Part) (q : Req) (pl : Bytes) (s : State) (c : Instr) (n : Nat), c = .coreRestart p q pl → accepts c s = true →
    n = rdLe (bodyOf c s) 0 1 → (n ≠ 1 ∨ s.emergency p = false) →
    ∃ t, exec c s = .next t ∧ EndsWork p n (some q) s t ∧ t.fwCore p n = { s.fwCore p n with
        running := false, down := some (s.tick p + 3_000_000), wdHeld := false, restartQ := some q } ∧
      (t.reg p (fwEvents p)).testBit 1 = true) ∧
  (∀ (p : Part) (q : Req) (pl : Bytes) (s : State) (c : Instr) (b : Bytes), c = .fwStage p q pl → accepts c s = true → b = bodyOf c s →
    answersLater c s (addJob p { q := q, code := 0x0007, core := 0, args := [rdLe b 0 8, rdLe b 8 4], total := max 1 (ceilDiv (rdLe b 8 4) 4096) })) ∧
  (∀ (p : Part) (q : Req) (pl : Bytes) (s : State) (c : Instr) (l : List Nat) (em : Bool), c = .fwActivate p q pl → accepts c s = true →
    l = activationOrder p (rdLe (bodyOf c s) 0 8) → em = s.emergency p →
    ∃ minor, gives c s (complete p q 0x0008 0 (if em then 3 else 0) 0 (lay [(4, l.length)]) ((takenBy c s).modCore p (fun x => { x with
      fw := { x.fw with act := if l = [] then none else some { todo := l, deferred := em, minor := minor } } })))) ∧
  (∀ (p : Part) (q : Req) (pl : Bytes) (s : State) (c : Instr), c = .selfTest p q pl → accepts c s = true →
    ∃ t j, exec c s = .next t ∧ Elsewhere p s t ∧ s.cc.jobs ++ [j] = t.cc.jobs ∧ j.q = q ∧ j.code = 0x000A ∧ j.core = 2) ∧
  (∀ (p : Part) (q : Req) (pl : Bytes) (s : State) (c : Instr), c = .zeroize p q pl → accepts c s = true →
    answersLater c s (fun a => addJob p { q := q, code := 0x000B, core := 0, args := [], total := 1 }
      (a.modCore p (fun x => { x with sec := { x.sec with zeroizing := true } })))) ∧
  (∀ (p : Part) (q : Req) (pl : Bytes) (s : State) (c : Instr) (b : Bytes), c = .debugUnlock p q pl → accepts c s = true → b = bodyOf c s →
    rdLe b 0 1 ≠ (s.core p).sec.debug → rdLe b 16 4 = 0 → needsToken (s.core p).sec.lifecycle (rdLe b 0 1) = true →
    ∃ ch : Bytes, ch.length = 32 ∧ answersOk c s ch (fun a => a.modCore p (fun x => { x with
      sec := { x.sec with challenge := some (ch, x.time.tick), draws := x.sec.draws + 1 } }))) ∧
  (∀ (p : Part) (q : Req) (pl : Bytes) (s : State) (c : Instr), c = .debugUnlock p q pl → accepts c s = true →
    rdLe (bodyOf c s) 0 1 = (s.core p).sec.debug → answersOk c s [] (fun a => a)) ∧
  (∀ (p : Part) (q : Req) (pl : Bytes) (s : State) (c : Instr) (b : Bytes) (level : Nat), c = .debugUnlock p q pl → accepts c s = true →
    b = bodyOf c s → level = rdLe b 0 1 → level ≠ (s.core p).sec.debug →
    (needsToken (s.core p).sec.lifecycle level = false ∨
      (rdLe b 16 4 ≠ 0 ∧ tokenFault p level (s.rd p (rdLe b 8 8) (rdLe b 16 4)) (takenBy c s) = none)) →
    ∃ t, exec c s = .next t ∧ Elsewhere p s t ∧ (t.core p).sec.debug = level ∧ (t.core p).sec.challenge = none ∧
      (t.reg p (secEvents p)).testBit 1 = true ∧ (level = 2 → (t.core p).sec.untrusted = true ∧ (t.core p).sec.identity = none)) ∧
  (∀ (p : Part) (q : Req) (pl : Bytes) (s : State) (c : Instr) (b : Bytes) (level cause : Nat), c = .debugUnlock p q pl → accepts c s = true →
    b = bodyOf c s → level = rdLe b 0 1 → level ≠ (s.core p).sec.debug → needsToken (s.core p).sec.lifecycle level = true → rdLe b 16 4 ≠ 0 →
    tokenFault p level (s.rd p (rdLe b 8 8) (rdLe b 16 4)) (takenBy c s) = some cause →
    gives c s (complete p q 0x000C 0 0x0202 cause [] (((takenBy c s).modCore p (fun x => { x with
      sec := { x.sec with challenge := none } })).setEv p (secEvents p) 4)))

/-- `TIME_SET` and a phase step by jump are issued as the root's one step, at the first second 10 ms or more ahead (R48, R149), numbered after
the last that this root issued or its GT holds, whichever is later (R119); a slew replaces the one under way (R148); `TIME_LEAD_SET`
sets the lead change (R118); `PORT_RETRAIN` takes a port that is not DISABLED to DOWN with its keys erased and attempts 0, and leaves a
DISABLED one (R80, R83).
`TI_ARM` adds its job (R165); `TI_CANCEL` marks the jobs of its tag and no other, which end with this TICK (R167); `TI_CAL` begins a
calibration of the 17 channels in slices (R172). -/
def Obligations.TimeAndIntervalCommandsTakeEffect : Prop :=
(∀ (p : Part) (q : Req) (pl : Bytes) (s : State) (c : Instr) (b : Bytes) (num : Nat), c = .timeSet p q pl → accepts c s = true → b = bodyOf c s →
    num = ((if (s.crl.ref.stepNo + 2 ^ 32 - s.cc.time.stepNo) % 2 ^ 32 < 2 ^ 31 then s.crl.ref.stepNo else s.cc.time.stepNo) + 1) % 2 ^ 32 →
    ∃ t, exec c s = .next t ∧ Elsewhere p s t ∧ t.crl.ref.step = some {
        step := {
          sec := gtSec (s.gt .crl + 655_360_000_000 + unitsPerSec - 1), num := num
          amt := (rdLe b 0 8 : Int) * 65_536_000_000_000 + (rdLe b 8 4 : Int) * 65536 - s.gt .crl }
        q := some q, code := 0x0100, issued := s.cc.time.tick } ∧ t.crl.ref.stepNo = num ∧ t.crl.ref.setStep = true) ∧
  (∀ (p : Part) (q : Req) (pl : Bytes) (s : State) (c : Instr) (b : Bytes) (num : Nat), c = .timePhaseStep p q pl → accepts c s = true →
    b = bodyOf c s → rdLe b 0 1 = 0 →
    num = ((if (s.crl.ref.stepNo + 2 ^ 32 - s.cc.time.stepNo) % 2 ^ 32 < 2 ^ 31 then s.crl.ref.stepNo else s.cc.time.stepNo) + 1) % 2 ^ 32 →
    ∃ t, exec c s = .next t ∧ Elsewhere p s t ∧ t.crl.ref.step = some {
        step := { sec := gtSec (s.gt .crl + 655_360_000_000 + unitsPerSec - 1), amt := toSigned 64 (rdLe b 8 8), num := num }
        q := some q, code := 0x0101, issued := s.cc.time.tick } ∧ t.crl.ref.stepNo = num) ∧
  (∀ (p : Part) (q : Req) (pl : Bytes) (s : State) (c : Instr) (b : Bytes), c = .timePhaseStep p q pl → accepts c s = true → b = bodyOf c s →
    rdLe b 0 1 = 1 →
    answersOk c s [] (fun a => { a with crl.ref.slew := if toSigned 64 (rdLe b 8 8) = 0 then none else some (toSigned 64 (rdLe b 8 8)) })) ∧
  (∀ (p : Part) (q : Req) (pl : Bytes) (s : State) (c : Instr) (b : Bytes), c = .timeLeadSet p q pl → accepts c s = true → b = bodyOf c s →
    ∃ t, exec c s = .next t ∧ Elsewhere p s t ∧ t.cc.time = { s.cc.time with leadChange := some (rdLe b 0 8, otherPlane s.cc.topo.plane) }) ∧
  (∀ (p : Part) (q : Req) (pl : Bytes) (s : State) (c : Instr) (n : Nat), c = .portRetrain p q pl → accepts c s = true → n = rdLe (bodyOf c s) 0 2 →
    (s.port p n).state ≠ .disabled → (s.port p n).state ≠ .up → (p = .crl → s.cc.time.engA.port ≠ some n) →
    ∃ t, exec c s = .next t ∧ Elsewhere p s t ∧ (∀ m, m ≠ n → t.port p m = s.port p m) ∧
      t.port p n = { s.port p n with state := .down, since := s.tick p, tx := [], keys := {}, attempts := 0 }) ∧
  (∀ (p : Part) (q : Req) (pl : Bytes) (s : State) (c : Instr) (n : Nat), c = .portRetrain p q pl → accepts c s = true → n = rdLe (bodyOf c s) 0 2 →
    (s.port p n).state ≠ .disabled →
    ∃ t, exec c s = .next t ∧ Elsewhere p s t ∧ (t.port p n).state = .down ∧ (t.port p n).keys = {} ∧ (t.port p n).attempts = 0) ∧
  (∀ (p : Part) (q : Req) (pl : Bytes) (s : State) (c : Instr), c = .portRetrain p q pl → accepts c s = true →
    (s.port p (rdLe (bodyOf c s) 0 2)).state = .disabled → answersOk c s [] (fun a => a)) ∧
(∀ (p : Part) (q : Req) (pl : Bytes) (s : State) (c : Instr) (b : Bytes), c = .tiArm p q pl → accepts c s = true → b = bodyOf c s →
    answersOk c s [] (fun a => { a with crl.ti.jobs := a.crl.ti.jobs ++ [{
      tag := rdLe b 0 2, start := rdLe b 2 2, timeout := rdLe b 8 3, armTo := rdLe b 12 2, armed := s.cc.time.tick
      stops := (List.range (min (rdLe b 4 1) 8)).map (fun i => { src := rdLe b (16 + 5 * i) 2, delay := rdLe b (18 + 5 * i) 3 }) }] })) ∧
  (∀ (p : Part) (q : Req) (pl : Bytes) (s : State) (c : Instr) (tag : Nat), c = .tiCancel p q pl → accepts c s = true →
    tag = rdLe (bodyOf c s) 0 2 →
    answersOk c s [] (fun a => { a with
      crl.ti.jobs := a.crl.ti.jobs.map (fun j => if j.tag = tag then { j with cancelled := true } else j) })) ∧
  (∀ (p : Part) (q : Req) (pl : Bytes) (s : State) (c : Instr), c = .tiCal p q pl → accepts c s = true →
    answersLater c s (addJob .crl { q := q, code := 0x0203, core := 2, args := [], total := 17 }))

/-- `PARTITION_CREATE` makes the ID live with the next epoch (R28); `PARTITION_TEARDOWN` marks it leaving; `MEMBER_JOIN` and `MEMBER_LEAVE` set the dies that
join and leave at the doff of the launch they name (R26, R27); `FREQ_REQUEST` holds the host's ceiling (R228); `LEDGER_READ` writes 256
bytes (R539). -/
def Obligations.PartitionCommandsTakeEffect : Prop :=
(∀ (p : Part) (q : Req) (pl : Bytes) (s : State) (c : Instr) (b : Bytes), c = .partitionCreate p q pl → accepts c s = true → b = bodyOf c s →
    ∃ t e, exec c s = .next t ∧
      ((∀ k < rdLe b 40 4, rdLe (s.rd .crl (rdLe b 32 8) (4 * rdLe b 40 4)) (4 * k) 4 ≠ s.hea .spn) → ∀ r, r ≠ p → Kept r s t) ∧
      tfind t.crl.registry (rdLe b 0 2) = some e ∧ e.live = true ∧ e.root = rdLe b 4 4 ∧
      e.lastEpoch = (((tfind s.crl.registry (rdLe b 0 2)).map (·.lastEpoch)).getD 0) + 1 ∧ (∃ j ∈ t.cc.jobs, j.q = q ∧ j.code = 0x0300)) ∧
  (∀ (p : Part) (q : Req) (pl : Bytes) (s : State) (c : Instr) (b : Bytes) (e : RegEntry), c = .partitionTeardown p q pl → accepts c s = true →
    b = bodyOf c s → tfind s.crl.registry (rdLe b 0 2) = some e →
    ∃ t, exec c s = .next t ∧ (∀ r, r ≠ p → Kept r s t) ∧ tfind t.crl.registry (rdLe b 0 2) = some { e with leaving := true, draining := true } ∧
      (∃ j ∈ t.cc.jobs, j.q = q ∧ j.code = 0x0301)) ∧
  (∀ (p : Part) (q : Req) (pl : Bytes) (s : State) (c : Instr) (b : Bytes) (r : PRoot) (i : Nat), c = .memberJoin p q pl → accepts c s = true →
    b = bodyOf c s → s.proot (rdLe b 0 2) = some r → i < rdLe b 16 4 →
    ∃ t r', exec c s = .next t ∧
      ((∀ k < rdLe b 16 4, rdLe (s.rd .crl (rdLe b 8 8) (8 * rdLe b 16 4)) (8 * k) 4 ≠ s.hea .spn) → Elsewhere p s t) ∧
      t.proot (rdLe b 0 2) = some r' ∧ ∃ m ∈ r'.members,
      m.hea = rdLe (s.rd .crl (rdLe b 8 8) (8 * rdLe b 16 4)) (8 * i) 4 ∧ m.rank = rdLe (s.rd .crl (rdLe b 8 8) (8 * rdLe b 16 4)) (8 * i + 4) 4 ∧
      m.joinC = some (rdLe b 4 4)) ∧
  (∀ (p : Part) (q : Req) (pl : Bytes) (s : State) (c : Instr) (b : Bytes) (r : PRoot) (i : Nat), c = .memberLeave p q pl → accepts c s = true →
    b = bodyOf c s → s.proot (rdLe b 0 2) = some r → i < rdLe b 16 4 →
    ∃ t r', exec c s = .next t ∧ Elsewhere p s t ∧ t.proot (rdLe b 0 2) = some r' ∧ ∀ m ∈ r'.members,
      m.hea = rdLe (s.rd .crl (rdLe b 8 8) (4 * rdLe b 16 4)) (4 * i) 4 → m.leaveC = some (rdLe b 4 4)) ∧
  (∀ (p : Part) (q : Req) (pl : Bytes) (s : State) (c : Instr) (b : Bytes) (r : PRoot), c = .freqRequest p q pl → accepts c s = true →
    b = bodyOf c s → s.proot (rdLe b 0 2) = some r →
    ∃ t r', exec c s = .next t ∧ Elsewhere p s t ∧ t.proot (rdLe b 0 2) = some r' ∧ r'.freq.host = rdLe b 2 1) ∧
  (∀ (p : Part) (q : Req) (pl : Bytes) (s : State) (c : Instr) (b : Bytes) (r : PRoot), c = .ledgerRead p q pl → accepts c s = true →
    b = bodyOf c s → s.proot (rdLe b 0 2) = some r →
    answersOk c s (le 4 256) (fun a => a.wr .crl (rdLe b 8 8) ((r.ledgerNow (s.crlDtc (rdLe b 0 2))).bytes (rdLe b 0 2) r.epoch (s.crlDtc (rdLe b 0 2)))))

/-- `LAUNCH_COMMIT` adds a pending launch with the next commit number (R186), `LAUNCH_WITHDRAW` takes one off (R188); `LAUNCH_TABLE_LOAD` and
`DIGEST_EXPECT` begin to load their lists (R183, R401); `DESC_WRITE` writes one descriptor (R184); `SEED_SET` waits for its doff (R389);
`WHORL_RESUME` ends a trip that is in force, and else changes nothing (R422). -/
def Obligations.LaunchCommandsTakeEffect : Prop :=
(∀ (p : Part) (q : Req) (pl : Bytes) (s : State) (c : Instr) (b : Bytes) (r : PRoot), c = .launchCommit p q pl → accepts c s = true →
    b = bodyOf c s → s.proot (rdLe b 0 2) = some r →
    ∃ t r', exec c s = .next t ∧ Elsewhere p s t ∧ t.proot (rdLe b 0 2) = some r' ∧ r'.launch.commitNo = (r.launch.commitNo + 1) % 2 ^ 32 ∧
      ∃ x ∈ r'.launch.pend, x.l = rdLe b 8 8 + 1000 * r.launch.stagger ∧ x.idx = rdLe b 2 2 ∧ x.c = r'.launch.commitNo) ∧
  (∀ (p : Part) (q : Req) (pl : Bytes) (s : State) (c : Instr) (b : Bytes) (r : PRoot) (x : RPend), c = .launchWithdraw p q pl →
    accepts c s = true → b = bodyOf c s → s.proot (rdLe b 0 2) = some r → r.launch.pend.find? (fun y => y.l = rdLe b 8 8) = some x →
    ∃ t r', exec c s = .next t ∧ Elsewhere p s t ∧ t.proot (rdLe b 0 2) = some r' ∧ r'.launch.pend = r.launch.pend.filter (fun y => y.c ≠ x.c) ∧
      r'.launch.withdrawn = r.launch.withdrawn ++ [x.c]) ∧
  (∀ (p : Part) (q : Req) (pl : Bytes) (s : State) (c : Instr), c = .launchTableLoad p q pl → accepts c s = true →
    ∃ j, j.q = q ∧ j.code = 0x0308 ∧ j.staged = s.rd .spn (rdLe (bodyOf c s) 0 8) (rdLe (bodyOf c s) 8 4) ∧ answersLater c s (addJob .spn j)) ∧
  (∀ (p : Part) (q : Req) (pl : Bytes) (s : State) (c : Instr) (b : Bytes), c = .descWrite p q pl → accepts c s = true → b = bodyOf c s →
    answersOk c s [] (fun a => { a with
      spn.launch.table := tput a.spn.launch.table (rdLe b 0 2) (descOf (imageDesc (s.rd .spn (rdLe b 8 8) (rdLe b 16 4)) (rdLe b 2 2))) })) ∧
  (∀ (p : Part) (q : Req) (pl : Bytes) (s : State) (c : Instr) (b : Bytes), c = .seedSet p q pl → accepts c s = true → b = bodyOf c s →
    answersOk c s [] (fun a => { a with spn.det.seedPend := a.spn.det.seedPend ++ [{
      target := rdLe b 4 4
      pairs := (List.range (min (rdLe b 0 1) 8)).map (fun i => (rdLe b (8 + 16 * i) 1, rdLe b (16 + 16 * i) 8)) }] })) ∧
  (∀ (p : Part) (q : Req) (pl : Bytes) (s : State) (c : Instr) (b : Bytes), c = .digestExpect p q pl → accepts c s = true → b = bodyOf c s →
    ∃ j, j.q = q ∧ j.code = 0x0701 ∧ j.total = rdLe b 16 4 ∧ j.staged = s.rd p (rdLe b 8 8) (expectSize p * rdLe b 16 4) ∧
      answersLater c s (addJob p j)) ∧
  (∀ (p : Part) (q : Req) (pl : Bytes) (s : State) (c : Instr), c = .whorlResume p q pl → accepts c s = true → s.crl.whorl.tripped = true →
    ∃ t, exec c s = .next t ∧ Elsewhere p s t ∧ t.crl.whorl = { s.crl.whorl with tripped := false, tripConf := false }) ∧
  (∀ (p : Part) (q : Req) (pl : Bytes) (s : State) (c : Instr), c = .whorlResume p q pl → accepts c s = true → s.crl.whorl.tripped = false →
    answersOk c s [] (fun a => a))

/-- `SO_MAP` makes an object and its translation in the lowest free entries, or one more translation of the object it shares (R243);
`SO_UNMAP` of a last translation without waits, of an object that no accepted bulk map shares, frees both (R244); `SO_SIGNAL` puts its
operation in the object's bank queue, which holds 64, or behind it (R238, R247, R470); `CTX_RESET` orphans the context's objects (R263);
`SO_MAP_BULK`, `CTX_SWITCH` and `SKEIN_DUMP` begin work of class B (R242, R264, R265). -/
def Obligations.SyncCommandsTakeEffect : Prop :=
(∀ (p : Part) (q : Req) (pl : Bytes) (s : State) (c : Instr) (b : Bytes) (m : Mapping) (pid : Nat), c = .soMap p q pl → accepts c s = true →
    b = bodyOf c s → rdLe b 0 1 = 1 → m = mappingAt b 8 → m.share = false → pid = lowestFree s.spn.sync.objs 0 →
    answersOk c s (lay [(2, pid)]) (fun a => { a with
      spn.sync.objs := tput a.spn.sync.objs pid {
        typ := m.typ, control := m.control, realign := m.realign, ownerCtx := m.ctx, owner := m.owner, value := m.value, base := m.value % 2 ^ 32, lastProd := hostSrc, lastCons := hostSrc }
      spn.sync.xlat := tput a.spn.sync.xlat (lowestFree a.spn.sync.xlat 0) { ctx := m.ctx, vid := m.vid, pid := pid } })) ∧
  (∀ (p : Part) (q : Req) (pl : Bytes) (s : State) (c : Instr) (b : Bytes) (m : Mapping), c = .soMap p q pl → accepts c s = true →
    b = bodyOf c s → rdLe b 0 1 = 1 → m = mappingAt b 8 → m.share = true →
    ∃ t pid, exec c s = .next t ∧ Elsewhere p s t ∧ s.xlatPid m.ofCtx m.ofVid = some pid ∧ t.spn.sync.objs = s.spn.sync.objs ∧
      tfind t.spn.sync.xlat (lowestFree s.spn.sync.xlat 0) = some { ctx := m.ctx, vid := m.vid, pid := pid, shared := true }) ∧
  (∀ (p : Part) (q : Req) (pl : Bytes) (s : State) (c : Instr) (b : Bytes) (list : Bytes) (n : Nat), c = .soMapBulk p q pl →
    accepts c s = true → b = bodyOf c s → n = rdLe b 8 4 → list = s.rd p (rdLe b 0 8) (24 * n) →
    answersLater c s (addJob p {
      q := q, code := 0x0401, core := 2, total := n, staged := list
      args := [rdLe b 0 8, n] ++ ((List.range n).map (fun i => mappingAt list (24 * i))).filterMap (fun m => m.source s) })) ∧
  (∀ (p : Part) (q : Req) (pl : Bytes) (s : State) (c : Instr) (b : Bytes) (idx : Nat) (x : Xlat), c = .soUnmap p q pl → accepts c s = true →
    b = bodyOf c s → s.xlatFind (bits (rdLe b 0 4) 20 6) (bits (rdLe b 0 4) 0 20) = some (idx, x) → s.waitersOf x.pid = [] →
    (tdel s.spn.sync.xlat idx).any (fun e => e.2.pid = x.pid) = false → s.heldShares.contains x.pid = false →
    answersOk c s (lay [(2, 0)]) (fun a => { a with
      spn.sync.xlat := tdel a.spn.sync.xlat idx, spn.sync.objs := tdel a.spn.sync.objs x.pid
      spn.sync.joins := a.spn.sync.joins.filter (fun j => !(j.home.isNone && j.pid = x.pid)) })) ∧
  (∀ (p : Part) (q : Req) (pl : Bytes) (s : State) (c : Instr) (b : Bytes) (op : QOp), c = .soSignal p q pl → accepts c s = true →
    b = bodyOf c s → op = {
      pid := 0, ctx := bits (rdLe b 0 4) 20 6, vid := bits (rdLe b 0 4) 0 20, op := rdLe b 4 1, arg := rdLe b 6 2, operand := rdLe b 8 8, src := hostSrc, core := 0xFFFF, cmd := some q } → (takeSignal op true s).2 = none →
    ∃ t pid, exec c s = .next t ∧ Elsewhere p s t ∧ s.xlatPid op.ctx op.vid = some pid ∧
      (if (tget [] s.spn.sync.queues (pid % 16)).length < 64 then
        tget [] t.spn.sync.queues (pid % 16) = tget [] s.spn.sync.queues (pid % 16) ++ [{ op with pid := pid }]
      else tget [] t.spn.sync.stalled (pid % 16) = tget [] s.spn.sync.stalled (pid % 16) ++ [{ op with pid := pid }])) ∧
  (∀ (p : Part) (q : Req) (pl : Bytes) (s : State) (c : Instr) (b : Bytes), c = .ctxSwitch p q pl → accepts c s = true → b = bodyOf c s →
    ∃ n, answersLater c s (addJob p {
      q := q, code := 0x0404, core := 2, args := [rdLe b 0 1, rdLe b 1 1, rdLe b 8 8, rdLe b 16 8, rdLe b 24 8], total := n })) ∧
  (∀ (p : Part) (q : Req) (pl : Bytes) (s : State) (c : Instr) (pid : Nat) (o : Obj), c = .ctxReset p q pl → accepts c s = true →
    s.obj pid = some o → o.ownerCtx = rdLe (bodyOf c s) 0 1 → o.orphaned = false →
    ∃ t o', exec c s = .next t ∧ Elsewhere p s t ∧ t.obj pid = some o' ∧ o'.orphaned = true ∧
      ((∀ k, tget [] s.spn.sync.queues k = []) → o'.value = o.value)) ∧
  (∀ (p : Part) (q : Req) (pl : Bytes) (s : State) (c : Instr) (b : Bytes), c = .skeinDump p q pl → accepts c s = true → b = bodyOf c s →
    answersLater c s (fun a => addJob p {
      q := q, code := 0x0406, core := 2, args := [rdLe b 0 8, rdLe b 8 1, (s.stampOf .spn s.spnPart).1], total := skeinRecords }
      { a with spn.sync.dumping := true, spn.sync.frozen := rdLe b 8 1 = 1, spn.sync.slices := 0 }))

/-- `PLY_ARM`, `PLY_DISARM`, `SAMPLER_BIND` and `OUTPUT_CFG` put their change in a transaction of the partition (R194, R300, R345); `PLAN_CFG` sets what the
next planning pass takes (R357); `BOBBIN_TEST` answers the generator's words (R391). -/
def Obligations.PlyAndOutputCommandsTakeEffect : Prop :=
(∀ (p : Part) (q : Req) (pl : Bytes) (s : State) (c : Instr) (b : Bytes) (r : PRoot), c = .plyArm p q pl → accepts c s = true → b = bodyOf c s →
    s.proot (rdLe b 0 2) = some r →
    ∃ t r' x g, exec c s = .next t ∧ Elsewhere p s t ∧ t.proot (rdLe b 0 2) = some r' ∧ r'.txns = r.txns ++ [x] ∧ RAct.group (rdLe b 2 1) (some g) ∈ x.acts ∧
      g.op = rdLe b 3 1 ∧ g.fmt = rdLe b 4 1 ∧ g.outFmt = rdLe b 5 1 ∧ g.length = rdLe b 6 1) ∧
  (∀ (p : Part) (q : Req) (pl : Bytes) (s : State) (c : Instr) (b : Bytes) (r : PRoot), c = .plyDisarm p q pl → accepts c s = true →
    b = bodyOf c s → s.proot (rdLe b 0 2) = some r →
    ∃ t r' x, exec c s = .next t ∧ Elsewhere p s t ∧ t.proot (rdLe b 0 2) = some r' ∧ r'.txns = r.txns ++ [x] ∧
      ((tfind r.groupsAll (rdLe b 2 1)).isSome = true → x.acts = [RAct.group (rdLe b 2 1) none]) ∧
      ((tfind r.groupsAll (rdLe b 2 1)).isSome = false → x.cells = [(none, bankGroups + 32 * rdLe b 2 1 + 2, [0])])) ∧
  (∀ (p : Part) (q : Req) (pl : Bytes) (s : State) (c : Instr) (b : Bytes) (r : PRoot), c = .samplerBind p q pl → accepts c s = true →
    b = bodyOf c s → s.proot (rdLe b 0 2) = some r →
    ∃ t r' x, exec c s = .next t ∧ Elsewhere p s t ∧ t.proot (rdLe b 0 2) = some r' ∧ r'.txns = r.txns ++ [x] ∧
      x.bank = byteWrites (0x10 * rdLe b 2 1) (bindingOf ((b.drop 4).take 16)).bytes) ∧
  (∀ (p : Part) (q : Req) (pl : Bytes) (s : State) (c : Instr) (b : Bytes) (r : PRoot), c = .outputCfg p q pl → accepts c s = true →
    b = bodyOf c s → s.proot (rdLe b 0 2) = some r →
    ∃ t r' x, exec c s = .next t ∧ Elsewhere p s t ∧ t.proot (rdLe b 0 2) = some r' ∧ r'.txns = r.txns ++ [x] ∧ x.acts = [RAct.rings (rdLe b 2 2) (rdLe b 4 2)]) ∧
  (∀ (p : Part) (q : Req) (pl : Bytes) (s : State) (c : Instr) (b : Bytes), c = .bobbinTest p q pl → accepts c s = true → b = bodyOf c s →
    answersOk c s (bobbin (rdLe b 0 8) (rdLe b 8 4) (rdLe b 12 8) (rdLe b 20 4)) (fun a => a)) ∧
  (∀ (p : Part) (q : Req) (pl : Bytes) (s : State) (c : Instr) (b : Bytes), c = .planCfg p q pl → accepts c s = true → b = bodyOf c s →
    answersOk c s [] (fun a => a.modRoot (rdLe b 0 2) (fun r => { r with planNew := some (cfgOf b) })))

/-- `REQ_SUBMIT` makes a QUEUED entry with the next submission number (R351, R355); `REQ_CANCEL` frees a QUEUED or MOVING request and makes any
other leave (R353, R354); `REQ_RESUME` lets a MOVING one go on (R371); `REQ_QUERY` writes the entry's 128 bytes (R351); the prefix commands insert
and remove nodes, with the status of an insertion that stops short (R363, R366); `ADAPTER_PUBLISH` makes an epoch current and the one
before it retiring, `ADAPTER_REBIND` waits for the next pass (R372 to R375). -/
def Obligations.RequestCommandsTakeEffect : Prop :=
(∀ (p : Part) (q : Req) (pl : Bytes) (s : State) (c : Instr) (b : Bytes), c = .reqSubmit p q pl → accepts c s = true → b = bodyOf c s →
    ∃ t idx e, exec c s = .next t ∧ (∀ r, r ≠ p → Kept r s t) ∧ tfind t.crl.planner.reqs idx = some e ∧ e.id = rdLe b 4 4 ∧ e.state = .queued ∧
      e.part = rdLe b 0 2 ∧ e.seq = s.crl.planner.seq ∧ t.crl.planner.seq = (s.crl.planner.seq + 1) % 2 ^ 32) ∧
  (∀ (p : Part) (q : Req) (pl : Bytes) (s : State) (c : Instr) (b : Bytes) (idx : Nat) (e : ReqEnt), c = .reqCancel p q pl → accepts c s = true →
    b = bodyOf c s → s.reqById (rdLe b 0 2) (rdLe b 4 4) = some (idx, e) → tfind s.crl.planner.reqs idx = some e →
    (e.state = .queued ∨ e.state = .moving) →
    ∃ t, exec c s = .next t ∧ (∀ r, r ≠ p → Kept r s t) ∧ tfind t.crl.planner.reqs idx = none) ∧
  (∀ (p : Part) (q : Req) (pl : Bytes) (s : State) (c : Instr) (b : Bytes) (idx : Nat) (e : ReqEnt), c = .reqCancel p q pl → accepts c s = true →
    b = bodyOf c s → s.reqById (rdLe b 0 2) (rdLe b 4 4) = some (idx, e) → tfind s.crl.planner.reqs idx = some e →
    e.state ≠ .queued → e.state ≠ .moving →
    ∃ t e', exec c s = .next t ∧ (∀ r, r ≠ p → Kept r s t) ∧ tfind t.crl.planner.reqs idx = some e' ∧ e'.state = .leaving ∧ e'.cancel = true ∧ e'.id = e.id) ∧
  (∀ (p : Part) (q : Req) (pl : Bytes) (s : State) (c : Instr) (b : Bytes) (idx : Nat) (e : ReqEnt), c = .reqResume p q pl → accepts c s = true →
    b = bodyOf c s → s.reqById (rdLe b 0 2) (rdLe b 4 4) = some (idx, e) → tfind s.crl.planner.reqs idx = some e →
    answersOk c s (le 4 0) (fun a => { a with crl.planner.reqs := tput a.crl.planner.reqs idx { e with resumed := true } })) ∧
  (∀ (p : Part) (q : Req) (pl : Bytes) (s : State) (c : Instr) (b : Bytes) (idx : Nat) (e : ReqEnt), c = .reqQuery p q pl → accepts c s = true →
    b = bodyOf c s → s.reqById (rdLe b 0 2) (rdLe b 4 4) = some (idx, e) →
    answersOk c s (lay [(4, idx), (4, e.gen)]) (fun a => a.draw.2.wr .crl (rdLe b 8 8) (e.bytes (a.draw.1 % 2 ^ 32)))) ∧
  (∀ (p : Part) (q : Req) (pl : Bytes) (s : State) (c : Instr) (b : Bytes) (ins : State → State × Nat × InsEnd), c = .prefixInsert p q pl →
    accepts c s = true → b = bodyOf c s → ins = insertFor (rdLe b 0 4) (rdLe b 4 4) (rdLe b 8 4) (rdLe b 12 4) → (ins (takenBy c s)).2.2 = .ok →
    answersOk c s (le 4 (ins (takenBy c s)).2.1) (fun a => (ins a).1)) ∧
  (∀ (p : Part) (q : Req) (pl : Bytes) (s : State) (c : Instr) (b : Bytes) (x : State × Nat × InsEnd), c = .prefixInsert p q pl →
    accepts c s = true → b = bodyOf c s → x = insertFor (rdLe b 0 4) (rdLe b 4 4) (rdLe b 8 4) (rdLe b 12 4) (takenBy c s) → x.2.2 ≠ .ok →
    gives c s (complete p q 0x0605 2 (if x.2.2 = .full then 5 else 6) 0 (le 4 x.2.1) (x.1.setEv .crl 0x4204 6))) ∧
  (∀ (p : Part) (q : Req) (pl : Bytes) (s : State) (c : Instr) (b : Bytes), c = .prefixInsertBulk p q pl → accepts c s = true → b = bodyOf c s →
    answersLater c s (addJob .crl {
      q := q, code := 0x0606, core := 2, args := [], total := rdLe b 8 4, out := [0], staged := s.rd .crl (rdLe b 0 8) (16 * rdLe b 8 4) })) ∧
  (∀ (p : Part) (q : Req) (pl : Bytes) (s : State) (c : Instr), c = .prefixRemove p q pl → accepts c s = true →
    ∃ t, exec c s = .next t ∧ Elsewhere p s t ∧ tfind t.crl.planner.nodes (rdLe (bodyOf c s) 0 4) = none) ∧
  (∀ (p : Part) (q : Req) (pl : Bytes) (s : State) (c : Instr) (b : Bytes) (r : PRoot), c = .adapterPublish p q pl → accepts c s = true →
    b = bodyOf c s → s.proot (rdLe b 0 2) = some r → r.adapters.find? (fun x => x.id = rdLe b 4 4) = none →
    answersOk c s [] (fun a => a.modRoot (rdLe b 0 2) (fun y => { y with adapters := y.adapters ++ [{ id := rdLe b 4 4, cur := rdLe b 2 2 }] }))) ∧
  (∀ (p : Part) (q : Req) (pl : Bytes) (s : State) (c : Instr) (b : Bytes) (r : PRoot) (x : Adapter), c = .adapterPublish p q pl →
    accepts c s = true → b = bodyOf c s → s.proot (rdLe b 0 2) = some r → x ∈ r.adapters → x.id = rdLe b 4 4 →
    ∃ t r', exec c s = .next t ∧ Elsewhere p s t ∧ t.proot (rdLe b 0 2) = some r' ∧
      { x with cur := rdLe b 2 2, retiring := x.retiring ++ (if x.cur = 0 then [] else [x.cur]) } ∈ r'.adapters) ∧
  (∀ (p : Part) (q : Req) (pl : Bytes) (s : State) (c : Instr) (b : Bytes), c = .adapterRebind p q pl → accepts c s = true → b = bodyOf c s →
    answersLater c s (fun a => a.modRoot (rdLe b 0 2) (fun r => { r with plan.rebinds := r.plan.rebinds ++ [(rdLe b 4 4, q)] })))

/-! ## Firmware cores, resets, power, the debug port -/

/-- A watchdog or exception takes a core down for 3 ms and ends the class B work it had accepted short of its commit point, except PWR in an
emergency, whose restart waits (R455, R456, R459); a core that is down already stays so; a core that comes up runs again, and what SEC
or a PCC core had to do meanwhile is done (R455); an activation restarts the next core onto its staged image, and in an emergency is
deferred (R458, R459). -/
def Obligations.FirmwareCoresGoDownAndRun : Prop :=
(∀ (p : Part) (n : Nat) (s : State) (c : Instr), (c = .coreWatchdogExpiry p n ∨ c = .coreException p n) → n < p.cores →
    coreDown p n s = false → (n ≠ 1 ∨ s.emergency p = false) →
    ∃ t, exec c s = .next t ∧ EndsWork p n (s.fwCore p n).restartQ s t ∧
      t.fwCore p n = { s.fwCore p n with running := false, down := some (s.tick p + 3_000_000), wdHeld := false } ∧
      (t.reg p (fwEvents p)).testBit 1 = true) ∧
  (∀ (p : Part) (s : State), coreDown p 1 s = false → s.emergency p = true → s.WorkInFlight p →
    ∃ t, exec (.coreWatchdogExpiry p 1) s = .next t ∧ Elsewhere p s t ∧ t.fwCore p 1 = { s.fwCore p 1 with wdHeld := true } ∧
      (t.core p).jobs = (s.core p).jobs ∧ (t.reg p (fwEvents p)).testBit 2 = true) ∧
  (∀ (p : Part) (s : State), coreDown p 1 s = false → s.emergency p = true → s.WorkInFlight p →
    gives (.coreException p 1) s (s.modFwCore p 1 (fun x => { x with wdHeld := true }))) ∧
  (∀ (p : Part) (n : Nat) (s : State) (c : Instr), (c = .coreWatchdogExpiry p n ∨ c = .coreException p n) → n < p.cores →
    coreDown p n s = true → s.WorkInFlight p → gives c s s) ∧
  (∀ (p : Part) (n : Nat) (s : State), n < p.cores → (s.fwCore p n).down.isSome = true →
    ∃ t, exec (.coreRestartDone p n) s = .next t ∧ Elsewhere p s t ∧
      t.fwCore p n = { s.fwCore p n with running := true, down := none, activated := false, restartQ := none } ∧
      ((s.fwCore p n).halted = false → ∀ w ∈ (t.core p).held, w.core ≠ n)) ∧
  (∀ (p : Part) (n : Nat) (s : State), n < p.cores → (s.fwCore p n).down = none → gives (.coreRestartDone p n) s s) ∧
  (∀ (p : Part) (s : State) (x : Activation) (n : Nat) (rest : List Nat), (s.core p).fw.act = some x → x.deferred = false → x.todo = n :: rest →
    (s.core p).cores.any (fun c => c.2.down.isSome) = false → s.emergency p = false →
    ∃ t, exec (.fwActivationNextCore p) s = .next t ∧ EndsWork p n (s.fwCore p n).restartQ s t ∧
      (t.core p).fw.act = (if rest = [] then none else some { x with todo := rest }) ∧
      t.fwCore p n = { s.fwCore p n with running := false, down := some (s.tick p + 3_000_000), wdHeld := false, activated := true,
                                         ver := imgVer (((s.stagedFor p n).map (·.image)).getD []) }) ∧
  (∀ (p : Part) (s : State) (x : Activation), (s.core p).fw.act = some x → x.deferred = false →
    (s.core p).cores.any (fun c => c.2.down.isSome) = false → s.emergency p = true → s.WorkInFlight p →
    ∃ t, exec (.fwActivationNextCore p) s = .next t ∧ Elsewhere p s t ∧ (t.core p).fw.act = some { x with deferred := true } ∧
      (t.core p).cores = (s.core p).cores ∧ (t.reg p (fwEvents p)).testBit 6 = true) ∧
  (∀ (p : Part) (s : State), (s.core p).fw.act = none → s.WorkInFlight p → gives (.fwActivationNextCore p) s s)

/-- An emergency begins and clears, not while TRIPPED stands; PWR's restart that waited goes ahead, and a deferred activation goes on 1 s later
(R422, R459); cold resets start a part anew but for what its flash, its topology record and its surroundings hold, a Spindle without its HEA
(R23, R518, R550), a Creel with its registry but for a full maintenance stop (R25, R534; log entry 143); without a SEC image boot stops
(R437); PERST_N closes the host's channels and resets the vector table, BAR2 writes land in the host region alone (R438, R550). -/
def Obligations.EmergencyAndResets : Prop :=
(∀ (p : Part) (cause : EmergencyCause) (s : State), gives (.emergencyBegin p cause) s (s.modCore p (fun c => { c with
      fw := { c.fw with emergency := (c.fw.emergency ++ [cause]).eraseDups, clearedAt := none } }))) ∧
  (∀ (p : Part) (s : State), s.tripped p = false → (s.core p).fw.emergency ≠ [] → (s.fwCore p 1).wdHeld = false → s.WorkInFlight p →
    gives (.emergencyCleared p) s (s.modCore p (fun c => { c with fw := { c.fw with emergency := [], clearedAt := some c.time.tick } }))) ∧
  (∀ (p : Part) (s : State), s.tripped p = false → (s.core p).fw.emergency ≠ [] → (s.fwCore p 1).wdHeld = true →
    ∃ t, exec (.emergencyCleared p) s = .next t ∧ EndsWork p 1 (s.fwCore p 1).restartQ s t ∧ (t.core p).fw.emergency = [] ∧
      t.fwCore p 1 = { s.fwCore p 1 with running := false, down := some (s.tick p + 3_000_000), wdHeld := false }) ∧
  (∀ (p : Part) (s : State), s.tripped p = true → s.WorkInFlight p → gives (.emergencyCleared p) s s) ∧
  (∀ (p : Part) (s : State) (x : Nat), (s.core p).fw.clearedAt = some x → x + 1_000_000_000 ≤ s.tick p → s.emergency p = false →
    gives (.emergencyClearTimer p) s (s.modCore p (fun c => { c with
      fw := { c.fw with clearedAt := none, act := c.fw.act.map (fun a => { a with deferred := false }) } }))) ∧
  (∀ (s : State), gives .coldResetAssert s { s with
    sc := { fw := { flash := s.sc.fw.flash }, topo := { s.sc.topo with hea := noHea }, mem := s.sc.mem, hostMem := s.sc.hostMem, sec := { draws := s.sc.sec.draws } }
    spn := { clu := s.spn.clu } }) ∧
  (∀ (s : State) (c : Instr), (c = .moduleColdReset ∨ c = .moduleInputLoss) → gives c s { s with
    cc := { fw := { flash := s.cc.fw.flash }, topo := s.cc.topo, hostMem := s.cc.hostMem, sec := { draws := s.cc.sec.draws } }
    crl := { msix := s.crl.msix, pcieDown := s.crl.pcieDown, registry := if s.fullStop then [] else s.crl.registry } }) ∧
  (∀ (s : State), s.fullStop = true ↔ (∀ e ∈ s.crl.registry, e.2.live = false ∧ e.2.draining = false) ∧ s.sc.fw.bootStep = 0 ∧ s.sc.topo.hea = noHea) ∧
  (∀ (p : Part) (s : State), (s.core p).fw.bootStep = 0 → (s.core p).fw.bootFail = false → s.slotsOf p 1 0 = [] →
    gives (.coldResetRelease p) s (s.modCore p (fun c => { c with
      fw := { c.fw with bootFail := true, failKind := 1, failCore := 0 }
      cores := c.cores.map (fun e => if e.1 = 0 then e else (e.1, { e.2 with running := false })) }))) ∧
  (∀ (s : State), ∃ t, exec .perstAssert s = .next t ∧ Elsewhere .crl s t ∧ t.crl.pcieDown = true ∧ t.crl.msixPend = [] ∧ (t.chan .crl 0).isOpen = false ∧
    ∀ off, 0x38_0000 ≤ off → off < 0x38_2000 → t.reg .crl off = (regDef .crl off).reset) ∧
  (∀ (s : State), gives .perstRelease s { s with crl.pcieDown := false }) ∧
  (∀ (x : Nat) (d : Bytes) (s : State), x + d.length ≤ 0x10_0000_0000 → s.crl.pcieDown = false → 0xA000_0000 ≤ x →
    gives (.bar2Write x d) s { s with cc.mem := memWr s.cc.mem x d }) ∧
  (∀ (x : Nat) (d : Bytes) (s : State), x + d.length ≤ 0x10_0000_0000 → s.crl.pcieDown = false → x < 0xA000_0000 →
    gives (.bar2Write x d) s (s.bump .crl 0x0050 1))

/-- A workless part enters NAP after 1 µs, and a Creel with no port UP for 1 ms HOLD (R516, R517). The debug port is denied registers and
memory below the level they need, reads registers without clearing them at OBSERVE, and writes registers, memory and cores at
INVASIVE; the service space answers at every level; a status operation changes nothing (R511, R556). -/
def Obligations.PowerAndDebugPort : Prop :=
(∀ (p : Part) (s : State) (x : Nat), (s.core p).sec.power = 0 → s.workless p = true → (s.core p).sec.gateTick = some x → x + 1000 ≤ s.tick p →
    ∃ t, exec (.napEntry p) s = .next t ∧ Elsewhere p s t ∧ (t.core p).sec.power = 1 ∧ (t.reg p (secEvents p)).testBit 2 = true) ∧
  (∀ (s : State) (x : Nat), s.cc.time.held = true → s.upPorts .crl = [] → s.cc.sec.downTick = some x → x + 1_000_000 ≤ s.cc.time.tick →
    ∃ t, exec .creelHoldEntry s = .next t ∧ Elsewhere .crl s t ∧ t.cc.sec.power = 2) ∧
  (∀ (p : Part) (space addr : Nat) (s : State), space < 3 → addr < 2 ^ 56 → (s.core p).sec.debug = 0 →
    gives (.tapXactRead p space addr) s (s.modCore p (fun c => { c with tap := { c.tap with done := true, denied := true } }))) ∧
  (∀ (p : Part) (addr : Nat) (s : State), addr < 2 ^ 56 → 1 ≤ (s.core p).sec.debug →
    gives (.tapXactRead p 0 addr) s (s.modCore p (fun c => { c with tap := { c.tap with
      data := BitVec.ofNat 64 (s.readReg p addr), done := true, denied := false } }))) ∧
  (∀ (p : Part) (addr : Nat) (s : State), addr < 2 ^ 56 → badAddr p addr = false → 1 ≤ (s.core p).sec.debug →
    gives (.tapXactRead p 1 addr) s (s.modCore p (fun c => { c with tap := { c.tap with
      data := BitVec.ofNat 64 (leNat (s.rd p addr 8)), done := true, denied := false } }))) ∧
  (∀ (p : Part) (space addr : Nat) (d : Word64) (s : State), space < 3 → addr < 2 ^ 56 → (s.core p).sec.debug < 2 →
    gives (.tapXactWrite p space addr d) s (s.modCore p (fun c => { c with tap := { c.tap with done := true, denied := true } }))) ∧
  (∀ (p : Part) (addr : Nat) (d : Word64) (s : State), addr < 2 ^ 56 → badAddr p addr = false → (s.core p).sec.debug = 2 →
    gives (.tapXactWrite p 1 addr d) s ((s.wr p addr (le 8 d.toNat)).modCore p (fun c => { c with tap := { c.tap with done := true, denied := false } }))) ∧
  (∀ (p : Part) (addr : Nat) (d : Word64) (s : State), addr < 2 ^ 56 → (s.core p).sec.debug = 2 →
    gives (.tapXactWrite p 0 addr d) s ((if addr % 4 = 0 then writeReg p addr (d.toNat % 2 ^ 32) s else s).modCore p (fun c => { c with
      tap := { c.tap with done := true, denied := false } }))) ∧
  (∀ (p : Part) (addr : Nat) (d : Word64) (s : State) (ok : Bool), addr < 2 ^ 56 → (s.core p).sec.debug = 2 →
    ok = tapCore p (Config.debugCore (tapPart p) addr) →
    gives (.tapXactWrite p 2 addr d) s ((if ok then coreWrite p addr d.toNat s else s).modCore p (fun c => { c with
      tap := { c.tap with done := true, denied := !ok } }))) ∧
  (∀ (p : Part) (addr : Nat) (d : Word64) (s : State), addr < 2 ^ 56 → ∀ c ∈ [Instr.tapXactRead p 3 addr, Instr.tapXactWrite p 3 addr d],
    ∃ t, exec c s = .next t ∧ (t.core p).tap.done = true) ∧
  (∀ (p : Part) (s : State), gives (.tapXactStatus p) s s)

/-- Boot from cold reset takes its steps in order: without an image of SEC, without a record or with one of the other cores' images refused it stops, and
FW_BOOT names the failing kind; with every image and record accepted it comes to step 4 (R436, R437). -/
def Obligations.BootTakesItsSteps : Prop :=
∀ (p : Part) (s : State), (s.core p).fw.bootStep = 0 → (s.core p).fw.bootFail = false →
    ∃ t, exec (.coldResetRelease p) s = .next t ∧ (∀ r, r ≠ p → Kept r s t) ∧
      (match bootKind p 1 0 (fun i => boot.activeOkForRom p i s) s with
      | (_, none) => (t.core p).fw = { (s.core p).fw with bootFail := true, failKind := 1, failCore := 0 }
      | (x, some img) =>
        match bootRecords p (bootStep p 1 ((x.modCore p (fun c => { c with fw := { c.fw with
            major := rdLe img 9 1, minor := rdLe img 10 1, patch := rdLe img 12 2, features := rdLe img 28 4 } })).modFwCore p 0 (fun c => { c with
            running := true, ver := imgVer img }))) with
        | .error e => (t.core p).fw = { (e.2.core p).fw with bootFail := true, failKind := e.1, failCore := 7 }
        | .ok y =>
          match bootCores p img (laterKinds p) (bootStep p 2 y) with
          | .error e => (t.core p).fw = { (e.2.core p).fw with bootFail := true, failKind := 1, failCore := e.1 }
          | .ok y => (t.core p).fw = { (y.core p).fw with bootStep := 4 })

/-! ## DMA units and BULK messages -/

/-- A DMA unit copies its bytes and moves the channel on, or sends a remote channel's next message of at most 64 KiB (R450, R451, R453); the
last unit sets DONE, the first after ABORT sets ABORTED (R450, R493); a failed access waits for its repetition 1 µs later, and at its last
halts the channel with its address and DMA_FAULT (R452); a paused channel resumes at LOW (R451).
A complete BULK message is written and acknowledged, and one for the mirror journal is taken into the mirror; one beyond the part's memory, or
that lost a cell, is answered so and not written (R63, R351, R376, R453). An acknowledgement moves the channel on; without one within 200 µs,
or with one that says otherwise, the message is sent again, or the channel halts (R453). -/
def Obligations.DmaUnitsCopyAndBulkIsAcknowledged : Prop :=
(∀ (p : Part) (c n : Nat) (s : State) (d : Dma), c < p.dmas → d = s.dmaCh p c → d.busy = true → d.paused = false → d.failTick = none → d.msg = none →
    d.remote = false → n = min 64 d.count → gives (.dmaUnitCopy p c true) s (dmaAdvance p c n (s.wr p d.dst (s.rd p d.src n)))) ∧
  (∀ (p : Part) (c n : Nat) (s : State) (d : Dma), d = s.dmaCh p c → n < d.count → d.abortDue = false →
    (dmaAdvance p c n s).dmaCh p c = { d with
      src := d.src + n, dst := d.dst + n, count := d.count - n, tries := 0, failTick := none, msg := none
      paused := d.pace && d.high ≤ ringFill p d s }) ∧
  (∀ (p : Part) (c n : Nat) (s : State) (d : Dma), d = s.dmaCh p c → n = d.count →
    (dmaAdvance p c n s).dmaCh p c = { d with
      src := d.src + n, dst := d.dst + n, count := 0, tries := 0, failTick := none, msg := none, busy := false, done := true, abortDue := false }) ∧
  (∀ (p : Part) (c n : Nat) (s : State) (d : Dma), d = s.dmaCh p c → n < d.count → d.abortDue = true →
    (dmaAdvance p c n s).dmaCh p c = { d with
      src := d.src + n, dst := d.dst + n, count := d.count - n, tries := 0, failTick := none, msg := none
      busy := false, aborted := true, abortDue := false }) ∧
  (∀ (p : Part) (c : Nat) (s : State) (d : Dma), c < p.dmas → d = s.dmaCh p c → d.busy = true → d.paused = false → d.failTick = none → d.msg = none →
    d.remote = true → ∃ t, exec (.dmaUnitCopy p c true) s = .next t ∧ Elsewhere p s t ∧ t.dmaCh p c = { d with
      msgNo := (d.msgNo + 1) % 65536, msg := some (d.msgNo, min 65536 d.count, s.tick p) }) ∧
  (∀ (p : Part) (c x n : Nat) (s a : State) (d : Dma), c < p.dmas → d = s.dmaCh p c → d.busy = true → d.paused = false → d.msg = none →
    d.remote = false → d.failTick = some x → x + 1000 ≤ s.tick p → n = min 64 d.count →
    a = s.modDma p c (fun y => { y with failTick := none, tries := 0 }) →
    gives (.dmaAccessRetry p c true) s (dmaAdvance p c n (a.wr p d.dst (a.rd p d.src n)))) ∧
  (∀ (p : Part) (c : Nat) (s : State) (d : Dma), c < p.dmas → d = s.dmaCh p c → d.busy = true → d.paused = false → d.failTick = none → d.msg = none →
    d.retry ≠ 0 → gives (.dmaUnitCopy p c false) s (s.modDma p c (fun y => { y with failTick := some (s.tick p) }))) ∧
  (∀ (p : Part) (c : Nat) (s : State) (d : Dma), c < p.dmas → d = s.dmaCh p c → d.busy = true → d.paused = false → d.failTick = none → d.msg = none →
    d.retry = 0 → ∃ t, exec (.dmaUnitCopy p c false) s = .next t ∧ Elsewhere p s t ∧ t.dmaCh p c = { d with
      busy := false, paused := false, halted := true, fault := 2, err := d.src, msg := none, failTick := none }) ∧
  (∀ (p : Part) (c x : Nat) (s : State) (d : Dma), c < p.dmas → d = s.dmaCh p c → d.busy = true → d.failTick = some x → x + 1000 ≤ s.tick p →
    d.tries + 1 < d.retry →
    gives (.dmaAccessRetry p c false) s (s.modDma p c (fun y => { y with tries := y.tries + 1, failTick := some (s.tick p) }))) ∧
  (∀ (p : Part) (c x : Nat) (s : State) (d : Dma), c < p.dmas → d = s.dmaCh p c → d.busy = true → d.failTick = some x → x + 1000 ≤ s.tick p →
    d.retry ≤ d.tries + 1 → ∃ t, exec (.dmaAccessRetry p c false) s = .next t ∧ Elsewhere p s t ∧ t.dmaCh p c = { d with
      busy := false, paused := false, halted := true, fault := 2, err := d.src, msg := none, failTick := none }) ∧
  (∀ (p : Part) (c : Nat) (s : State) (d : Dma), c < p.dmas → d = s.dmaCh p c → d.busy = true → d.paused = true → ringFill p d s ≤ d.low →
    gives (.dmaPaceResume p c) s (s.modDma p c (fun y => { y with paused := false }))) ∧
(∀ (p : Part) (n : Nat) (m : BulkMsg) (s a : State), n < p.ports → m.ok = true → bulkLands p m.addr m.data.length = true →
    a = sendCell p n { cls := 4, typ := 1, part := 0, dst := m.src, body := lay [(2, m.msgNo), (2, m.chan), (1, 0)] } (s.wr p m.addr m.data) →
    gives (.bulkWriteReceived p n m) s (if inJournal p n m.addr then mirrorTake m.data a else a)) ∧
  (∀ (p : Part) (n : Nat) (m : BulkMsg) (s : State), n < p.ports → m.ok = true → bulkLands p m.addr m.data.length = false →
    gives (.bulkWriteReceived p n m) s (sendCell p n {
      cls := 4, typ := 1, part := 0, dst := m.src, body := lay [(2, m.msgNo), (2, m.chan), (1, 2)] } s)) ∧
  (∀ (p : Part) (n : Nat) (m : BulkMsg) (s : State), n < p.ports → m.ok = false →
    ∃ t, exec (.bulkWriteReceived p n m) s = .next t ∧ Reports (sendCell p n {
      cls := 4, typ := 1, part := 0, dst := m.src, body := lay [(2, m.msgNo), (2, m.chan), (1, 1)] } s) t) ∧
  (∀ (p : Part) (c no n x : Nat) (s : State), c < p.dmas → (s.dmaCh p c).msg = some (no, n, x) →
    gives (.bulkAckReceived p c no 0) s (dmaAdvance p c n s)) ∧
  (∀ (p : Part) (c no n x st : Nat) (s : State), c < p.dmas → (s.dmaCh p c).msg = some (no, n, x) → st ≠ 0 →
    (s.dmaCh p c).tries < (s.dmaCh p c).retry →
    ∃ t, exec (.bulkAckReceived p c no st) s = .next t ∧ Elsewhere p s t ∧ t.dmaCh p c = { s.dmaCh p c with
      tries := (s.dmaCh p c).tries + 1, msg := some (no, n, s.tick p) }) ∧
  (∀ (p : Part) (c no n x m st : Nat) (s : State), c < p.dmas → (s.dmaCh p c).msg = some (no, n, x) → m ≠ no →
    gives (.bulkAckReceived p c m st) s s) ∧
  (∀ (p : Part) (c no n x : Nat) (s : State), c < p.dmas → (s.dmaCh p c).msg = some (no, n, x) → x + 200_000 ≤ s.tick p →
    (s.dmaCh p c).tries < (s.dmaCh p c).retry →
    ∃ t, exec (.bulkAckTimeout p c) s = .next t ∧ Elsewhere p s t ∧ t.dmaCh p c = { s.dmaCh p c with
      tries := (s.dmaCh p c).tries + 1, msg := some (no, n, s.tick p) }) ∧
  (∀ (p : Part) (c no n x : Nat) (s : State), c < p.dmas → (s.dmaCh p c).msg = some (no, n, x) → x + 200_000 ≤ s.tick p →
    (s.dmaCh p c).retry ≤ (s.dmaCh p c).tries →
    ∃ t, exec (.bulkAckTimeout p c) s = .next t ∧ Elsewhere p s t ∧ t.dmaCh p c = { s.dmaCh p c with
      busy := false, paused := false, halted := true, fault := 3, err := (s.dmaCh p c).dst, msg := none, failTick := none })

/-! ## The thread link -/

/-- A port trains through the states of R79: DOWN to TRAIN_PHY after its backoff, TRAIN_PHY to FEC_LOCK after 64 good markers at both ends,
FEC_LOCK to IDENTIFY after 1,024 correctable blocks, with fresh credits and the announcement of a port that has its HEA, IDENTIFY to
KEY_EXCHANGE once the peer's announcement agrees and this end's has left, or to QUARANTINE, CALIBRATE to UP after 1,088 exchanges; a state
that lasts too long counts a failed attempt, and the eighth quarantines the port (R20, R23, R72, R79 to R82, R85). A Creel's training waits
while the core that trains the port is down (R455). -/
def Obligations.TrainingFollowsTheStates : Prop :=
(∀ (p : Part) (n : Nat) (s : State), n < p.ports → (s.port p n).state = .down → trainerDown p n s = false →
    ((s.port p n).attempts = 0 ∨ (s.port p n).since + 2 ^ (s.port p n).attempts * 1_000_000 ≤ s.tick p) →
    gives (.linkBackoffExpiry p n) s (s.modPort p n (fun q => { q with
      state := .trainPhy, since := s.tick p, looped := (s.reg p (portBase p n)).testBit 3 && (s.port p n).feat.testBit 2
      goodMarks := 0, peerMarks := false, peerLoop := false, rxLane := none }))) ∧
  (∀ (p : Part) (n : Nat) (s : State), n < p.ports → (s.port p n).state = .down → (s.port p n).attempts ≠ 0 →
    s.tick p < (s.port p n).since + 2 ^ (s.port p n).attempts * 1_000_000 → gives (.linkBackoffExpiry p n) s s) ∧
  (∀ (p : Part) (n : Nat) (s : State), n < p.ports → (s.port p n).state = .trainPhy → (s.port p n).looped = false →
    64 ≤ (s.port p n).goodMarks → (s.port p n).peerMarks = true → trainerDown p n s = false →
    gives (.trainMarkersLocked p n) s (s.modPort p n (fun q => { q with state := .fecLock, since := s.tick p, goodBlocks := 0 }))) ∧
  (∀ (p : Part) (n : Nat) (s : State), n < p.ports →
    ((s.port p n).looped = true ∨ (s.port p n).goodMarks < 64 ∨ (s.port p n).peerMarks = false ∨ trainerDown p n s = true) →
    gives (.trainMarkersLocked p n) s s) ∧
  (∀ (p : Part) (n : Nat) (s : State), n < p.ports → (s.port p n).state = .fecLock → 1024 ≤ (s.port p n).goodBlocks → s.hea p ≠ noHea →
    ∃ t c, exec (.fecLockAchieved p n) s = .next t ∧ Elsewhere p s t ∧ (t.port p n).state = .identify ∧
      (t.port p n).cred = { grant := firstGrants p n s } ∧ (t.port p n).annHea = some (s.hea p) ∧ (t.port p n).tx = [c] ∧
      c.cls = clsCtl ∧ c.typ = typIdentify ∧ c.local_ = true ∧ c.body = identifyBody p n (s.hea p) s) ∧
  (∀ (p : Part) (n : Nat) (s : State), n < p.ports → (s.port p n).state = .fecLock → 1024 ≤ (s.port p n).goodBlocks → s.hea p = noHea →
    ∃ t, exec (.fecLockAchieved p n) s = .next t ∧ Elsewhere p s t ∧ (t.port p n).state = .identify ∧
      (t.port p n).cred = { grant := firstGrants p n s } ∧ (t.port p n).annHea = none ∧ (t.port p n).tx = []) ∧
  (∀ (p : Part) (n : Nat) (m : Ident) (s : State), n < p.ports → trainerDown p n s = false → (s.port p n).state = .identify →
    identMatches p n m s = true → m.major = 1 → (s.port p n).annHea.isSome = true → (∀ c ∈ (s.port p n).tx, c.typ ≠ typIdentify) →
    ∃ t, exec (.identifyReceived p n m) s = .next t ∧ Elsewhere p s t ∧ (t.port p n).state = .keyExchange ∧ (t.port p n).peerHea = m.hea ∧
      (t.port p n).peerPort = m.port ∧ (t.port p n).cred.grant = m.grants ∧ (t.port p n).feat = m.feat &&& 7) ∧
  (∀ (p : Part) (n : Nat) (m : Ident) (s : State) (c : Cell), n < p.ports → trainerDown p n s = false → (s.port p n).state = .identify →
    identMatches p n m s = true → m.major = 1 → (s.port p n).annHea.isSome = true → c ∈ (s.port p n).tx → c.typ = typIdentify →
    ∃ t, exec (.identifyReceived p n m) s = .next t ∧ Elsewhere p s t ∧ (t.port p n).state = .identify ∧ (t.port p n).identOk = true ∧
      (t.port p n).cred.grant = m.grants ∧ (t.port p n).tx = (s.port p n).tx) ∧
  (∀ (p : Part) (n : Nat) (m : Ident) (s : State) (h : Nat), n < p.ports → trainerDown p n s = false → (s.port p n).state = .identify →
    identMatches p n m s = true → m.major = 1 → (s.port p n).annHea = none →
    h = (((s.core p).topo.portMap.find? (fun e => e.1 = m.port)).map (·.2)).getD noHea →
    ∃ t c, exec (.identifyReceived p n m) s = .next t ∧ Elsewhere p s t ∧ (t.port p n).state = .identify ∧ (t.port p n).identOk = true ∧
      (t.port p n).annHea = some h ∧ (t.port p n).tx = (s.port p n).tx ++ [c] ∧ c.typ = typIdentify ∧ c.body = identifyBody p n h s) ∧
  (∀ (p : Part) (n : Nat) (m : Ident) (s : State), n < p.ports → trainerDown p n s = false → (s.port p n).state = .identify →
    identMatches p n m s = false →
    ∃ t, exec (.identifyReceived p n m) s = .next t ∧ Elsewhere p s t ∧ (t.port p n).state = .quarantine ∧
      (t.reg p (portBase p n + 0x3C)).testBit 4 = true) ∧
  (∀ (p : Part) (n : Nat) (m : Ident) (s : State), n < p.ports → trainerDown p n s = false → (s.port p n).state = .identify →
    identMatches p n m s = true → m.major ≠ 1 →
    ∃ t, exec (.identifyReceived p n m) s = .next t ∧ Elsewhere p s t ∧ (t.port p n).state = .quarantine ∧
      (t.reg p (portBase p n + 0x3C)).testBit 5 = true) ∧
  (∀ (n : Nat) (m : Ident) (s : State), n < 129 → trainerDown .crl n s = true →
    gives (.identifyReceived .crl n m) s (s.modCore .crl (fun c => { c with held := c.held ++ [{ core := pccOf n, port := n, work := .ident m }] }))) ∧
  (∀ (p : Part) (n ms : Nat) (s : State), n < p.ports → stateLimit (s.port p n).state = some ms → (s.port p n).since + ms * 1_000_000 ≤ s.tick p →
    (s.port p n).looped = false → (s.port p n).attempts < 7 →
    ∃ t, exec (.linkStateTimeout p n) s = .next t ∧ Elsewhere p s t ∧ (t.port p n).state = .down ∧ (t.port p n).keys = {} ∧
      (t.port p n).attempts = (s.port p n).attempts + 1) ∧
  (∀ (p : Part) (n ms : Nat) (s : State), n < p.ports → stateLimit (s.port p n).state = some ms → (s.port p n).since + ms * 1_000_000 ≤ s.tick p →
    (s.port p n).looped = false → 7 ≤ (s.port p n).attempts →
    ∃ t, exec (.linkStateTimeout p n) s = .next t ∧ Elsewhere p s t ∧ (t.port p n).state = .quarantine ∧ (t.reg p (portBase p n + 0x3C)).testBit 6 = true) ∧
  (∀ (p : Part) (n : Nat) (s : State), n < p.ports → (s.port p n).looped = true → gives (.linkStateTimeout p n) s s) ∧
  (∀ (p : Part) (n : Nat) (s : State), n < p.ports → (s.port p n).state = .calibrate → 1088 ≤ (s.port p n).exch.done → trainerDown p n s = false →
    ∃ t, exec (.calibrateComplete p n) s = .next t ∧ Elsewhere p s t ∧ (t.port p n).state = .up ∧ (t.port p n).attempts = 0 ∧
      (t.reg p (portBase p n + 0x3C)).testBit 1 = true)

/-- Eight bad blocks, or an LCB that shows the peer outside UP, take an UP port to DOWN and a burst of tag failures to QUARANTINE, its
keys erased and its queue dropped (R80, R83); an LCB that shows the peer DOWN fails the attempt of a port in training (R80); a second's
corrected symbols mark an UP port DEGRADED, and ten clean ones in a row clear it (R84); counts from IDLE and LCB blocks replace the copy of
the peer's (R72); a cell of the first three classes that has waited 2 cell times without credit shows in LP_EVENTS (R73). -/
def Obligations.LinksLeaveUpAndDegrade : Prop :=
(∀ (p : Part) (n : Nat) (s : State), n < p.ports → (s.port p n).state = .up → 8 ≤ (s.port p n).bad →
    ∃ t, exec (.linkLockLost p n) s = .next t ∧ Elsewhere p s t ∧ (t.port p n).state = .down ∧ (t.port p n).keys = {} ∧ (t.port p n).tx = []) ∧
  (∀ (p : Part) (n : Nat) (s : State), n < p.ports → ((s.port p n).state ≠ .up ∨ (s.port p n).bad < 8) → gives (.linkLockLost p n) s s) ∧
  (∀ (p : Part) (n : Nat) (s : State) (x : Nat), n < p.ports → (s.port p n).state = .up → x ∈ (s.port p n).authFails →
    16 ≤ ((s.port p n).authFails.filter (fun u => x ≤ u && u ≤ x + 1_000_000)).length →
    ∃ t, exec (.linkAuthBurst p n) s = .next t ∧ Elsewhere p s t ∧ (t.port p n).state = .quarantine ∧ (t.port p n).keys = {} ∧ (t.port p n).tx = [] ∧
      (t.reg p (portBase p n + 0x3C)).testBit 3 = true) ∧
  (∀ (p : Part) (n a b : Nat) (s : State), n < p.ports → (s.port p n).state = .up → a < b * 100_000 →
    ∃ t, exec (.linkDegradedWindow p n a b) s = .next t ∧ Elsewhere p s t ∧ t.port p n = { s.port p n with degraded := true, cleanWin := 0 } ∧
      ((s.port p n).degraded = false → (t.reg p (portBase p n + 0x3C)).testBit 2 = true) ∧ ∀ m, m ≠ n → t.port p m = s.port p m) ∧
  (∀ (p : Part) (n a b : Nat) (s : State), n < p.ports → (s.port p n).state = .up → b * 100_000 ≤ a →
    gives (.linkDegradedWindow p n a b) s (s.modPort p n (fun q => if b * 1_000_000 < a then { q with
      cleanWin := q.cleanWin + 1, degraded := q.degraded && q.cleanWin + 1 < 10 } else { q with cleanWin := 0 }))) ∧
  (∀ (p : Part) (n a b : Nat) (s : State), n < p.ports → (s.port p n).state ≠ .up → gives (.linkDegradedWindow p n a b) s s) ∧
  (∀ (p : Part) (n : Nat) (m : LcbMsg) (s : State), n < p.ports → m.state = 7 →
    gives (.lcbReceived p n m) s (s.modPort p n (fun q => { q with cred := { q.cred with peer := m.credits.map (· % 65536) } }))) ∧
  (∀ (p : Part) (n : Nat) (m : LcbMsg) (s : State), n < p.ports → (s.port p n).state = .up → m.state ≠ 7 →
    ∃ t, exec (.lcbReceived p n m) s = .next t ∧ Elsewhere p s t ∧ (t.port p n).state = .down ∧ (t.port p n).keys = {} ∧ (t.port p n).tx = []) ∧
  (∀ (p : Part) (n : Nat) (m : LcbMsg) (s : State), n < p.ports → (stateLimit (s.port p n).state).isSome = true → m.state = 1 →
    (s.port p n).attempts < 7 →
    ∃ t, exec (.lcbReceived p n m) s = .next t ∧ Elsewhere p s t ∧ (t.port p n).state = .down ∧ (t.port p n).attempts = (s.port p n).attempts + 1) ∧
  (∀ (p : Part) (n : Nat) (l : List Nat) (s : State), n < p.ports →
    gives (.idleReceived p n l) s (s.modPort p n (fun q => { q with cred := { q.cred with peer := l.map (· % 65536) } }))) ∧
  (∀ (p : Part) (n k : Nat) (s : State) (c : Cell), n < p.ports → k < 3 → 2 ≤ (s.port p n).noCred.getD k 0 → c ∈ (s.port p n).tx → c.cls = k →
    (s.port p n).cred.left k = 0 →
    ∃ t, exec (.creditStall p n k) s = .next t ∧ Elsewhere p s t ∧ (t.reg p (portBase p n + 0x3C)).testBit 7 = true ∧ t.port p n = s.port p n) ∧
  (∀ (p : Part) (n k : Nat) (s : State), n < p.ports → k < 5 → (3 ≤ k ∨ (s.port p n).noCred.getD k 0 < 2 ∨ 0 < (s.port p n).cred.left k) →
    gives (.creditStall p n k) s s)

/-- A block slot carries the TRAIN block in TRAIN_PHY, or the received lane where the peer asks for it (R51, R85), IDLE in DOWN, FEC_LOCK and
QUARANTINE and where nothing waits (R53, R79), and in UP the waiting cell with credit (R53, R69, R72). A block that is not one counts toward loss of
lock; an IDLE block's counts are taken (R51, R52). A cell at a Creel leaves for the port that its destination names, one hop less, and is
dropped and counted where none does (R64, R65). A window of slots ends with its ratio (R75), and a PORT_SAT report is noted at its root. -/
def Obligations.BlocksAndCellsMove : Prop :=
(∀ (p : Part) (n : Nat) (s : State), n < p.ports → (s.port p n).state = .trainPhy →
    gives (.blockSlotSend p n) s (s.modPort p n (fun q => { q with
      lane := if q.peerLoop && !q.looped then q.rxLane else some (blockOf 0xC (trainContent q)) }))) ∧
  (∀ (p : Part) (n : Nat) (s : State) (st : LinkState), n < p.ports → st = (s.port p n).state → (st = .down ∨ st = .fecLock ∨ st = .quarantine) →
    gives (.blockSlotSend p n) s (s.modPort p n (fun q => { q with
      lane := some (blockOf 0xA (lay (q.cred.freed.map (fun c => (2, c))))), sigRun := 0, wasCell := false }))) ∧
  (∀ (p : Part) (n : Nat) (s : State), n < p.ports → (s.port p n).state = .disabled →
    gives (.blockSlotSend p n) s (s.modPort p n (fun q => { q with lane := none }))) ∧
  (∀ (p : Part) (n : Nat) (s : State) (q : Port), n < p.ports → q = s.port p n → q.state = .up → q.tx = [] → q.lcbOwed = false → q.lcbDue ≠ 0 →
    ∃ t, exec (.blockSlotSend p n) s = .next t ∧ Elsewhere p s t ∧ t.port p n = { q with
      slot := q.slot + 1, lcbDue := q.lcbDue - 1, sigRun := 0, noCred := [0, 0, 0], wasCell := false
      lane := some (blockOf 0xA (lay (q.cred.freed.map (fun c => (2, c))))) }) ∧
  (∀ (p : Part) (n : Nat) (s : State) (q : Port), n < p.ports → q = s.port p n → q.state = .up → q.tx = [] → (q.lcbOwed = true ∨ q.lcbDue = 0) →
    ∃ t, exec (.blockSlotSend p n) s = .next t ∧ Elsewhere p s t ∧ (t.port p n).lane = some (blockOf 0x3 (lcbContent q)) ∧
      (t.port p n).lcbOwed = false ∧ (t.port p n).lcbDue = (if q.lcbDue = 0 then 80 else q.lcbDue - 1)) ∧
  (∀ (p : Part) (n : Nat) (s : State) (q : Port) (c : Cell), n < p.ports → q = s.port p n → q.state = .up → q.tx = [c] → c.cls < 5 →
    c.admitted .up = true → (c.tagged = true → q.keys.txTagged < 2 ^ 32 - 1) → q.keys.txNext = none → 0 < q.cred.left c.cls →
    q.lcbOwed = false → q.lcbDue ≠ 0 →
    ∃ t, exec (.blockSlotSend p n) s = .next t ∧ Elsewhere p s t ∧ (t.port p n).tx = [] ∧ (t.port p n).txSeq = q.txSeq + 1 ∧
      (t.port p n).cred.sent = bumpAt q.cred.sent c.cls ∧ (t.port p n).ccNext = (q.ccNext + 1) % 5 ∧
      (t.port p n).lane = some (blockOf 0x5 (cellBytes c q.keys.tx q.keys.kpTx (q.txSeq + 1) q.ccNext (q.cred.freed.getD q.ccNext 0)))) ∧
  (∀ (p : Part) (n : Nat) (x : BitVec 640) (s : State), n < p.ports → (s.port p n).state ≠ .disabled → rsDecode (le 80 x.toNat) = none →
    rdLe (le 80 x.toNat) 0 1 % 16 ≠ 5 →
    ∃ t, exec (.blockReceived p n x) s = .next t ∧ Elsewhere p s t ∧ (t.port p n).bad = (s.port p n).bad + 1 ∧ (t.port p n).goodBlocks = 0 ∧
      (t.port p n).cred = (s.port p n).cred ∧ (t.port p n).state = (s.port p n).state ∧ ∀ m, m ≠ n → t.port p m = s.port p m) ∧
  (∀ (p : Part) (n : Nat) (x : BitVec 640) (s : State), n < p.ports → (s.port p n).state = .disabled → gives (.blockReceived p n x) s s) ∧
  (∀ (p : Part) (n : Nat) (x : BitVec 640) (s : State) (b : Bytes) (k : Nat), n < p.ports → (s.port p n).state ≠ .disabled →
    rsDecode (le 80 x.toNat) = some (b, k) → rdLe b 0 2 = 0x9E3A →
    ∃ t, exec (.blockReceived p n x) s = .next t ∧ Elsewhere p s t ∧ (t.port p n).bad = 0 ∧ (t.port p n).heardAt = s.tick p ∧
      (t.port p n).goodMarks = (s.port p n).goodMarks + 1 ∧ (t.port p n).goodBlocks = (s.port p n).goodBlocks + 1 ∧
      (t.port p n).cred.peer = (List.range 5).map (fun i => rdLe ((b.drop 2).take 72) (2 * i) 2 % 65536)) ∧
  (∀ (k n : Nat) (s : State) (c : Cell) (rest : List Cell), k < 129 → (s.port .crl k).rx = c :: rest → c.tree = false → c.local_ = false → c.src ≠ 0 →
    routePort s.cc.topo c.dst = some n → n ≠ k → (s.port .crl n).state = .up → (s.port .crl n).keys.peerUntrusted = false → c.admitted .up = true →
    (c.cls = clsCtl → c.typ = typPortSat → (s.port .crl n).feat.testBit 0 = true) →
    ∃ t, exec (.cellSwitch k) s = .next t ∧ Elsewhere .crl s t ∧ (t.port .crl k).rx = rest ∧ (t.port .crl n).tx = (s.port .crl n).tx ++ [{ c with hops := c.hops - 1 }]) ∧
  (∀ (k : Nat) (s : State) (c : Cell) (rest : List Cell), k < 129 → (s.port .crl k).rx = c :: rest → c.tree = false →
    routePort s.cc.topo c.dst = none →
    ∃ t, exec (.cellSwitch k) s = .next t ∧ Elsewhere .crl s t ∧ (t.port .crl k).rx = rest ∧
      t.reg .crl (portBase .crl k + 0x2C) = min (s.reg .crl (portBase .crl k + 0x2C) + 1) 0xFFFF_FFFF) ∧
  (∀ (k : Nat) (s : State), k < 129 → (s.port .crl k).rx = [] → gives (.cellSwitch k) s s) ∧
  (∀ (p : Part) (n : Nat) (s : State) (q : Port), n < p.ports → q = s.port p n → 65536 ≤ q.slot →
    ∃ t, exec (.bulkSatWindowEnd p n) s = .next t ∧ Elsewhere p s t ∧ (t.port p n).slot = 0 ∧ (t.port p n).satWin = 0 ∧
      t.reg p (portBase p n + 0x34) = min q.satWin 0xFFFF + bitAt (bits (s.reg p (portBase p n)) 8 8 * 256 ≤ q.satWin) 16) ∧
  (∀ (p : Part) (n : Nat) (s : State), n < p.ports → (s.port p n).slot < 65536 → gives (.bulkSatWindowEnd p n) s s) ∧
  (∀ (hea part n ratio : Nat) (sat : Bool) (s : State), part < 0x1_0000 → n < 129 →
    gives (.portSatReceived hea part n sat ratio) s (if (s.proot part).isSome then { s with
      crl.sat := if sat then s.crl.sat.filter (· ≠ (hea, n)) ++ [(hea, n)] else s.crl.sat.filter (· ≠ (hea, n)) } else s))

/-- The responder answers KX_INIT and sends its proof; the initiator takes KX_RESP and sends its own; an accepted KX_AUTH completes the
exchange where this end's own has left; a rejected one is answered with KX_FAIL, and the attempt fails with KEY_FAIL once that has left; a
received KX_FAIL fails the attempt so (R503 to R509). The messages are SEC's work, which waits while SEC is down (R455).
A direction that nears its limit rolls its keys over, or goes DOWN where the peer cannot (R62, R508); each end of a rollover counts it
and holds the new keys of both directions; it sends under its new key, with its key phase turned and its sequence numbers begun anew, from the
first cell after its last REKEY cell (R62, R508); the old key goes 65,536 cells after the first of the new phase (R62). -/
def Obligations.KeysAreAgreedAndRolledOver : Prop :=
(∀ (p : Part) (n : Nat) (b : Bytes) (s : State), n < p.ports → coreDown p 0 s = false → (s.port p n).state = .keyExchange →
    s.lowerEnd p n = false → b.length = 1697 →
    ∃ t, exec (.kxInitReceived p n b) s = .next t ∧ Elsewhere p s t ∧ (t.port p n).state = .keyExchange ∧ (t.port p n).keys.init = b ∧
      (t.port p n).keys.sentAuth = true ∧ (t.core p).sec.draws = (s.core p).sec.draws + 1) ∧
  (∀ (p : Part) (n : Nat) (b : Bytes) (s : State), n < p.ports → coreDown p 0 s = false → (s.port p n).state = .keyExchange →
    s.lowerEnd p n = true → b.length = 1697 → (s.port p n).keys.init ≠ [] → (s.port p n).keys.peerOk = false →
    ∃ t, exec (.kxRespReceived p n b) s = .next t ∧ Elsewhere p s t ∧ (t.port p n).state = .keyExchange ∧ (t.port p n).keys.resp = b ∧
      (t.port p n).keys.sentAuth = true ∧ (t.port p n).keys.priv = []) ∧
  (∀ (p : Part) (n : Nat) (b : Bytes) (s : State), n < p.ports → coreDown p 0 s = false → (s.port p n).state = .keyExchange →
    (s.port p n).keys.prk ≠ [] → (s.port p n).keys.failing = false → authRejected p n b s = none →
    ((s.port p n).keys.sentAuth = false ∨ (s.port p n).kxWaits = true) →
    ∃ t, exec (.kxAuthReceived p n b) s = .next t ∧ Elsewhere p s t ∧ (t.port p n).state = .keyExchange ∧ (t.port p n).keys.peerOk = true ∧
      (t.port p n).keys.peerUntrusted = decide (b.length = 64)) ∧
  (∀ (p : Part) (n : Nat) (b : Bytes) (s : State), n < p.ports → coreDown p 0 s = false → (s.port p n).state = .keyExchange →
    (s.port p n).keys.prk ≠ [] → (s.port p n).keys.failing = false → authRejected p n b s = none → (s.port p n).keys.sentAuth = true →
    (s.port p n).kxWaits = false →
    ∃ t, exec (.kxAuthReceived p n b) s = .next t ∧ Elsewhere p s t ∧ (t.port p n).state = .calibrate ∧ (t.port p n).keys.tx.isSome = true ∧
      (t.port p n).keys.rx.isSome = true ∧ (t.port p n).txSeq = 0) ∧
  (∀ (p : Part) (n k : Nat) (b : Bytes) (s : State), n < p.ports → coreDown p 0 s = false → (s.port p n).state = .keyExchange →
    (s.port p n).keys.prk ≠ [] → (s.port p n).keys.failing = false → authRejected p n b s = some k →
    ∃ t, exec (.kxAuthReceived p n b) s = .next t ∧ Elsewhere p s t ∧ (t.port p n).state = .keyExchange ∧ (t.port p n).keys.failing = true ∧
      (t.port p n).tx ≠ [] ∧ ∀ c ∈ (t.port p n).tx, c.cls = clsCtl ∧ c.typ = typKeyEx) ∧
  (∀ (p : Part) (n : Nat) (s : State), n < p.ports → (s.port p n).state = .keyExchange → (s.port p n).keys.failing = true →
    ((s.port p n).keys.sentAuth = false ∨ (s.port p n).keys.peerOk = false) → (s.port p n).tx = [] → (s.port p n).attempts < 7 →
    ∃ t, exec (.blockSlotSend p n) s = .next t ∧ Elsewhere p s t ∧ (t.port p n).state = .down ∧ (t.port p n).attempts = (s.port p n).attempts + 1 ∧
      (t.reg p (secEvents p)).testBit 5 = true) ∧
  (∀ (p : Part) (n k : Nat) (s : State), n < p.ports → (s.port p n).state = .keyExchange → (s.port p n).attempts < 7 →
    ∃ t, exec (.kxFailReceived p n k) s = .next t ∧ Elsewhere p s t ∧ (t.port p n).state = .down ∧ (t.port p n).attempts = (s.port p n).attempts + 1 ∧
      (t.port p n).keys = {} ∧ (t.reg p (secEvents p)).testBit 5 = true) ∧
  (∀ (p : Part) (n k : Nat) (s : State), n < p.ports → (s.port p n).state ≠ .keyExchange → gives (.kxFailReceived p n k) s s) ∧
  (∀ (p : Part) (n : Nat) (b : Bytes) (s : State) (hold : FwWork → State), n < p.ports → coreDown p 0 s = true →
    hold = (fun w => s.modCore p (fun x => { x with held := x.held ++ [{ core := 0, port := n, work := w }] })) →
    gives (.kxInitReceived p n b) s (hold (.kxInit b)) ∧ gives (.kxRespReceived p n b) s (hold (.kxResp b)) ∧
    gives (.kxAuthReceived p n b) s (hold (.kxAuth b)) ∧ gives (.rekeyDue p n) s (hold .rekey) ∧
    gives (.rkInitReceived p n b) s (hold (.rkInit b)) ∧ gives (.rkRespReceived p n b) s (hold (.rkResp b))) ∧
(∀ (p : Part) (n : Nat) (s : State), n < p.ports → (s.port p n).state = .up → (s.port p n).keys.rolling = false → coreDown p 0 s = false →
    (s.port p n).feat.testBit 1 = true →
    ∃ t, exec (.rekeyDue p n) s = .next t ∧ Elsewhere p s t ∧ (t.port p n).state = .up ∧ (t.port p n).keys.rolling = true ∧
      (t.core p).sec.draws = (s.core p).sec.draws + 1) ∧
  (∀ (p : Part) (n : Nat) (s : State), n < p.ports → (s.port p n).state = .up → (s.port p n).keys.rolling = false → coreDown p 0 s = false →
    (s.port p n).feat.testBit 1 = false →
    ∃ t, exec (.rekeyDue p n) s = .next t ∧ Elsewhere p s t ∧ (t.port p n).state = .down ∧ (t.port p n).keys = {}) ∧
  (∀ (p : Part) (n : Nat) (b : Bytes) (s : State), n < p.ports → (s.port p n).state = .up → coreDown p 0 s = false → b.length = 1665 →
    ∃ t, exec (.rkInitReceived p n b) s = .next t ∧ Elsewhere p s t ∧ (t.port p n).keys.rolls = (s.port p n).keys.rolls + 1 ∧
      (t.port p n).keys.txNext.isSome = true ∧ (t.port p n).keys.rxNew.isSome = true ∧ (t.port p n).keys.tx = (s.port p n).keys.tx ∧
      (t.port p n).keys.rx = (s.port p n).keys.rx ∧ (t.port p n).txSeq = (s.port p n).txSeq) ∧
  (∀ (p : Part) (n : Nat) (b : Bytes) (s : State), n < p.ports → (s.port p n).state = .up → coreDown p 0 s = false →
    (s.port p n).keys.rolling = true → b.length = 1665 →
    ∃ t, exec (.rkRespReceived p n b) s = .next t ∧ Elsewhere p s t ∧ (t.port p n).keys.rolls = (s.port p n).keys.rolls + 1 ∧
      (t.port p n).keys.txNext.isSome = true ∧ (t.port p n).keys.rxNew.isSome = true ∧ (t.port p n).keys.tx = (s.port p n).keys.tx ∧
      (t.port p n).keys.rolling = false) ∧
  (∀ (p : Part) (n : Nat) (s : State) (q : Port) (c : Cell) (k : LinkKey), n < p.ports → q = s.port p n → q.state = .up → q.tx = [c] → c.cls < 5 →
    c.admitted .up = true → (c.tagged = true → q.keys.txTagged < 2 ^ 32 - 1) → (c.cls = clsCtl → c.typ ≠ typRekey) → q.keys.txNext = some k →
    0 < q.cred.left c.cls → q.lcbOwed = false → q.lcbDue ≠ 0 →
    ∃ t, exec (.blockSlotSend p n) s = .next t ∧ Elsewhere p s t ∧ (t.port p n).keys.tx = some k ∧ (t.port p n).keys.txNext = none ∧
      (t.port p n).keys.kpTx = !q.keys.kpTx ∧ (t.port p n).txSeq = 1) ∧
  (∀ (p : Part) (n k : Nat) (s : State), n < p.ports → (s.port p n).keys.newSeen = some k → 65536 ≤ k →
    gives (.oldKeyDiscard p n) s (s.modPort p n (fun q => { q with keys := { q.keys with rxNew := none, newSeen := none }, oldRx := (0, 0) }))) ∧
  (∀ (p : Part) (n : Nat) (s : State), n < p.ports → (s.port p n).keys.newSeen.all (fun k => k < 65536) = true → gives (.oldKeyDiscard p n) s s)

/-! ## Time transfer -/

/-- A TREQ opens the next exchange with the latencies and ASYM of that moment and is counted in the window (R78, R101, R104); a TREQ is answered
by a TRESP, whose own departure is stamped for the next (R102); a TRESP makes its own exchange wait for t3 with the stamp at which its TREQ
departed, and one that brings the t3 of the exchange before adds that exchange's theta where its delay lies within 50 ps of the average (R104,
R105); what a TIME cell says of its sender is held (R98, R103). At the end of 64 exchanges the window begins anew, with the mean theta where 48
passed (R105). In a port state without exchanges nothing happens. -/
def Obligations.TimeExchangesRun : Prop :=
(∀ (p : Part) (n : Nat) (s : State) (x : Exch), n < p.ports → (s.port p n).timed = true → x = (s.port p n).exch →
    (∀ u, x.sentAt = some u → u + 1000 ≤ s.tick p) →
    ∃ t c o, exec (.treqSend p n) s = .next t ∧ Elsewhere p s t ∧ (t.port p n).tx = (s.port p n).tx ++ [c] ∧ c.cls = clsTime ∧ c.typ = 0 ∧ c.ts = true ∧
      (t.port p n).exch.n = (x.n + 1) % 2 ^ 32 ∧ (t.port p n).exch.seen = x.seen + 1 ∧ (t.port p n).exch.sentAt = some (s.tick p) ∧
      o ∈ (t.port p n).exch.open_ ∧ o.n = (x.n + 1) % 2 ^ 32 ∧ o.t1 = none ∧ o.asym = s.lpAsym p n ∧ o.rxlat = s.rxlat p n ∧ o.txlat = s.txlat p n) ∧
  (∀ (p : Part) (n : Nat) (s : State) (u : Nat), n < p.ports → (s.port p n).exch.sentAt = some u → s.tick p < u + 1000 → gives (.treqSend p n) s s) ∧
  (∀ (p : Part) (n stamp : Nat) (m : TimeMsg) (s : State), n < p.ports → (s.port p n).timed = true →
    ∃ t c h, exec (.treqReceived p n m stamp) s = .next t ∧ Elsewhere p s t ∧ (t.port p n).tx = (s.port p n).tx ++ [c] ∧ c.cls = clsTime ∧ c.typ = 1 ∧
      c.ts = true ∧ (t.port p n).exch.respLat = some (m.n, s.txlat p n) ∧ (t.port p n).exch.heard = some h ∧ h.root = m.root ∧ h.s = m.s ∧
      h.tq = m.tq ∧ h.lead = m.lead ∧ h.rootLost = m.rootLost ∧ h.hb = m.heartbeat ∧ h.stepNo = m.stepNo) ∧
  (∀ (p : Part) (n a b t1 : Nat) (m : TimeMsg) (s : State) (o : OpenReq), n < p.ports → (s.port p n).timed = true → m.t2 = some a →
    (s.port p n).exch.open_.find? (fun y => y.n = m.n) = some o → o.t1 = some (t1 : Int) →
    ∃ t h, exec (.trespReceived p n m (some b)) s = .next t ∧ Elsewhere p s t ∧ (t.port p n).exch.prev = some h ∧ h.n = m.n ∧ h.t1 = t1 ∧
      h.t2 = (m.secHi : Int) * stampWindow + a ∧ (t.port p n).exch.heard.map (·.root) = some m.root) ∧
  (∀ (p : Part) (n t3 : Nat) (m : TimeMsg) (stamp : Option Nat) (s : State) (h : Half) (c : Int) (d : Rat), n < p.ports → (s.port p n).timed = true →
    (s.port p n).exch.prev = some h → (h.n + 1) % 2 ^ 32 = m.n → m.t3 = some t3 → h.corr = some c →
    d = ((h.t4 - h.t1) - ((m.secHi : Int) * stampWindow + t3 - h.t2) : Int) →
    d - (s.port p n).exch.dAvg ≤ ns16 (1 / 20) → (s.port p n).exch.dAvg - d ≤ ns16 (1 / 20) →
    ∃ t, exec (.trespReceived p n m stamp) s = .next t ∧ Elsewhere p s t ∧ (t.port p n).exch.k = (s.port p n).exch.k + 1 ∧
      (t.port p n).exch.acc = (s.port p n).exch.acc +
        (((h.t2 - h.t1 : Int) : Rat) - d / 2 - (if s.lowerEnd p n then (h.asym : Rat) else -(h.asym : Rat)) - c)) ∧
  (∀ (p : Part) (n stamp : Nat) (m : TimeMsg) (st : Option Nat) (s : State), n < p.ports → (s.port p n).timed = false →
    gives (.treqSend p n) s s ∧ gives (.treqReceived p n m stamp) s s ∧ gives (.trespReceived p n m st) s s ∧ gives (.servoWindowEnd p n ()) s s) ∧
  (∀ (p : Part) (n : Nat) (s : State), n < p.ports → (s.port p n).timed = true → 64 ≤ (s.port p n).exch.seen →
    ∃ t, exec (.servoWindowEnd p n ()) s = .next t ∧ Elsewhere p s t ∧ (t.port p n).exch.seen = 0 ∧ (t.port p n).exch.k = 0 ∧
      (t.port p n).exch.acc = 0 ∧ (t.port p n).exch.th = if 48 ≤ (s.port p n).exch.k then (s.port p n).exch.acc / (s.port p n).exch.k
        else (s.port p n).exch.th) ∧
  (∀ (p : Part) (n : Nat) (s : State), n < p.ports → (s.port p n).exch.seen < 64 → gives (.servoWindowEnd p n ()) s s)

/-- A Spindle reports the lead root's loss each millisecond as long as the lead plane's rack shows it, and the other root counts the row that
does; with more than half of its rows and PX failed it takes the lead (R117). A lead change and a phase step are held until their boundary, one
that comes after its boundary until the next second, with its alarm bit (R118, R119). At a lead change's boundary the lead is the new plane, a
Spindle that can serves from it, and a time root follows PX or nothing; at a phase step's, GT and D move together, so that DTC does not (R36,
R118, R119). -/
def Obligations.LeadChangesAndPhaseSteps : Prop :=
(∀ (s : State) (h : Heard), (s.port .spn (planeNat s.sc.time.lead)).exch.heard = some h → h.rootLost = true →
    h.root = s.sc.topo.timeRoot s.sc.time.lead → (∀ u, s.sc.time.leadLostTick = some u → u + 1_000_000 ≤ s.sc.time.tick) →
    (s.port .spn (planeNat (otherPlane s.sc.time.lead))).state = .up →
    (s.port .spn (planeNat (otherPlane s.sc.time.lead))).keys.peerUntrusted = false →
    ∃ t c, exec .leadLostSend s = .next t ∧ Elsewhere .spn s t ∧ t.sc.time = { s.sc.time with leadLostTick := some s.sc.time.tick } ∧
      (t.port .spn (planeNat (otherPlane s.sc.time.lead))).tx = (s.port .spn (planeNat (otherPlane s.sc.time.lead))).tx ++ [c] ∧ c.cls = clsCtl ∧
      c.typ = 0x11) ∧
  (∀ (s : State), (∀ h, (s.port .spn (planeNat s.sc.time.lead)).exch.heard = some h → h.rootLost = false) →
    gives .leadLostSend s (s.modTime .spn (fun x => { x with leadLostTick := none }))) ∧
  (∀ (src : Nat) (s : State) (l : List Nat), s.isFollowRoot = true → spnHea src = true → l = (s.crl.ref.lostRows ++ [heaRow src]).eraseDups →
    ∃ t, exec (.leadLostReceived src (s.cc.topo.timeRoot s.cc.time.lead) (planeNat s.cc.time.lead)) s = .next t ∧ Elsewhere .crl s t ∧
      t.crl.ref.lostRows = l ∧ t.cc.time.lead =
        if s.crl.ref.steerLost = true ∧ s.cc.topo.rows < 2 * l.length then s.cc.topo.plane else s.cc.time.lead) ∧
  (∀ (src root pl : Nat) (s : State), s.isFollowRoot = false ∨ pl ≠ planeNat s.cc.time.lead ∨ root ≠ s.cc.topo.timeRoot s.cc.time.lead ∨
    spnHea src = false → gives (.leadLostReceived src root pl) s s) ∧
  (∀ (p : Part) (n sec : Nat) (pl : Plane) (s : State), n < p.ports → (s.core p).time.leadChange = none → (s.core p).time.lead ≠ pl →
    ∃ t, exec (.leadChangeReceived p n sec pl) s = .next t ∧ Elsewhere p s t ∧
      (if s.gt p < (sec : Int) * unitsPerSec then (t.core p).time = { (s.core p).time with leadChange := some (sec, pl) }
       else (t.core p).time = { (s.core p).time with leadChange := some (gtSec (s.gt p) + 1, pl) } ∧
         (t.reg p (teAlarm p)).testBit 1 = true)) ∧
  (∀ (p : Part) (n sec : Nat) (pl : Plane) (s : State), n < p.ports →
    (s.core p).time.leadChange.map (·.2) = some pl ∨ ((s.core p).time.leadChange = none ∧ (s.core p).time.lead = pl) →
    gives (.leadChangeReceived p n sec pl) s s) ∧
  (∀ (p : Part) (sec : Nat) (pl : Plane) (s : State), (s.core p).time.leadChange = some (sec, pl) → (sec : Int) * unitsPerSec ≤ s.gt p →
    ∃ t, exec (.leadChangeBoundary p) s = .next t ∧ Elsewhere p s t ∧ (t.core p).time.leadChange = none ∧ (t.core p).time.lead = pl ∧
      (p = .spn → s.usable pl = true → t.sc.time.track = pl) ∧
      (p = .crl → s.isTimeRoot = true → t.cc.time.engA.port = if pl = s.cc.topo.plane then none else some pxPort)) ∧
  (∀ (p : Part) (s : State), (∀ e, (s.core p).time.leadChange = some e → s.gt p < (e.1 : Int) * unitsPerSec) →
    gives (.leadChangeBoundary p) s s) ∧
  (∀ (p : Part) (n sec num : Nat) (amt : Int) (s : State), n < p.ports → (s.core p).time.knowsStep num = false → (p = .crl → s.isLeadRoot = false) →
    ∃ t, exec (.phaseStepReceived p n sec amt num) s = .next t ∧ Elsewhere p s t ∧
      (if s.gt p < (sec : Int) * unitsPerSec then
         (t.core p).time = { (s.core p).time with pendSteps := (s.core p).time.pendSteps ++ [{ sec := sec, amt := amt, num := num }] }
       else (t.core p).time =
           { (s.core p).time with pendSteps := (s.core p).time.pendSteps ++ [{ sec := gtSec (s.gt p) + 1, amt := amt, num := num }] } ∧
         (t.reg p (teAlarm p)).testBit 1 = true)) ∧
  (∀ (p : Part) (n sec num : Nat) (amt : Int) (s : State), n < p.ports → (s.core p).time.knowsStep num = true ∨ (p = .crl ∧ s.isLeadRoot = true) →
    gives (.phaseStepReceived p n sec amt num) s s) ∧
  (∀ (s : State) (st : PStep), s.sc.time.pendSteps = [st] → (st.sec : Int) * unitsPerSec ≤ s.gt .spn →
    ∃ t, exec (.phaseStepBoundary .spn) s = .next t ∧ Elsewhere .spn s t ∧ t.sc.time.pendSteps = [] ∧ t.gt .spn = s.gt .spn + st.amt ∧
      t.spn.banks.dcor = s.spn.banks.dcor + st.amt ∧ t.dtc = s.dtc ∧ t.sc.time.stepNo = st.num ∧ st ∈ t.sc.time.applied) ∧
  (∀ (s : State) (st : PStep), s.cc.time.pendSteps = [st] → (st.sec : Int) * unitsPerSec ≤ s.gt .crl →
    ∃ t, exec (.phaseStepBoundary .crl) s = .next t ∧ Elsewhere .crl s t ∧ t.cc.time.pendSteps = [] ∧ t.gt .crl = s.gt .crl + st.amt ∧
      (∀ part, t.crlDtc? part = s.crlDtc? part) ∧ t.cc.time.stepNo = st.num ∧ st ∈ t.cc.time.applied) ∧
  (∀ (p : Part) (s : State), (∀ e ∈ (s.core p).time.pendSteps, s.gt p < (e.sec : Int) * unitsPerSec) → gives (.phaseStepBoundary p) s s)

/-- The lead root's step goes down once its PX copy returned within 1 ms, and is abandoned without it or when it returns later (R149); a time
root sends its QWORD every 1,024 µs, Spindles hold one and Creels hold and send on their parent's (R134); one on PX brings the other root's
class, which the root that follows takes (R135, R140), and without one for 2,048 µs the PX reference fails (R135). -/
def Obligations.RootStepsAndQwords : Prop :=
(∀ (s : State) (r : RootStep), s.crl.ref.step = some r → r.sentDown = false → s.cc.time.tick ≤ r.issued + 1_000_000 →
    ∃ t, exec (.phaseStepPxReturn r.step.num) s = .next t ∧ Elsewhere .crl s t ∧ t.crl.ref.step = some { r with sentDown := true, q := none } ∧
      t.cc.time.pendSteps = s.cc.time.pendSteps ++ [r.step] ∧ (t.reg .crl 0x3014).testBit 5 = true) ∧
  (∀ (s : State) (r : RootStep), s.crl.ref.step = some r → r.sentDown = false → r.issued + 1_000_000 < s.cc.time.tick →
    ∃ t, exec (.phaseStepPxReturn r.step.num) s = .next t ∧ Elsewhere .crl s t ∧ t.crl.ref.step = none ∧ t.cc.time.pendSteps = s.cc.time.pendSteps ∧
      (t.reg .crl 0x3014).testBit 6 = true) ∧
  (∀ (s : State) (num : Nat), (∀ r, s.crl.ref.step = some r → r.step.num ≠ num ∨ r.sentDown = true) →
    gives (.phaseStepPxReturn num) s s ∧ gives (.phaseStepAbandon num) s s) ∧
  (∀ (s : State) (r : RootStep), s.crl.ref.step = some r → r.sentDown = false → r.issued + 1_000_000 ≤ s.cc.time.tick →
    ∃ t, exec (.phaseStepAbandon r.step.num) s = .next t ∧ Elsewhere .crl s t ∧ t.crl.ref.step = none ∧ t.cc.time.pendSteps = s.cc.time.pendSteps ∧
      (t.reg .crl 0x3014).testBit 6 = true) ∧
  (∀ (s : State) (r : RootStep) (num : Nat), s.crl.ref.step = some r → s.cc.time.tick < r.issued + 1_000_000 → gives (.phaseStepAbandon num) s s) ∧
  (∀ (s : State), s.isTimeRoot = true → (∀ x, s.crl.ref.qwordAt = some x → x + 1_024_000 ≤ s.cc.time.tick) →
    ∃ t, exec .qwordOriginate s = .next t ∧ Elsewhere .crl s t ∧ t.crl.ref = { s.crl.ref with qwordAt := some s.cc.time.tick } ∧
      ∀ n ∈ s.upPorts .crl, (s.port .crl n).state = .up →
        ∃ c ∈ (t.port .crl n).tx, c.cls = clsTime ∧ c.typ = 0x10 ∧ c.body = qwordBody (ownQword s)) ∧
  (∀ (s : State), s.isTimeRoot = false ∨ (∃ x, s.crl.ref.qwordAt = some x ∧ s.cc.time.tick < x + 1_024_000) → gives .qwordOriginate s s) ∧
  (∀ (n : Nat) (m : Qword) (s : State), n < 2 → gives (.qwordReceived .spn n m) s (s.modTime .spn (fun x => { x with qword := some m }))) ∧
  (∀ (n : Nat) (m : Qword) (s : State), n < 129 → n ≠ pxPort → s.cc.time.engA.port = some n → s.isTimeRoot = false →
    ∃ t, exec (.qwordReceived .crl n m) s = .next t ∧ Elsewhere .crl s t ∧ t.cc.time = { s.cc.time with qword := some m } ∧
      ∀ k ∈ s.upPorts .crl, (s.port .crl k).state = .up → ∃ c ∈ (t.port .crl k).tx, c.cls = clsTime ∧ c.typ = 0x10 ∧ c.body = qwordBody m) ∧
  (∀ (n : Nat) (m : Qword) (s : State), n < 129 → n ≠ pxPort → s.cc.time.engA.port ≠ some n ∨ s.isTimeRoot = true →
    gives (.qwordReceived .crl n m) s s) ∧
  (∀ (m : Qword) (s : State), ∃ t, exec (.qwordReceived .crl pxPort m) s = .next t ∧ Elsewhere .crl s t ∧ (t.ref 7).lastEsmc = s.cc.time.tick ∧
    (t.ref 7).iq = iqOfClass m.rclass ∧ (t.ref 7).state ≠ .disabled ∧ (t.ref 7).state ≠ .failed ∧
    (s.isFollowRoot = true → t.cc.time.qword = some m ∧ (s.crl.ref.state = .follow → t.crl.ref.cls = m.rclass))) ∧
  (∀ (s : State), (s.ref 7).lastEsmc + 2_048_000 ≤ s.cc.time.tick → (s.ref 7).state ≠ .disabled → (s.ref 7).state ≠ .failed →
    ∃ t, exec .qwordTimeout s = .next t ∧ Elsewhere .crl s t ∧ (t.ref 7).state = .failed ∧ (t.reg .crl 0x3014).testBit 4 = true) ∧
  (∀ (s : State), s.cc.time.tick < (s.ref 7).lastEsmc + 2_048_000 ∨ (s.ref 7).state = .disabled ∨ (s.ref 7).state = .failed →
    gives .qwordTimeout s s)

/-! ## The time-interval unit -/

/-- An edge goes to every job, and a job whose last stop it is ends; one on an external input outside its dead time is stamped and counted, and
one within it, within 200 ns of an injected edge or before the first calibration is not reported (R160, R161, R166, R172, R173); a job that is
not cancelled ends at its timeout, and one without a start at its arm timeout, and no other job ends (R167); a change of configuration settles
(R161); a temperature move of more than 10 degrees since the last calibration starts one (R172). -/
def Obligations.IntervalUnitRuns : Prop :=
(∀ (src port fine : Nat) (s : State) (at_ : Int), src ≤ 0x10 → port < 129 → s.crl.ti.linValid = true →
    (src < 8 → (∀ x, (s.tiIn src).lastEdge = some x → x + s.deadTime src ≤ edgeSeen src fine s) ∧
      ∀ x, (s.tiIn src).injected = some x → x + 200 ≤ s.cc.time.tick) →
    (0x0C ≤ src → src ≤ 0x0F → (s.port .crl port).timed = true) → at_ = edgeInstant src fine s →
    ∃ t, exec (.tiInputEdge src port fine) s = .next t ∧ Elsewhere .crl s t ∧
      (src < 8 → (t.tiIn src).seq = ((s.tiIn src).seq + 1) % 65536 ∧ (t.tiIn src).lastEdge = some (edgeSeen src fine s) ∧
        (t.tiIn src).last = s.gt .crl + (at_ - (s.cc.time.tick : Int) * 65536)) ∧
      ∀ j, j ∈ t.crl.ti.jobs ↔ j.full = false ∧ ∃ k ∈ s.crl.ti.jobs,
        j = jobEdge (src + 256 * (if 0x0C ≤ src ∧ src ≤ 0x0F then port else 0)) at_.toNat
          (s.gt .crl + (at_ - (s.cc.time.tick : Int) * 65536)) (s.tq .crl) k) ∧
  (∀ (src port fine : Nat) (s : State), src ≤ 0x10 → port < 129 →
    s.crl.ti.linValid = false ∨ (src < 8 ∧ ∃ x, (s.tiIn src).lastEdge = some x ∧ edgeSeen src fine s < x + s.deadTime src) ∨
      (0x0C ≤ src ∧ src ≤ 0x0F ∧ (s.port .crl port).timed = false) → gives (.tiInputEdge src port fine) s s) ∧
  (∀ (n port fine x : Nat) (s : State), n < 8 → port < 129 → s.crl.ti.linValid = true → (s.tiIn n).injected = some x → s.cc.time.tick < x + 200 →
    (∀ y, (s.tiIn n).lastEdge = some y → y + s.deadTime n ≤ edgeSeen n fine s) →
    ∃ t, exec (.tiInputEdge n port fine) s = .next t ∧ Elsewhere .crl s t ∧ (t.tiIn n) = { s.tiIn n with lost := true } ∧
      t.reg .crl 0x340C = min (s.reg .crl 0x340C + 1) 0xFFFF_FFFF ∧ (t.reg .crl 0x3404).testBit 2 = true ∧
      t.crl.ti.jobs = s.crl.ti.jobs.map (fun j => if j.start = n ∨ (∃ y ∈ j.stops, y.src = n) then { j with lost := true } else j)) ∧
  (∀ (tag : Nat) (s : State), ∃ t, exec (.tiJobTimeout tag) s = .next t ∧ Elsewhere .crl s t ∧ ∀ j, j ∈ t.crl.ti.jobs ↔ j ∈ s.crl.ti.jobs ∧
    ¬(j.cancelled = false ∧ j.tag = tag ∧ j.timeout ≠ 0 ∧ ∃ x, j.startAt = some x ∧ x.1 + j.timeout * 65536 ≤ s.cc.time.tick * 65536)) ∧
  (∀ (tag : Nat) (s : State), ∃ t, exec (.tiArmTimeout tag) s = .next t ∧ Elsewhere .crl s t ∧ ∀ j, j ∈ t.crl.ti.jobs ↔ j ∈ s.crl.ti.jobs ∧
    ¬(j.cancelled = false ∧ j.tag = tag ∧ j.armTo ≠ 0 ∧ j.startAt = none ∧ j.armed + j.armTo * 1_000_000 ≤ s.cc.time.tick)) ∧
  (∀ (x : Nat) (s : State), gives (.tiTempCalTrigger x) s { s with
    crl.ti.temp := some x
    crl.ti.calSelf := if s.crl.ti.linValid = true ∧ s.crl.ti.calSelf = none ∧ 1000 < ((x : Int) - s.crl.ti.calTemp).natAbs then some 0
      else s.crl.ti.calSelf }) ∧
  (∀ (n : Nat) (s : State), n < 8 → gives (.tiInputSettled n) s (s.modTi n (fun i => { i with settleAt := none })))

/-- In-band calibration gives a channel a new table from its hits per code and an input or tap its delay, injects edges on inputs that have
been quiet for 2 s or have seen an edge 400 to 600 ms before, and moves a port's latencies toward the means of its 64 intervals by at most 65
units, leaving and naming one that is more than 200 ps from its trim (R171, R173 to R175); LP_ASYM follows from ALPHA and the path delay, where
ALPHA is given and no host writes it in that cycle (R78, R176). -/
def Obligations.CalibrationFollowsMeasurement : Prop :=
(∀ (ch : Nat) (hits : List Nat) (d : Int) (s : State), ch < 17 → s.inbandCal = true → hits.length = 256 → hits.sum = 2 ^ 20 →
    gives (.tiInbandCalCycle ch hits d) s { s with
      crl.ti.spare := match tfind s.crl.ti.tables ch with
        | some old => tput s.crl.ti.spare ch old
        | none => s.crl.ti.spare
      crl.ti.tables := tput s.crl.ti.tables ch ((List.range 256).map (fun k => min 65535 ((hits.take k).sum / 16)))
      crl.ti.delays := if ch < 12 then tset 0 s.crl.ti.delays ch (if ch = 0 then 0 else d) else s.crl.ti.delays }) ∧
  (∀ (ch : Nat) (hits : List Nat) (d : Int) (s : State), ch < 17 → s.inbandCal = false → hits.length = 256 → hits.sum = 2 ^ 20 →
    gives (.tiInbandCalCycle ch hits d) s s) ∧
  (∀ (n : Nat) (s : State), n < 8 → s.inbandCal = true →
    (s.tiOwned n = false ∧ (s.reg .crl (tiInOff n)).testBit 13 = true ∧ 2_000_000_000 ≤ s.cc.time.tick ∧
      ∀ x, (s.tiIn n).lastEdge = some x → x + 2_000_000_000 * 65536 ≤ s.cc.time.tick * 65536) ∨
    (∃ x ∈ (s.tiIn n).recent, x + 400_000_000 ≤ s.cc.time.tick ∧ s.cc.time.tick ≤ x + 600_000_000) →
    gives (.tiDelayInjection n) s (s.modTi n (fun i => { i with injected := some s.cc.time.tick }))) ∧
  (∀ (n : Nat) (s : State), n < 8 → s.inbandCal = false ∨ ((∀ x ∈ (s.tiIn n).recent, x + 600_000_000 < s.cc.time.tick) ∧
      ((s.tiOwned n = true ∨ (s.reg .crl (tiInOff n)).testBit 13 = false))) →
    gives (.tiDelayInjection n) s s) ∧
  (∀ (n : Nat) (txs rxs : List Int) (s : State) (tx rx : Int) (a b : Int × Int), n < 129 → txs.length = 64 → rxs.length = 64 → s.inbandCal = true →
    (s.port .crl n).timed = true → coreDown .crl (pccOf n) s = false → a = (mean64 txs, mean64 rxs) →
    tx = a.1 + (tget (0, 0) s.cc.topo.ktrims n).1 → rx = a.2 + (tget (0, 0) s.cc.topo.ktrims n).2 →
    b = ((s.reg .crl (portBase .crl n + 0x08) : Int), (s.reg .crl (portBase .crl n + 0x0C) : Int)) →
    (tx - (tget (0, 0) s.cc.topo.trims n).1).natAbs * 10 ≤ 131072 → (rx - (tget (0, 0) s.cc.topo.trims n).2).natAbs * 10 ≤ 131072 →
    gives (.inbandPortVisit n txs rxs) s
      ((s.setReg .crl (portBase .crl n + 0x08) (b.1 + max (-65) (min (tx - b.1) 65)).toNat).setReg .crl (portBase .crl n + 0x0C)
        (b.2 + max (-65) (min (rx - b.2) 65)).toNat)) ∧
  (∀ (n : Nat) (txs rxs : List Int) (s : State), n < 129 → txs.length = 64 → rxs.length = 64 → s.inbandCal = true →
    (s.port .crl n).timed = true → coreDown .crl (pccOf n) s = false →
    131072 < (mean64 txs + (tget (0, 0) s.cc.topo.ktrims n).1 - (tget (0, 0) s.cc.topo.trims n).1).natAbs * 10 →
    ∃ t, exec (.inbandPortVisit n txs rxs) s = .next t ∧ Elsewhere .crl s t ∧
      t.reg .crl (portBase .crl n + 0x08) = s.reg .crl (portBase .crl n + 0x08) ∧ (t.reg .crl 0x3404).testBit 4 = true) ∧
  (∀ (n : Nat) (txs rxs : List Int) (s : State), n < 129 → txs.length = 64 → rxs.length = 64 →
    s.inbandCal = false ∨ (s.port .crl n).timed = false ∨ coreDown .crl (pccOf n) s = true → gives (.inbandPortVisit n txs rxs) s s) ∧
  (∀ (p : Part) (n : Nat) (s : State) (l : TopoLink), n < p.ports → tfind (s.core p).topo.links n = some l → l.alpha ≠ -0x8000_0000 →
    s.lowerEnd p n = true → (s.port p n).timed = true → (s.port p n).asymHost ≠ some (s.tick p) →
    gives (.asymUpdate p n) s ((s.setReg p (portBase p n + 0x10)
      (toUnsigned 32 (roundRat ((l.alpha : Rat) * (s.port p n).exch.dAvg / 2 / (2 ^ 32 : Rat))))).modPort p n (fun q => { q with asymFw := true }))) ∧
  (∀ (p : Part) (n : Nat) (s : State), n < p.ports →
    (∀ l, tfind (s.core p).topo.links n = some l → l.alpha = -0x8000_0000 ∨ s.lowerEnd p n = false ∨ (s.port p n).timed = false ∨
      (s.port p n).asymHost = some (s.tick p)) → gives (.asymUpdate p n) s s)

/-! ## The reference and holdover unit -/

/-- A reference that misses its pulses, its edges, its announcements or its ESMC, or loses its secure channel or its signal, is FAILED, unless
it is DISABLED; before the time is up nothing changes (R131, R135).
A frequency input that meets its long window is QUALIFIED the first time since reset and waits to restore afterwards, a PF that misses its
short one is FAILED, and any other window changes nothing; WTR ends after its time (R135). An ESMC PDU of the secure channel gives the FIQ of
its SSM code and, in status, the code of its extended TLV (R128, R131); the SSM sent is QL-DNU on the port whose SyncE is selected, else the
root class's (R133). -/
def Obligations.ReferencesFailAndQualify : Prop :=
(∀ (n : Nat) (l : Int) (s : State), n < 2 → (s.ref n).lastAt = some l → l + 1100 * 65_536_000_000 ≤ (s.cc.time.tick : Int) * 65536 →
    ∃ t, exec (.pfPulseTimeout n) s = .next t ∧ Elsewhere .crl s t ∧ (t.ref n).lastAt = none ∧
      (t.ref n).state = if (s.ref n).state = .disabled then .disabled else .failed) ∧
  (∀ (n : Nat) (s : State), n < 2 → (∀ l, (s.ref n).lastAt = some l → (s.cc.time.tick : Int) * 65536 < l + 1100 * 65_536_000_000) →
    gives (.pfPulseTimeout n) s s) ∧
  (∀ (n : Nat) (s : State), n < 2 → ∃ t, exec (.pf10mNoEdge n) s = .next t ∧ Elsewhere .crl s t ∧
    (t.ref n).fstate = if (s.ref n).fstate = .disabled then .disabled else .failed) ∧
  (∀ (e : Nat) (s : State), e < 4 → (s.ref (2 + e)).lastAnn + 375_000_000 ≤ s.cc.time.tick →
    ∃ t, exec (.announceReceiptTimeout e) s = .next t ∧ Elsewhere .crl s t ∧ (t.ref (2 + e)).slave = false ∧ (t.ref (2 + e)).parent = none ∧
      (t.ref (2 + e)).state = if (s.ref (2 + e)).state = .disabled then .disabled else .failed) ∧
  (∀ (e : Nat) (s : State), e < 4 → s.cc.time.tick < (s.ref (2 + e)).lastAnn + 375_000_000 → gives (.announceReceiptTimeout e) s s) ∧
  (∀ (e : Nat) (s : State), e < 4 → (s.ref (2 + e)).lastEsmc + 5_000_000_000 ≤ s.cc.time.tick →
    ∃ t, exec (.esmcTimeout e) s = .next t ∧ Elsewhere .crl s t ∧ (t.ref (2 + e)).fiq = 0xF ∧
      (t.ref (2 + e)).fstate = if (s.ref (2 + e)).fstate = .disabled then .disabled else .failed) ∧
  (∀ (e : Nat) (s : State), e < 4 → s.cc.time.tick < (s.ref (2 + e)).lastEsmc + 5_000_000_000 → gives (.esmcTimeout e) s s) ∧
  (∀ (e : Nat) (los : Bool) (s : State), e < 4 →
    ∃ t, exec (.ethLos ⟨e, los⟩) s = .next t ∧ Elsewhere .crl s t ∧ (t.ref (2 + e)).slave = false ∧ (t.ref (2 + e)).macsec = false ∧
      (t.ref (2 + e)).parent = none ∧ (t.ref (2 + e)).state = (if (s.ref (2 + e)).state = .disabled then .disabled else .failed) ∧
      (t.ref (2 + e)).fstate =
        if los = true then (if (s.ref (2 + e)).fstate = .disabled then .disabled else .failed) else (s.ref (2 + e)).fstate) ∧
(∀ (n : Nat) (ppb : Int) (s : State), n < 6 → ppb.natAbs ≤ (if n < 2 then 1000 else 4600) → (2 ≤ n → (s.ref n).fiq ≠ 0xF) →
    (s.ref n).fstate = .qualifying ∨ (s.ref n).fstate = .failed →
    ∃ t, exec (.freqMeasureWindow n ppb false) s = .next t ∧ Elsewhere .crl s t ∧ (t.ref n).fstate = (if (s.ref n).ffirst then .qualified else .wtr) ∧
      (t.ref n).ffirst = false) ∧
  (∀ (n : Nat) (ppb : Int) (s : State), n < 2 → 2000 < ppb.natAbs →
    ∃ t, exec (.freqMeasureWindow n ppb true) s = .next t ∧ Elsewhere .crl s t ∧
      (t.ref n).fstate = if (s.ref n).fstate = .disabled then .disabled else .failed) ∧
  (∀ (n : Nat) (ppb : Int) (short : Bool) (s : State), n < 8 →
    (n < 2 ∧ short = true ∧ ppb.natAbs ≤ 2000) ∨ (n < 2 ∧ short = false ∧ 1000 < ppb.natAbs) ∨
      (2 ≤ n ∧ (short = true ∨ 6 ≤ n ∨ 4600 < ppb.natAbs ∨ (s.ref n).fiq = 0xF)) →
    gives (.freqMeasureWindow n ppb short) s s) ∧
  (∀ (n : Nat) (s : State), n < 8 → ∃ t, exec (.refWtrExpiry n) s = .next t ∧ Elsewhere .crl s t ∧
    (t.ref n).state = (if (s.ref n).state = .wtr ∧ (s.ref n).since + s.wtrTicks ≤ s.cc.time.tick then .qualified else (s.ref n).state) ∧
    (t.ref n).fstate = if (s.ref n).fstate = .wtr ∧ (s.ref n).fsince + s.wtrTicks ≤ s.cc.time.tick then .qualified else (s.ref n).fstate) ∧
  (∀ (e : Nat) (m : EsmcMsg) (s : State), e < 4 → m.secured = true →
    ∃ t, exec (.esmcReceived e m) s = .next t ∧ Elsewhere .crl s t ∧ (t.ref (2 + e)).ssm = m.ssm % 16 ∧ (t.ref (2 + e)).fiq = fiqOfSsm m.ssm ∧
      (t.ref (2 + e)).extQl = m.ext ∧ (t.ref (2 + e)).lastEsmc = s.cc.time.tick ∧
      (fiqOfSsm m.ssm = 0xF → (s.ref (2 + e)).fstate ≠ .disabled → (t.ref (2 + e)).fstate = .failed) ∧
      (fiqOfSsm m.ssm ≠ 0xF → (t.ref (2 + e)).fstate = if (s.ref (2 + e)).fstate = .failed then .qualifying else (s.ref (2 + e)).fstate)) ∧
  (∀ (e : Nat) (m : EsmcMsg) (s : State), e < 4 → m.secured = false → gives (.esmcReceived e m) s s) ∧
  (∀ (e : Nat) (s : State), e < 4 → gives (.esmcSend e) s (s.modRef (2 + e) (fun r =>
    { r with outSsm := if s.crl.ref.freqSel = some (2 + e) then 0xF else (classOut (s.rootClass .crl)).2 })))

/-- A valid time-of-day message in time is held for the next pulse of the PF it names, an invalid one or a missing one is counted and the second
in a row fails the TOD reference; an invalid status gives it IQ 0xF (R129, R130, R132, R135). That one outside its time counts as invalid is
the model's choice (log entry 144).
An Announce that comes in the secure channel, in a domain of 24 to 43, from the port's master or from a better one gives the port its
clockClass, its IQ and its role (R128, R130; the order of the BMCA is the model's, log entry 149); Sync, Follow_Up, Delay_Req and Delay_Resp
of the secure channel make the phase of the port from their four stamps and its delay, and after 16 s without a gap of three intervals qualify
it (R128, R135, R158; what counts as a gap is the model's, log entry 145); a master port announces the class of the root unless it is UNKNOWN,
and answers Delay_Req (R128, R133). -/
def Obligations.TimeOfDayAndPtpPorts : Prop :=
(∀ (m : Bytes) (s : State), todValid m = true → todInTime (rdLe m 16 1) s = true →
    ∃ t, exec (.todMessageReceived m) s = .next t ∧ Elsewhere .crl s t ∧ t.crl.ref.todBad = 0 ∧ t.crl.ref.todPf = rdLe m 16 1 ∧
      tfind t.crl.ref.todPend (rdLe m 16 1) = some (rdLe m 4 8) ∧
      (t.ref 6).sec = rdLe m 4 8 ∧ (t.ref 6).iq = rdLe m 15 1 + 1 ∧ (t.ref 6).lastAnn = s.cc.time.tick) ∧
  (∀ (m : Bytes) (s : State), todValid m = false ∨ todInTime (rdLe m 16 1) s = false →
    ∃ t, exec (.todMessageReceived m) s = .next t ∧ Elsewhere .crl s t ∧ t.crl.ref.todBad = s.crl.ref.todBad + 1 ∧
      (t.ref 6).lastAnn = s.cc.time.tick ∧ t.crl.ref.todPend = s.crl.ref.todPend ∧
      (t.ref 6).iq = (if todFrame m = true ∧ 4 ≤ rdLe m 15 1 then 0xF else (s.ref 6).iq) ∧
      (1 ≤ s.crl.ref.todBad → (s.ref 6).state ≠ .disabled → (t.ref 6).state = .failed)) ∧
  (∀ (n : Nat) (l : Int) (s : State), n < 2 → s.todPair n = true ∨ n = s.crl.ref.todPf → (s.ref n).lastAt = some l →
    l + 900 * 65_536_000_000 ≤ (s.cc.time.tick : Int) * 65536 → ((s.ref 6).lastAnn : Int) * 65536 < l → (s.ref 6).state ≠ .disabled →
    ∃ t, exec .todMessageTimeout s = .next t ∧ Elsewhere .crl s t ∧ t.crl.ref.todBad = s.crl.ref.todBad + 1 ∧
      (t.ref 6).lastAnn = s.cc.time.tick ∧ (1 ≤ s.crl.ref.todBad → (t.ref 6).state = .failed)) ∧
  (∀ (s : State), (s.ref 6).state = .disabled ∨ (∀ n l, n < 2 → s.todPair n = true ∨ n = s.crl.ref.todPf → (s.ref n).lastAt = some l →
      (s.cc.time.tick : Int) * 65536 < l + 900 * 65_536_000_000 ∨ l ≤ ((s.ref 6).lastAnn : Int) * 65536) → gives .todMessageTimeout s s) ∧
(∀ (e : Nat) (m : AnnounceMsg) (s : State), e < 4 → m.secured = true → 24 ≤ m.domain → m.domain ≤ 43 →
    (∀ x, (s.ref (2 + e)).parent = some x → x.1 = m.sender ∨ rankLess (announceRank m) x.2 = true) →
    ∃ t, exec (.ptpAnnounceReceived e m) s = .next t ∧ Elsewhere .crl s t ∧ (t.ref (2 + e)).cclass = m.clockClass ∧ (t.ref (2 + e)).iq = iqOfClockClass m.clockClass ∧
      (t.ref (2 + e)).slave = !(s.ref (2 + e)).master ∧ (t.ref (2 + e)).parent = some (m.sender, announceRank m) ∧
      (t.ref (2 + e)).macsec = true ∧ (t.ref (2 + e)).lastAnn = s.cc.time.tick ∧
      (t.ref (2 + e)).state = if iqOfClockClass m.clockClass = 0xF then (if (s.ref (2 + e)).state = .disabled then .disabled else .failed)
        else if (s.ref (2 + e)).state = .failed then .qualifying else (s.ref (2 + e)).state) ∧
  (∀ (e : Nat) (m : AnnounceMsg) (s : State), e < 4 → m.secured = false ∨ m.domain < 24 ∨ 43 < m.domain ∨
    (∃ x, (s.ref (2 + e)).parent = some x ∧ x.1 ≠ m.sender ∧ rankLess (announceRank m) x.2 = false) → gives (.ptpAnnounceReceived e m) s s) ∧
  (∀ (e seq : Nat) (o : Option Int) (x : Int) (s : State), e < 4 → (s.ref (2 + e)).slave = true → (s.ref (2 + e)).macsec = true →
    gives (.ptpSyncReceived e seq o x) s (s.modRef (2 + e) (fun r => { r with
      lastSync := some (seq, o, x), syncAt := s.cc.time.tick, good := if r.syncAt + 187_500_000 < s.cc.time.tick then 0 else r.good }))) ∧
  (∀ (e seq : Nat) (o x : Int) (s : State), e < 4 → (s.ref (2 + e)).lastSync = some (seq, none, x) → (s.ref (2 + e)).macsec = true →
    gives (.ptpFollowUpReceived e seq o) s (s.modRef (2 + e) (fun r => { r with lastSync := some (seq, some o, x) }))) ∧
  (∀ (e : Nat) (s : State), e < 4 → (s.ref (2 + e)).slave = true →
    gives (.ptpDelayReqSend e) s (s.modRef (2 + e) (fun r => { r with delaySeq := (r.delaySeq + 1) % 65536, delayT3 := some (s.gt .crl) }))) ∧
  (∀ (e seq : Nat) (o : Option Int) (x y : Int) (s : State), e < 4 → (s.ref (2 + e)).slave = false →
    (∃ t, exec (.ptpSyncReceived e seq o x) s = .next t ∧ Elsewhere .crl s t ∧ ∀ n, t.ref n = s.ref n) ∧
    (∃ t, exec (.ptpDelayReqSend e) s = .next t ∧ Elsewhere .crl s t ∧ ∀ n, t.ref n = s.ref n) ∧
    gives (.ptpDelayRespReceived e seq y) s s) ∧
  (∀ (e seq k : Nat) (t1 t2 t3 t4 : Int) (s : State) (goes : Bool) (r : Ref), e < 4 → r = s.ref (2 + e) → r.slave = true → r.macsec = true →
    r.lastSync = some (k, some t1, t2) → r.delayT3 = some t3 → r.delaySeq = seq →
    goes = (0 < r.good && s.cc.time.tick ≤ r.respAt + 187_500_000 && s.cc.time.tick ≤ r.syncAt + 187_500_000) →
    ∃ t, exec (.ptpDelayRespReceived e seq t4) s = .next t ∧ Elsewhere .crl s t ∧ (t.ref (2 + e)).delayT3 = none ∧
      (t.ref (2 + e)).respAt = s.cc.time.tick ∧ (t.ref (2 + e)).good = (if goes then r.good + 1 else 1) ∧
      (t.ref (2 + e)).state = (if r.state = .qualifying ∧ goes = true ∧ r.since + 16_000_000_000 ≤ s.cc.time.tick ∧ r.iq ≠ 0xF then
        (if r.first then .qualified else .wtr) else r.state) ∧
      (r.state = .qualified → (t.ref (2 + e)).phase = -(((t2 - t1) - (t4 - t3)) / 2) + s.refDelay (2 + e))) ∧
  (∀ (e seq : Nat) (t4 : Int) (s : State), e < 4 → (s.ref (2 + e)).delaySeq ≠ seq ∨ (s.ref (2 + e)).macsec = false ∨ (s.ref (2 + e)).delayT3 = none →
    gives (.ptpDelayRespReceived e seq t4) s s) ∧
  (∀ (e : Nat) (s : State), e < 4 → (s.ref (2 + e)).master = true → s.rootClass .crl ≠ 0xF →
    gives (.ptpMasterSend e) s (s.modRef (2 + e) (fun r => { r with outClass := (classOut (s.rootClass .crl)).1 }))) ∧
  (∀ (e : Nat) (s : State), e < 4 → ((s.ref (2 + e)).master = false ∨ s.rootClass .crl = 0xF) →
    ∃ t, exec (.ptpMasterSend e) s = .next t ∧ Elsewhere .crl s t ∧ ∀ n, t.ref n = s.ref n) ∧
  (∀ (e seq : Nat) (x : Int) (s : State), e < 4 → (s.ref (2 + e)).master = true → (s.ref (2 + e)).macsec = true →
    gives (.ptpDelayReqReceived e seq x) s (s.modRef (2 + e) (fun r => { r with outResp := some (seq, x) }))) ∧
  (∀ (e seq : Nat) (x : Int) (s : State), e < 4 → (s.ref (2 + e)).master = false ∨ (s.ref (2 + e)).macsec = false →
    ∃ t, exec (.ptpDelayReqReceived e seq x) s = .next t ∧ Elsewhere .crl s t ∧ ∀ n, t.ref n = s.ref n)

/-- ACQUIRE ends in LOCKED after 60 s within 20 ns, and only then (R140); holdover of class 1 falls to class 2 past 8 hours or past 2 °C, and
only then (R144); what it learns comes after 4 hours of IQ 1 in LOCKED (R144); firmware's ageing is written once an hour of LOCKED with LEARN
(R143); a slew ends (R148).
A pulse output drives its edge at its programmed instant where it is enabled, TQ is known, its partition is held and the input it follows has
pulsed: aligned to plane time at a whole second plus OFFSET, and on an input a whole number of seconds after its pulse plus OFFSET, from the
second one on as a flywheel; a PPS or STEP pulse has the sense of POLARITY and lasts WIDTH µs, 0 acting as 1. A new offset and source take
effect there at least 1 ms after their write (R151 to R153, R159). -/
def Obligations.ReferenceUnitAndOutputs : Prop :=
(∀ (x : Nat) (s : State), s.crl.ref.within = some x → s.crl.ref.state = .acquire → x + 60_000_000_000 ≤ s.cc.time.tick →
    ∃ t, exec .acquireLockTimer s = .next t ∧ Elsewhere .crl s t ∧ t.crl.ref.state = .locked ∧ t.crl.ref.everLock = true ∧ t.crl.ref.hoStart = none ∧
      (t.reg .crl 0x3014).testBit 3 = true) ∧
  (∀ (s : State), s.crl.ref.state ≠ .acquire ∨ (∀ x, s.crl.ref.within = some x → s.cc.time.tick < x + 60_000_000_000) →
    gives .acquireLockTimer s s) ∧
  (∀ (temp : Int) (s : State), s.crl.ref.state = .holdover → s.crl.ref.cls = 1 →
    (28_800_000_000_000 < s.crl.ref.hoElapsed s.cc.time.tick ∨ 200 < (temp - s.crl.ref.hoTemp).natAbs) →
    ∃ t, exec (.holdoverClassTimer temp) s = .next t ∧ Elsewhere .crl s t ∧ t.crl.ref = { s.crl.ref with temp := temp, cls := 2 } ∧
      (t.reg .crl 0x3014).testBit 2 = true) ∧
  (∀ (temp : Int) (s : State), s.crl.ref.state ≠ .holdover ∨ s.crl.ref.cls ≠ 1 ∨
    (s.crl.ref.hoElapsed s.cc.time.tick ≤ 28_800_000_000_000 ∧ (temp - s.crl.ref.hoTemp).natAbs ≤ 200) →
    gives (.holdoverClassTimer temp) s { s with crl.ref.temp := temp }) ∧
  (∀ (x : Nat) (s : State), s.crl.ref.iq1Since = some x → s.crl.ref.state = .locked → x + 14_400_000_000_000 ≤ s.cc.time.tick →
    gives .hoLearnedTimer s { s with crl.ref.learned := true }) ∧
  (∀ (s : State), s.crl.ref.state ≠ .locked ∨ (∀ x, s.crl.ref.iq1Since = some x → s.cc.time.tick < x + 14_400_000_000_000) →
    gives .hoLearnedTimer s s) ∧
  (∀ (v : Word) (s : State), (s.reg .crl 0x3000).testBit 5 = true → s.crl.ref.state = .locked →
    s.crl.ref.lastAge + 3_600_000_000_000 ≤ s.cc.time.tick →
    gives (.ageingLearnUpdate v) s { s.setReg .crl 0x300C v.toNat with crl.ref.lastAge := s.cc.time.tick }) ∧
  (∀ (v : Word) (s : State), (s.reg .crl 0x3000).testBit 5 = false ∨ s.crl.ref.state ≠ .locked ∨
    s.cc.time.tick < s.crl.ref.lastAge + 3_600_000_000_000 → gives (.ageingLearnUpdate v) s s) ∧
  (∀ (s : State), gives .slewEnd s { s with crl.ref.slew := none }) ∧
(∀ (m : Nat) (s : State) (o : POut), m < 4 → o = s.pout m → o.pendOff = none → o.pendSrc = none →
    ∃ t, exec (.pulseOutputEdge m) s = .next t ∧ Elsewhere .crl s t ∧ (∀ k, k ≠ m → t.pout k = s.pout k) ∧ t.pout m = { o with
      edge := if s.outDrives m = true ∧ (o.src = 0 ∨ o.lastIn.isSome = true) then
        some (outEdge m (s.reg .crl (outOff m)) (edgeInstantOf m o (s.gt .crl) s).1) else none
      fly := o.fly || 2 ≤ (edgeInstantOf m o (s.gt .crl) s).2 }) ∧
  (∀ (m : Nat) (s : State) (o : POut), m < 4 → m ≠ 1 → o = s.pout m → o.pendOff = none → o.pendSrc = none → o.src = 0 → s.outDrives m = true →
    ∃ t e, exec (.pulseOutputEdge m) s = .next t ∧ Elsewhere .crl s t ∧ (t.pout m).edge = some e ∧
      e.at_ = nearestSecond (s.gt .crl - o.offset) * unitsPerSec + o.offset ∧
      (m = 0 → e.rising = !(s.reg .crl (outOff 0)).testBit 5 ∧
        e.until_ = some (e.at_ + 65_536_000 * max 1 (bits (s.reg .crl (outOff 0)) 8 8)))) ∧
  (∀ (m : Nat) (s : State) (o : POut) (x n : Int), m < 4 → o = s.pout m → o.pendOff = none → o.pendSrc = none → o.src ≠ 0 → o.lastIn = some x →
    s.outDrives m = true → n = max 1 (nearestSecond (s.gt .crl - o.offset - x)) →
    ∃ t e, exec (.pulseOutputEdge m) s = .next t ∧ Elsewhere .crl s t ∧ (t.pout m).edge = some e ∧ e.at_ = x + n * unitsPerSec + o.offset ∧
      (t.pout m).fly = (o.fly || 2 ≤ n)) ∧
  (∀ (m x : Nat) (v : Int) (s : State), m < 4 → (s.pout m).pendOff = some (x, v) →
    ∃ t, exec (.pulseOutputEdge m) s = .next t ∧ Elsewhere .crl s t ∧
      (x + 1_000_000 ≤ s.cc.time.tick → (t.pout m).offset = v ∧ (t.pout m).pendOff = none) ∧
      (s.cc.time.tick < x + 1_000_000 → (t.pout m).offset = (s.pout m).offset ∧ (t.pout m).pendOff = some (x, v))) ∧
  (∀ (m x k : Nat) (s : State), m < 4 → (s.pout m).pendSrc = some (x, k) → x + 1_000_000 ≤ s.cc.time.tick →
    ∃ t, exec (.pulseOutputEdge m) s = .next t ∧ Elsewhere .crl s t ∧ (t.pout m).src = k ∧ (t.pout m).pendSrc = none ∧ (t.pout m).lastIn = none ∧
      (t.pout m).fly = ((s.pout m).fly && decide (k ≠ 0)) ∧ (k ≠ 0 → (t.pout m).edge = none)) ∧
  (∀ (m x k : Nat) (s : State), m < 4 → (s.pout m).pendSrc = some (x, k) → s.cc.time.tick < x + 1_000_000 →
    ∃ t, exec (.pulseOutputEdge m) s = .next t ∧ Elsewhere .crl s t ∧ (t.pout m).src = (s.pout m).src ∧ (t.pout m).pendSrc = some (x, k))

/-! ## Launches at a member -/

/-- LAUNCH_SET adds a pending launch unless its commit number pends already, with its late bit where it comes after L - 2 T_RDY; WITHDRAW takes one
off and leaves the others' counts, GO names the count and the index of a launch, SLIP moves every launch from its count on, which is judged
anew; none of them touches the active bank (R187 to R189, R198, R208).
A member reports once for each count of a launch, at L - T_RDY or earlier where it is the next launch and all conditions hold, whether it is
ready, up the launch tree (R195 to R197); without time it is not ready, with reason 1 (R196); a cluster whose cores have ended, with no wait and
no arrival, has ended its step, and its region is gated (R217, R284, R290). -/
def Obligations.LaunchCellsAndReadiness : Prop :=
(∀ (l idx c : Nat) (s : State), s.pendingC c = false →
    ∃ t, exec (.launchSetReceived l idx c) s = .next t ∧ Elsewhere .spn s t ∧ (∀ x, x ∈ t.spn.launch.pend ↔ x ∈ s.spn.launch.pend ∨ x = { l := l, idx := idx, c := c }) ∧
      t.spn.banks = s.spn.banks ∧ (l < s.ldtc + 2 * s.spn.launch.trdy → (t.reg .spn 0x081C).testBit 6 = true)) ∧
  (∀ (l idx c : Nat) (s : State), s.pendingC c = true → gives (.launchSetReceived l idx c) s s) ∧
  (∀ (l : Nat) (s : State) (p : Pend), p ∈ s.spn.launch.pend → p.l = l →
    ∃ t, exec (.withdrawReceived l) s = .next t ∧ Elsewhere .spn s t ∧ (∀ x, x ∈ t.spn.launch.pend ↔ x ∈ s.spn.launch.pend ∧ x.l ≠ l) ∧
      t.spn.banks.active = s.spn.banks.active) ∧
  (∀ (l : Nat) (s : State), (∀ p ∈ s.spn.launch.pend, p.l ≠ l) → gives (.withdrawReceived l) s s) ∧
  (∀ (l at_ idx : Nat) (s : State), ∃ t, exec (.goReceived l at_ idx) s = .next t ∧ Elsewhere .spn s t ∧ t.spn.banks = s.spn.banks ∧
    ∀ x, x ∈ t.spn.launch.pend ↔ ∃ y ∈ s.spn.launch.pend, x = if y.l = l then { y with go := some (at_, idx) } else y) ∧
  (∀ (l l' n hea reason : Nat) (s : State), n < 2 ^ 32 → hea < 2 ^ 32 → reason < 256 →
    ∃ t, exec (.slipReceived l l' n hea reason) s = .next t ∧ Elsewhere .spn s t ∧ (t.reg .spn 0x081C).testBit 1 = true ∧
      t.spn.banks.active = s.spn.banks.active ∧ ∀ x, x ∈ t.spn.launch.pend ↔ ∃ y ∈ s.spn.launch.pend,
        x = if l ≤ y.l then { y with l := y.l + (l' - l), go := none, ready := false, sent := false } else y) ∧
(∀ (l n : Nat) (s : State) (p : Pend), s.spn.launch.pend.find? (fun y => y.l = l) = some p → p.sent = false → s.serves.1 ≠ 0 →
    l ≤ s.ldtc + s.spn.launch.trdy ∨ (notReadyFor l s = none ∧ s.spn.launch.next_ = none ∧ s.nextPend.map (·.l) = some l) →
    n = planeNat s.spn.banks.plane → (s.port .spn n).state = .up → (s.port .spn n).keys.peerUntrusted = false →
    ∃ t c, exec (.readinessEvaluation l) s = .next t ∧ Elsewhere .spn s t ∧ t.spn.launch.pend = s.spn.launch.pend.map (fun x =>
      if x.l = l then { x with sent := true, ready := (notReadyFor l s).isNone } else x) ∧ c ∈ (t.port .spn n).tx ∧ c.cls = clsCtl ∧ c.typ = 0x02 ∧
      c.tree = true ∧ c.up = true ∧ c.dst = launchTree ∧ c.part = s.serves.1 ∧
      ((notReadyFor l s).isSome = true → (t.reg .spn 0x081C).testBit 2 = true)) ∧
  (∀ (l : Nat) (s : State) (p : Pend), s.spn.launch.pend.find? (fun y => y.l = l) = some p →
    p.sent = true ∨ (s.ldtc + s.spn.launch.trdy < l ∧ ((notReadyFor l s).isSome = true ∨ s.spn.launch.next_.isSome = true ∨ s.nextPend.map (·.l) ≠ some l)) →
    gives (.readinessEvaluation l) s s) ∧
  (∀ (l : Nat) (s : State), s.timeReady = false → notReadyFor l s = some (1, 0)) ∧
  (∀ (c : Nat) (s : State), c < 32 → (s.cluster c).running = true →
    (∀ core ∈ s.cores, s.cluOf core = c → s.fenced core = false → s.coreWaits core = false ∧ ∀ ch, ch < 8 → core ∉ (s.bchan ch).arrived) →
    ∃ t, exec (.clusterStepEnd c) s = .next t ∧ Elsewhere .spn s t ∧ t.cluster c = { s.cluster c with running := false } ∧
      (∀ d, d ≠ c → t.cluster d = s.cluster d) ∧ ((∃ r, (c, r) ∈ s.spn.clocks.regions) → (t.region c).gated = true)) ∧
  (∀ (c core : Nat) (s : State), c < 32 → (s.cluster c).running = false ∨
    (core ∈ s.cores ∧ s.cluOf core = c ∧ s.fenced core = false ∧ (s.coreWaits core = true ∨ ∃ ch, ch < 8 ∧ core ∈ (s.bchan ch).arrived)) →
    gives (.clusterStepEnd c) s s)

/-- Before D nothing happens; at D a launch without its GO, or one that comes in HOLD or before LOCKED after it, is missed and the die holds (R47,
R200), and one with GO takes its bank image into the active bank, the shadow bank's or for a repeated launch the one kept of it, and waits for its
count, unless the die has left its partition (R201, R202); at L the step runs on its clusters (R203). That a launch in HOLD counts as missed is the
model's choice (log entry 141).
After a doff what was held enters the shadow bank (R194); a cell of a transaction is kept till its last comes, and then, or when its launch is
the next and the bank is open, the whole enters, unless it is another partition's or a byte stands in it twice (R68, R192, R193). A tree cell of a
partition that neither bank names is counted and dropped (R68). The active bank stays. -/
def Obligations.DoffsLaunchesAndTransactions : Prop :=
(∀ (m : DoffIn) (s : State), (∀ p, s.nextPend = some p → s.ldtc + 256 < p.at_ ∨ s.spn.launch.next_.isSome = true) → gives (.doff m) s s) ∧
  (∀ (m : DoffIn) (s : State) (p : Pend), s.nextPend = some p → p.at_ ≤ s.ldtc + 256 → s.spn.launch.next_ = none → p.go = none ∨ s.launchTime = false →
    ∃ t, exec (.doff m) s = .next t ∧ Elsewhere .spn s t ∧ t.spn.launch.held = true ∧ t.spn.launch.missRun = s.spn.launch.missRun + 1 ∧ t.spn.launch.next_ = none ∧
      (∀ x ∈ t.spn.launch.pend, x.c ≠ p.c) ∧ t.spn.banks.active = s.spn.banks.active ∧ (t.reg .spn 0x081C).testBit 4 = true) ∧
  (∀ (m : DoffIn) (s : State) (p : Pend) (at_ idx : Nat), s.nextPend = some p → p.go = some (at_, idx) → at_ ≤ s.ldtc + 256 →
    s.spn.launch.next_ = none → s.launchTime = true →
    ∃ t, exec (.doff m) s = .next t ∧ Elsewhere .spn s t ∧ t.spn.banks.active = launchImage p s ∧ t.spn.banks.doffs = (s.spn.banks.doffs + 1) % 65536 ∧
      t.spn.launch.refill = true ∧ (t.reg .spn 0x081C).testBit 7 = true ∧ (∀ x ∈ t.spn.launch.pend, x.c ≠ p.c) ∧
      (bankNat (launchImage p s) bankPart 2 ≠ 0 → ∃ n, t.spn.launch.next_ = some n ∧ n.l = at_ ∧ n.c = p.c ∧ n.idx = p.idx ∧ n.stepIdx = idx) ∧
      (bankNat (launchImage p s) bankPart 2 = 0 → t.spn.launch.next_ = none ∧ t.spn.launch.pend = [])) ∧
  (∀ (s : State) (p : Pend), p.retryOf = none → launchImage p s = s.spn.banks.shadow) ∧
  (∀ (s : State), (∀ n, s.spn.launch.next_ = some n → s.ldtc < n.l) → gives .launch s s) ∧
  (∀ (s : State) (n : Cur), s.spn.launch.next_ = some n → n.l ≤ s.ldtc →
    ∃ t, exec .launch s = .next t ∧ Elsewhere .spn s t ∧ t.spn.launch.cur = some n ∧ t.spn.launch.next_ = none ∧ t.spn.launch.held = false ∧
      t.spn.banks = s.spn.banks ∧ (t.reg .spn 0x081C).testBit 0 = true ∧
      ∀ c, c < 32 → ((n.desc.map (fun (d : Desc) => d.clusters)).getD 0).testBit c = true → (s.region c).present = true → (s.region c).stopped = false →
        s.spn.wh.tripped = false → s.launchTime = true → (t.cluster c).running = true) ∧
(∀ (s : State), s.spn.launch.refill = false → gives .shadowRefill s s) ∧
  (∀ (s : State), s.spn.launch.refill = true →
    ∃ t, exec .shadowRefill s = .next t ∧ Elsewhere .spn s t ∧ t.spn.launch.refill = false ∧ t.spn.banks.heldTxns = [] ∧ t.spn.banks.active = s.spn.banks.active ∧
      (s.spn.banks.ptxns = [] → t.spn.banks.shadow =
        s.spn.banks.heldTxns.foldl (fun m ws => ws.foldl (fun m w => memPut m w.1 w.2) m) s.spn.banks.shadow)) ∧
  (∀ (m : BankWriteMsg) (s : State), s.spn.banks.ptxns = [] → m.tree = false →
    gives (.bankWriteReceived m) s { s with spn.banks.ptxns :=
      [{ tno := m.tno, target := m.target, part := m.part, pepoch := m.pepoch, cells := [(m.off, m.data)] }] }) ∧
  (∀ (m : BankWriteMsg) (s : State) (x : PTxn), s.spn.banks.ptxns = [x] → m.tree = false → x.tno = m.tno → x.part = m.part → x.pepoch = m.pepoch →
    x.entered = false → x.total ≠ some x.cells.length → x.total ≠ some (x.cells.length + 1) →
    gives (.bankWriteReceived m) s { s with spn.banks.ptxns :=
      [if (m.off, m.data) ∈ x.cells then x else { x with cells := x.cells ++ [(m.off, m.data)] }] }) ∧
  (∀ (m : BankWriteMsg) (e : BankEndMsg) (s : State), bankNames s.spn.banks.active m.part m.pepoch = false →
    bankNames s.spn.banks.shadow m.part m.pepoch = false → m.tree = true → e.tree = true → e.part = m.part → e.pepoch = m.pepoch →
    gives (.bankWriteReceived m) s (s.portCount .spn (planeNat s.spn.banks.plane) 0x28 1) ∧
      gives (.bankEndReceived e) s (s.portCount .spn (planeNat s.spn.banks.plane) 0x28 1)) ∧
  (∀ (m : BankEndMsg) (s : State) (x : PTxn), s.spn.banks.ptxns = [x] → m.tree = false → x.tno = m.tno → x.part = m.part → x.pepoch = m.pepoch →
    x.entered = false → x.cells.length ≠ m.cells ∨ (x.target ≠ 0 ∧ (s.bankClosed = true ∨ ∃ p, s.nextPend = some p ∧ p.l < x.target)) →
    gives (.bankEndReceived m) s { s with spn.banks.ptxns := [{ x with total := some m.cells }] }) ∧
  (∀ (m : BankEndMsg) (s : State) (x : PTxn), s.spn.banks.ptxns = [x] → m.tree = false → x.tno = m.tno → x.part = m.part → x.pepoch = m.pepoch →
    x.target = 0 ∨ (s.bankClosed = false ∧ ∀ p, s.nextPend = some p → x.target ≤ p.l) → x.entered = false → x.cells.length = m.cells →
    x.mine s = true → (x.writes.map (·.1)).Nodup → (∀ w ∈ x.writes, partScope w.1 = true) →
    ∃ t, exec (.bankEndReceived m) s = .next t ∧ Elsewhere .spn s t ∧ t.spn.banks.ptxns = [{ x with total := some m.cells, entered := true }] ∧
      t.spn.banks.active = s.spn.banks.active ∧ t.spn.banks.shadow = x.writes.foldl (fun m w => memPut m w.1 w.2) s.spn.banks.shadow) ∧
  (∀ (m : BankEndMsg) (s : State) (x : PTxn), s.spn.banks.ptxns = [x] → m.tree = false → x.tno = m.tno → x.part = m.part → x.pepoch = m.pepoch →
    x.target = 0 → x.entered = false → x.cells.length = m.cells → x.mine s = false ∨ ¬ (x.writes.map (·.1)).Nodup →
    ∃ t, exec (.bankEndReceived m) s = .next t ∧ Elsewhere .spn s t ∧ t.spn.banks.ptxns = [] ∧ t.spn.banks.shadow = s.spn.banks.shadow ∧
      t.spn.banks.active = s.spn.banks.active ∧ (x.mine s = true → (t.reg .spn 0x0824).testBit 1 = true))

/-! ## Launches at a root and the Creels below it -/

/-- Reports join by AND, sum, lowest HEA and latest end (R197); a Creel below the root sends one for its children once every child has
reported, and keeps them until then; a report on a port that is no child of a launch tree that goes up from it changes nothing (R197, R521). -/
def Obligations.CreelsCombineReports : Prop :=
(∀ (l : Nat) (ms : List ReadyMsg), (readyAll l ms).ready = ms.all (·.ready) ∧ (readyAll l ms).early = ms.all (·.early) ∧
    (readyAll l ms).count = (ms.map (·.count)).sum ∧ (readyAll l ms).hea = (ms.map (·.hea)).foldl min noHea ∧ (readyAll l ms).e = (ms.map (·.e)).foldl max 0) ∧
  (∀ (l : Nat) (ms : List VoteMsg), (voteAll l ms).ok = ms.all (·.ok) ∧ (voteAll l ms).noRetry = ms.any (·.noRetry) ∧
    (voteAll l ms).count = (ms.map (·.count)).sum ∧ (voteAll l ms).hea = (ms.map (·.hea)).foldl min noHea) ∧
  (∀ (part port up : Nat) (m a : ReadyMsg) (other : Nat) (s : State) (x : Tree), part < 0x1_0000 → port < 129 → other ≠ port →
    tfind s.crl.ply.trees (plyKey part launchTree) = some x → x.up = some up → x.kids = [other, port] → tget [] s.crl.combine part = [(other, a)] →
    a.l = m.l → (s.port .crl up).state = .up → (s.port .crl up).keys.peerUntrusted = false →
    ∃ t c, exec (.readyCombine part port m) s = .next t ∧ Elsewhere .crl s t ∧ (t.port .crl up).tx = (s.port .crl up).tx ++ [c] ∧ c.cls = clsCtl ∧ c.typ = 0x02 ∧
      c.up = true ∧ c.part = part ∧ c.body = readyBytes (readyAll m.l [a, m]) ∧ tget [] t.crl.combine part = []) ∧
  (∀ (part port up : Nat) (m : ReadyMsg) (other : Nat) (s : State) (x : Tree), part < 0x1_0000 → port < 129 → other ≠ port →
    tfind s.crl.ply.trees (plyKey part launchTree) = some x → x.up = some up → x.kids = [other, port] → tget [] s.crl.combine part = [] →
    gives (.readyCombine part port m) s { s with crl.combine := tset [] s.crl.combine part [(port, m)] }) ∧
  (∀ (part port up : Nat) (m a : VoteMsg) (other : Nat) (s : State) (x : Tree), part < 0x1_0000 → port < 129 → other ≠ port →
    tfind s.crl.ply.trees (plyKey part launchTree) = some x → x.up = some up → x.kids = [other, port] → tget [] s.crl.voting part = [(other, a)] →
    a.l = m.l → (s.port .crl up).state = .up → (s.port .crl up).keys.peerUntrusted = false →
    ∃ t c, exec (.commitVoteCombine part port m) s = .next t ∧ Elsewhere .crl s t ∧ (t.port .crl up).tx = (s.port .crl up).tx ++ [c] ∧ c.cls = clsCtl ∧ c.typ = 0x0C ∧
      c.up = true ∧ c.part = part ∧ c.body = voteBytes (voteAll m.l [a, m]) ∧ tget [] t.crl.voting part = []) ∧
  (∀ (part port up : Nat) (m : VoteMsg) (other : Nat) (s : State) (x : Tree), part < 0x1_0000 → port < 129 → other ≠ port →
    tfind s.crl.ply.trees (plyKey part launchTree) = some x → x.up = some up → x.kids = [other, port] → tget [] s.crl.voting part = [] →
    gives (.commitVoteCombine part port m) s { s with crl.voting := tset [] s.crl.voting part [(port, m)] }) ∧
  (∀ (part port : Nat) (m : ReadyMsg) (v : VoteMsg) (s : State), part < 0x1_0000 → port < 129 →
    (∀ x, tfind s.crl.ply.trees (plyKey part launchTree) = some x → x.up = none ∨ port ∉ x.kids) →
    gives (.readyCombine part port m) s s ∧ gives (.commitVoteCombine part port v) s s)

/-- With the last READY of a launch the root sends GO, in fast mode for the earlier count that its members allow, or slips the launch, by Q in
reproducible mode and in fast mode to the next multiple of 64 that its members reach, also for a reason of its own; once it has slipped SLIP_MAX
times it is withdrawn and the partition holds (R188, R197 to R199, R388); at its decision time the root decides with what has arrived, and a missing
report counts as not ready (R197); a LAUNCH_FAULT fails the step of its launch (R200).
At the doff of a decided launch the root takes it from the pending ones to the running ones, and at the leave doff of a teardown the partition
is gone from it (R191, R202, R532); a confirmation in the second plane by the last member brings the partition into service at the lowest margin
ceiling, and before that or after it only what the member says is noted (R29, R190). -/
def Obligations.RootsDecideAndDoff : Prop :=
(∀ (part port : Nat) (m : ReadyMsg) (s : State) (r : PRoot) (p : RPend), part < 0x1_0000 → port < 129 → s.proot part = some r →
    r.launch.pend = [p] → p.l = m.l → p.decided = false → p.reports = [] → s.rootPorts r (r.awaited p) = [port] → m.ready = true →
    s.ownReason r p = none →
    ∃ t r' p', exec (.readyAtRoot part port m) s = .next t ∧ Kept .spn s t ∧ t.proot part = some r' ∧ r'.launch.pend = [p'] ∧ p'.c = p.c ∧ p'.l = p.l ∧
      p'.decided = true ∧ p'.stepIdx = r.indexOf p ∧ p'.launchAt =
        if r.fast = true ∧ m.early = true ∧ max (m.e + 256) (s.crlDtc part + 306 + ceilDiv r.dn 100) ≤ p.l / 64 * 64 then p.l / 64 * 64 else p.l) ∧
  (∀ (part port : Nat) (m : ReadyMsg) (s : State) (r : PRoot) (p : RPend), part < 0x1_0000 → port < 129 → s.proot part = some r →
    r.launch.pend = [p] → p.l = m.l → p.decided = false → p.reports = [] → s.rootPorts r (r.awaited p) = [port] →
    m.ready = false ∨ (s.ownReason r p).isSome = true → p.slips < r.slipMax →
    ∃ t r' p', exec (.readyAtRoot part port m) s = .next t ∧ Kept .spn s t ∧ t.proot part = some r' ∧ r'.launch.pend = [p'] ∧ p'.c = p.c ∧
      p'.l = (if r.fast = true then ceilTo (max (p.l + 1000) (m.e + r.trdy)) 64 else p.l + r.q) ∧
      p'.decided = false ∧ p'.slips = p.slips + 1 ∧ p'.reports = [] ∧ r'.ledger.slips = r.ledger.slips + 1) ∧
  (∀ (part port : Nat) (m : ReadyMsg) (s : State) (r : PRoot) (p : RPend), part < 0x1_0000 → port < 129 → s.proot part = some r →
    r.launch.pend = [p] → p.l = m.l → p.decided = false → p.reports = [] → s.rootPorts r (r.awaited p) = [port] →
    m.ready = false ∨ (s.ownReason r p).isSome = true → r.slipMax ≤ p.slips →
    ∃ t r', exec (.readyAtRoot part port m) s = .next t ∧ Kept .spn s t ∧ t.proot part = some r' ∧ r'.launch.pend = [] ∧ r'.launch.holding = true) ∧
  (∀ (part l : Nat) (s : State) (r : PRoot) (p : RPend) (n : Nat), part < 0x1_0000 → s.proot part = some r →
    100 * l ≤ 100 * (s.crlDtc part + 306) + r.dn → r.launch.pend = [p] → p.l = l → p.decided = false → p.reports = [] →
    n ∈ s.rootPorts r (r.awaited p) → p.slips < r.slipMax → r.fast = false →
    ∃ t r' p', exec (.launchDecisionDeadline part l) s = .next t ∧ Kept .spn s t ∧ t.proot part = some r' ∧ r'.launch.pend = [p'] ∧ p'.c = p.c ∧
      p'.l = l + r.q ∧ p'.slips = p.slips + 1) ∧
  (∀ (part l : Nat) (s : State), part < 0x1_0000 → (∀ r, s.proot part = some r → 100 * (s.crlDtc part + 306) + r.dn < 100 * l) →
    gives (.launchDecisionDeadline part l) s s) ∧
  (∀ (part hea l kind : Nat) (s : State) (r : PRoot), part < 0x1_0000 → kind < 256 → s.proot part = some r →
    ∃ t r', exec (.launchFaultReceived part hea l kind) s = .next t ∧ Kept .spn s t ∧ t.proot part = some r' ∧
      r'.launch.run = r.launch.run.map (fun x =>
        if x.c = r.cOf l then { x with mustFail := some (x.mustFail.getD (if kind = 2 then 7 else 6, hea)) } else x)) ∧
  (∀ (part port hea l kind : Nat) (m : ReadyMsg) (s : State), part < 0x1_0000 → port < 129 → kind < 256 → s.proot part = none →
    gives (.launchFaultReceived part hea l kind) s s ∧ gives (.readyAtRoot part port m) s s) ∧
(∀ (part : Nat) (s : State) (r : PRoot) (p : RPend) (rest : List RPend), part < 0x1_0000 → s.proot part = some r → r.launch.pend = p :: rest →
    p.decided = true → p.launchAt ≤ s.crlDtc part + 256 → r.tearC ≠ some p.c → r.tearing = false →
    ∃ t r' x, exec (.rootDoff part) s = .next t ∧ Kept .spn s t ∧ t.proot part = some r' ∧ (∀ y ∈ r'.launch.pend, y.c ≠ p.c) ∧ x ∈ r'.launch.run ∧
      x.l = p.launchAt ∧ x.c = p.c ∧ x.idx = p.idx ∧ x.kind = p.kind ∧ r'.launch.lastL = p.launchAt) ∧
  (∀ (part : Nat) (s : State) (r : PRoot) (p : RPend) (rest : List RPend), part < 0x1_0000 → s.proot part = some r → r.launch.pend = p :: rest →
    p.decided = true → p.launchAt ≤ s.crlDtc part + 256 → r.tearC = some p.c →
    ∃ t, exec (.rootDoff part) s = .next t ∧ Kept .spn s t ∧ t.proot part = none ∧ tfind t.crl.epochs part = none ∧ tfind t.crl.held part = none) ∧
  (∀ (part : Nat) (s : State), part < 0x1_0000 → (∀ r p, s.proot part = some r → r.launch.pend.head? = some p →
      p.decided = false ∨ s.crlDtc part + 256 < p.launchAt) → gives (.rootDoff part) s s) ∧
  (∀ (part hea k : Nat) (pl : Plane) (s : State) (r : PRoot) (m : Member), part < 0x1_0000 → k < 16 → s.proot part = some r → r.members = [m] →
    m.hea = hea → (pl = .b ∧ m.confA = true) ∨ (pl = .a ∧ m.confB = true) → r.inService = false → r.tearing = false →
    ∃ t r', exec (.membershipConfirmReceived part hea pl k) s = .next t ∧ Kept .spn s t ∧ t.proot part = some r' ∧ r'.inService = true ∧ r'.freq.mceilP = k ∧
      r'.members = [{ m with mceil := k, confA := true, confB := true }]) ∧
  (∀ (part hea k : Nat) (pl : Plane) (s : State) (r : PRoot), part < 0x1_0000 → k < 16 → s.proot part = some r →
    r.inService = true ∨ r.tearing = true ∨ (∃ x ∈ r.members, x.hea ≠ hea ∧ (x.confA = false ∨ x.confB = false)) →
    gives (.membershipConfirmReceived part hea pl k) s (s.modRoot part (fun y => { y with members := y.members.map (fun m =>
      if m.hea = hea then { m with mceil := k, confA := m.confA || pl = .a, confB := m.confB || pl = .b } else m) }))) ∧
  (∀ (part hea k : Nat) (pl : Plane) (s : State), part < 0x1_0000 → k < 16 → s.proot part = none → gives (.membershipConfirmReceived part hea pl k) s s)

/-! ## Votes and verdicts -/

/-- A member votes once, 1,100 ns after the D at which a step ended (R521); a committed step is decided, a failed one is launched again from its
kept image, and with it the step after it, with every pending launch moved by the verdict's amount, or, without a retry launch, both go, the later
one once its vote is sent (R523, R524); TAKEOVER moves a member to the other plane's root (R529). -/
def Obligations.MembersVoteAndTakeVerdicts : Prop :=
(∀ (s : State) (u : Uncommitted) (x : Nat) (n : Nat), s.spn.launch.past = [u] → u.voted = false → u.endedAt = some x →
    x + 1100 ≤ (dtcOf (s.gt .spn) s.spn.banks.epochS s.spn.banks.dcor).getD 0 → n = planeNat s.spn.banks.plane →
    (s.port .spn n).state = .up → (s.port .spn n).keys.peerUntrusted = false →
    ∃ t c, exec .commitVoteSend s = .next t ∧ Elsewhere .spn s t ∧ (t.port .spn n).tx = (s.port .spn n).tx ++ [c] ∧
      t.spn.launch.past = (if u.part = s.serves.1 ∧ u.dead = false then [{ u with voted := true }] else []) ∧
      c.typ = 0x0C ∧ c.up = true ∧ c.part = u.part ∧ c.body = voteBody u (s.hea .spn)) ∧
  (∀ (s : State), (∀ u ∈ s.spn.launch.past, (u.voted = true → u.part = s.serves.1 ∧ u.dead = false) ∧ (u.voted = false → ∀ x, u.endedAt = some x →
      (dtcOf (s.gt .spn) s.spn.banks.epochS s.spn.banks.dcor).getD 0 < x + 1100)) → gives .commitVoteSend s s) ∧
  (∀ (m : CommitMsg) (s : State) (u : Uncommitted), m.committed = true → s.spn.launch.past.find? (fun y => y.l = m.l) = some u →
    ∃ t, exec (.commitReceived m) s = .next t ∧ Elsewhere .spn s t ∧ t.spn.launch.past = s.spn.launch.past.filter (fun x => x.l ≠ m.l) ∧ t.spn.launch.seenC = m.c ∧
      t.spn.launch.pend = s.spn.launch.pend ∧ t.spn.banks = s.spn.banks) ∧
  (∀ (m : CommitMsg) (s : State), m.committed = true → (∀ u ∈ s.spn.launch.past, u.l ≠ m.l) → gives (.commitReceived m) s s) ∧
  (∀ (m : CommitMsg) (s : State) (u : Uncommitted) (ws : List Uncommitted), m.committed = false → m.rl ≠ 0 → s.spn.launch.past = u :: ws → u.l = m.l →
    ws.length ≤ 1 → (∀ v ∈ ws, m.l < v.l) →
    ∃ t, exec (.commitReceived m) s = .next t ∧ Elsewhere .spn s t ∧ t.spn.launch.past = u :: ws ∧ t.spn.banks.active = s.spn.banks.active ∧
      t.spn.banks.shadow = s.spn.banks.shadow ∧ ∀ x, x ∈ t.spn.launch.pend ↔
        (∃ y ∈ s.spn.launch.pend, x = if m.sigma = 0 then y else { y with l := y.l + m.sigma, go := none, ready := false, sent := false }) ∨
        x = { l := m.rl, idx := u.idx, c := m.rc, retryOf := some u.l, attempt := u.attempt + 1 } ∨
        ∃ v ∈ ws, x = { l := m.rl + (v.l - m.l), idx := v.idx, c := m.rc + 1, retryOf := some v.l, attempt := v.attempt + 1 }) ∧
  (∀ (m : CommitMsg) (s : State) (u : Uncommitted) (ws : List Uncommitted), m.committed = false → m.rl = 0 → s.spn.launch.past = u :: ws → u.l = m.l →
    ws.length ≤ 1 → (∀ v ∈ ws, m.l < v.l) →
    gives (.commitReceived m) s { s with spn.launch.past :=
      if m.cause = 11 then ws else (ws.filter (fun v => !v.voted)).map (fun v => { v with dead := true }) }) ∧
  (∀ (pl : Plane) (c : Nat) (s : State), s.spnPart ≠ 0 → gives (.takeoverReceived pl c) s { s with
    spn.takenOver := some pl, spn.banks.plane := pl
    spn.launch.rootHea := if s.spn.banks.plane = pl then s.spn.launch.rootHea else s.spn.launch.rootHea ^^^ 16 }) ∧
  (∀ (pl : Plane) (c : Nat) (s : State), s.spnPart = 0 → gives (.takeoverReceived pl c) s s)

/-- A step for which every member votes OK is committed; one failed is launched again with the same image and the next commit number, up to its
eighth attempt; one that may not be repeated, or has failed eight times, leaves the partition holding; a vote missing at D + T_CMT counts as failed
(R522, R523, R526). -/
def Obligations.RootsDecideSteps : Prop :=
(∀ (part port : Nat) (m : VoteMsg) (s : State) (r : PRoot) (x : RStep), part < 0x1_0000 → port < 129 → s.proot part = some r → r.launch.run = [x] →
    x.l = m.l → x.endD.isSome = true → x.ignore = false → x.votes = [] → x.mustFail = none → s.rootPorts r x.who = [port] → m.ok = true →
    ∃ t r', exec (.commitVoteAtRoot part port m) s = .next t ∧ Kept .spn s t ∧ t.proot part = some r' ∧ r'.launch.run = [] ∧ r'.launch.lastC = x.c ∧
      r'.ledger.steps = r.ledger.steps + 1 ∧ r'.launch.pend = r.launch.pend) ∧
  (∀ (part port : Nat) (m : VoteMsg) (s : State) (r : PRoot) (x : RStep), part < 0x1_0000 → port < 129 → s.proot part = some r → r.launch.run = [x] →
    x.l = m.l → x.endD.isSome = true → x.ignore = false → x.votes = [] → x.mustFail = none → s.rootPorts r x.who = [port] → m.ok = false →
    m.cause ≠ 11 → m.noRetry = false → x.attempt < 7 → r.launch.holding = false → r.tearing = false →
    ∃ t r' p, exec (.commitVoteAtRoot part port m) s = .next t ∧ Kept .spn s t ∧ t.proot part = some r' ∧ r'.launch.run = [] ∧ r'.ledger.failed = r.ledger.failed + 1 ∧
      p ∈ r'.launch.pend ∧ p.retry = true ∧ p.idx = x.idx ∧ p.c = (r.launch.commitNo + 1) % 2 ^ 32 ∧ p.attempt = x.attempt + 1 ∧ p.image = x.image) ∧
  (∀ (part port : Nat) (m : VoteMsg) (s : State) (r : PRoot) (x : RStep), part < 0x1_0000 → port < 129 → s.proot part = some r → r.launch.run = [x] →
    x.l = m.l → x.endD.isSome = true → x.ignore = false → x.votes = [] → x.mustFail = none → s.rootPorts r x.who = [port] → m.ok = false →
    m.cause ≠ 11 → m.noRetry = true ∨ 7 ≤ x.attempt → r.launch.holding = false → r.tearing = false →
    ∃ t r', exec (.commitVoteAtRoot part port m) s = .next t ∧ Kept .spn s t ∧ t.proot part = some r' ∧ r'.launch.run = [] ∧
      r'.ledger.failed = r.ledger.failed + 1 ∧ r'.launch.holding = true ∧ ∀ p ∈ r'.launch.pend, p.decided = true) ∧
  (∀ (part l d n : Nat) (s : State) (r : PRoot) (x : RStep), part < 0x1_0000 → s.proot part = some r → r.launch.run = [x] → x.l = l →
    x.endD = some d → d + r.tcmt ≤ s.crlDtc part → x.ignore = false → x.votes = [] → x.mustFail = none → n ∈ s.rootPorts r x.who →
    x.attempt < 7 → r.launch.holding = false → r.tearing = false →
    ∃ t r' p, exec (.commitDecisionDeadline part l) s = .next t ∧ Kept .spn s t ∧ t.proot part = some r' ∧ r'.launch.run = [] ∧
      r'.ledger.failed = r.ledger.failed + 1 ∧ p ∈ r'.launch.pend ∧ p.retry = true ∧ p.idx = x.idx) ∧
  (∀ (part l : Nat) (s : State), part < 0x1_0000 → (∀ r, s.proot part = some r →
    ∀ x ∈ r.launch.run, x.l = l → ∀ d, x.endD = some d → s.crlDtc part < d + r.tcmt) → gives (.commitDecisionDeadline part l) s s) ∧
  (∀ (part port : Nat) (m : VoteMsg) (s : State), part < 0x1_0000 → port < 129 → s.proot part = none → gives (.commitVoteAtRoot part port m) s s)

/-- A broken tree stops the partition's launches until it is repaired (R527); a standby root takes a partition over once PX is lost and more
than half its members report their root lost, and holds it (R529). -/
def Obligations.TreesBreakAndRootsTakeOver : Prop :=
(∀ (part hea port : Nat) (s : State), part < 0x1_0000 → port < 129 →
    gives (.treeBreakReceived part hea port) s (s.modRoot part (fun r => { r with
      repair := true, broken := (r.broken ++ [(hea, port)]).eraseDups }))) ∧
  (∀ (part : Nat) (s : State) (r : PRoot), part < 0x1_0000 → s.proot part = some r → r.repair = true → r.broken = [] →
    (∀ h ∈ r.heas, (routePort s.cc.topo h).isSome = true) →
    ∃ t r', exec (.treeRepairDone part) s = .next t ∧ Elsewhere .crl s t ∧ t.proot part = some r' ∧ r'.repair = false ∧ r'.broken = [] ∧ r'.lostMembers = []) ∧
  (∀ (part : Nat) (s : State), part < 0x1_0000 → (∀ r, s.proot part = some r → r.repair = false) → gives (.treeRepairDone part) s s) ∧
  (∀ (part hea c : Nat) (s : State), part < 0x1_0000 → hea < 2 ^ 32 → tfind s.crl.mirror part = none →
    gives (.rootLostReportReceived part hea c) s { s with
      crl.lostRep := tset [] s.crl.lostRep part ((tget [] s.crl.lostRep part).filter (fun x => x.1 ≠ hea) ++ [(hea, c)]) }) ∧
  (∀ (part hea c : Nat) (s : State) (x : Mirror) (m : Member), part < 0x1_0000 → hea < 2 ^ 32 → tfind s.crl.mirror part = some x →
    x.root.members = [m] → m.hea = hea → s.pxLost = true →
    ∃ t r', exec (.rootLostReportReceived part hea c) s = .next t ∧ Kept .spn s t ∧ t.proot part = some r' ∧ r'.launch.holding = true ∧ r'.launch.pend = [] ∧
      r'.launch.run = [] ∧ r'.members = x.root.members ∧ t.crl.planner.solo = true ∧ tfind t.crl.mirror part = none) ∧
  (∀ (part hea c : Nat) (s : State) (x : Mirror), part < 0x1_0000 → hea < 2 ^ 32 → tfind s.crl.mirror part = some x →
    s.pxLost = false ∨ (tget [] s.crl.lostRep part = [] ∧ 2 ≤ x.root.members.length) →
    gives (.rootLostReportReceived part hea c) s { s with
      crl.lostRep := tset [] s.crl.lostRep part ((tget [] s.crl.lostRep part).filter (fun y => y.1 ≠ hea) ++ [(hea, c)]) })

/-! ## Region clocks and frequency -/

/-- A cycle of a launched step notes its least slack and warning and moves the entries of its crossing queues; a slack below STRETCH_THR stretches
the next one and is booked, and more debt than the allowance is a margin breach (R218 to R221, R224); a stalled crossing lengthens a cycle by its
wait and is booked in the same way, unless the cycle is stretched already (R221, R222, R235); a region whose frequency changes is clocked again at
its confirmation, or named 190 ns after D (R225, R226); POLICY enters the frequency of the partition (R228). -/
def Obligations.RegionsStretchAndSettle : Prop :=
(∀ (c cyc x : Nat) (pushes pops : List Nat) (s : State), c < 32 → (∀ d ∈ pushes, d < 32) → (∀ d ∈ pops, d < 32) → s.inStep c = false →
    gives (.regionStretch c ⟨cyc, x, pushes, pops⟩) s s) ∧
  (∀ (c cyc x : Nat) (pushes pops : List Nat) (s : State), c < 32 → (∀ d ∈ pushes, d < 32) → (∀ d ∈ pops, d < 32) → s.inStep c = true → s.stretchThr ≤ x →
    gives (.regionStretch c ⟨cyc, x, pushes, pops⟩) s (pops.foldl (fun s w => popEntry w c s) (pushes.foldl (fun s r => pushEntry c r s)
      (s.modRegion c (fun r => { r with slackMin := min r.slackMin x, warns := r.warns + (if x < s.warnThr then 1 else 0) }))))) ∧
  (∀ (w r : Nat) (s : State), s.crossing w r = true → w < 32 → r < 32 →
    (pushEntry w r s).queued w r = min 16 (s.queued w r + 1) ∧ (popEntry w r s).queued w r = s.queued w r - 1) ∧
  (∀ (w r : Nat) (s : State), s.crossing w r = false → pushEntry w r s = s ∧ popEntry w r s = s) ∧
  (∀ (c cyc x : Nat) (pushes pops : List Nat) (s : State), c < 32 → (∀ d ∈ pushes, d < 32) → (∀ d ∈ pops, d < 32) → s.inStep c = true →
    x < s.stretchThr → (s.region c).cyc ≤ cyc → s.debtAt c (cyc + 1) ≤ 33 →
    ∃ t, exec (.regionStretch c ⟨cyc, x, pushes, pops⟩) s = .next t ∧ Elsewhere .spn s t ∧ (t.region c).debt = s.debtAt c (cyc + 1) + 31 ∧
      (t.region c).cyc = cyc + 1 ∧ (t.region c).slackMin = min (s.region c).slackMin x ∧ (t.region c).excess = (s.region c).excess ∧
      (t.cluster c).s = min ((s.cluster c).s + 1) (2 ^ 32 - 1) ∧ (t.cluster c).eighths = (s.cluster c).eighths + s.eighthsFor x) ∧
  (∀ (c cyc x : Nat) (s : State), c < 32 → s.inStep c = true → x < s.stretchThr → (s.region c).cyc ≤ cyc → 33 < s.debtAt c (cyc + 1) →
    ∃ t, exec (.regionStretch c ⟨cyc, x, [], []⟩) s = .next t ∧ Elsewhere .spn s t ∧ (t.region c).breached = true ∧ (t.region c).excess = (s.region c).excess + 1 ∧
      (t.reg .spn 0x0A04).testBit 0 = true ∧ t.reg .spn 0x0A1C = min (s.reg .spn 0x0A1C + 1) 0xFFFF_FFFF ∧
      ((s.reg .spn 0x0A10).testBit 31 = false → t.reg .spn 0x0A10 = c + 2 ^ 8 * neighbourOf c s + 2 ^ 16 + 2 ^ 31)) ∧
  (∀ (a b : Nat) (full : Bool) (cyc k c : Nat) (s : State), a < 32 → b < 32 → c = (if full then a else b) → s.inStep c = true → s.crossing a b = true →
    (s.region c).cyc < cyc → s.debtAt c cyc ≤ 33 →
    ∃ t, exec (.crossingQueueStall a b ⟨full, cyc, k⟩) s = .next t ∧ Elsewhere .spn s t ∧ (t.region c).debt = s.debtAt c cyc + 31 ∧ (t.region c).cyc = cyc ∧
      (t.cluster c).eighths = (s.cluster c).eighths + k ∧ (t.cluster c).s = min ((s.cluster c).s + 1) (2 ^ 32 - 1) ∧
      t.queued a b = if full = true then min 16 (s.queued a b + 1) else s.queued a b - 1) ∧
  (∀ (a b : Nat) (full : Bool) (cyc k c : Nat) (s : State), a < 32 → b < 32 → c = (if full then a else b) → s.inStep c = true → s.crossing a b = true →
    (s.region c).cyc < cyc → 33 < s.debtAt c cyc → (s.reg .spn 0x0A10).testBit 31 = false →
    ∃ t, exec (.crossingQueueStall a b ⟨full, cyc, k⟩) s = .next t ∧ Elsewhere .spn s t ∧ (t.region c).breached = true ∧
      (t.region c).excess = (s.region c).excess + 1 ∧ (t.reg .spn 0x0A04).testBit 0 = true ∧
      t.reg .spn 0x0A10 = a + 2 ^ 8 * b + 2 ^ 16 * (if full then 3 else 2) + 2 ^ 31) ∧
  (∀ (a b : Nat) (full : Bool) (cyc k c : Nat) (s : State), a < 32 → b < 32 → c = (if full then a else b) → s.inStep c = true → s.crossing a b = true →
    cyc ≤ (s.region c).cyc →
    ∃ t, exec (.crossingQueueStall a b ⟨full, cyc, k⟩) s = .next t ∧ Elsewhere .spn s t ∧ t.region c = s.region c ∧
      (t.cluster c).eighths = (s.cluster c).eighths + k ∧ (t.cluster c).s = min (s.cluster c).s (2 ^ 32 - 1)) ∧
  (∀ (a b : Nat) (full : Bool) (cyc k : Nat) (s : State), a < 32 → b < 32 → s.inStep (if full then a else b) = false ∨ s.crossing a b = false →
    gives (.crossingQueueStall a b ⟨full, cyc, k⟩) s s) ∧
  (∀ (c : Nat) (s : State), c < 32 → (s.region c).stopped = true →
    gives (.freqSettleConfirm c) s ({ s with spn.clocks.settleFail := s.spn.clocks.settleFail.filter (· ≠ c) }.modRegion c
      (fun r => { r with stopped := false }))) ∧
  (∀ (c : Nat) (s : State), c < 32 → (s.region c).stopped = false → gives (.freqSettleConfirm c) s s) ∧
  (∀ (c d : Nat) (s : State), c < 32 → (s.region c).stopped = true → s.spn.clocks.doffAt = some d → d + 190 ≤ s.sc.time.tick → c ∉ s.spn.clocks.settleFail →
    ∃ t, exec (.clockSettleTimeout c) s = .next t ∧ Elsewhere .spn s t ∧ t.spn.clocks = { s.spn.clocks with settleFail := s.spn.clocks.settleFail ++ [c] } ∧
      (t.reg .spn 0x0A04).testBit 5 = true) ∧
  (∀ (c : Nat) (s : State), c < 32 → (s.region c).stopped = false ∨ c ∈ s.spn.clocks.settleFail ∨
    (∀ d, s.spn.clocks.doffAt = some d → s.sc.time.tick < d + 190) → gives (.clockSettleTimeout c) s s) ∧
  (∀ (part v : Nat) (s : State) (r : PRoot), part < 0x1_0000 → v < 16 → s.proot part = some r →
    ∃ t r', exec (.policySet part v) s = .next t ∧ Elsewhere .crl s t ∧ t.proot part = some r' ∧ r'.freq.policy = v ∧ r'.freq.fstep = min r.freq.mceilP (min v r.freq.host) ∧
      r'.freq.host = r.freq.host ∧ r'.launch = r.launch) ∧
  (∀ (part v : Nat) (s : State), part < 0x1_0000 → v < 16 → s.proot part = none → gives (.policySet part v) s s)

/-! ## Sync objects -/

/-- An operation of a core goes to the bank queue of the object that its VID maps to in the core's context, with the fields of its words; a posted
one shows POSTED at once (R246, R247). Past the 64 places of the bank's queue it waits, and its core stalls with it (R238). One that comes while a
wait is pending, or a wait while a barrier wait is, or that comes from a fenced core, or with reserved bits or a reserved OP, or whose VID maps to nothing
changes no queue, object or waiter and shows its code; a posted one is counted and raised as refused as well (R246, R248, R258). A core that is
absent or stalled issues none. -/
def Obligations.CoreOperationsQueue : Prop :=
∀ f ∈ ([Instr.soOpSignal, Instr.soOpSignalTo, Instr.soOpBroadcast, Instr.soOpWaitTake, Instr.soOpWait, Instr.soOpArriveWait, Instr.soOpClear,
      Instr.soOpRead, Instr.soOpInit, Instr.soOpSeqSet] : List (Nat → Word64 → Word64 → Instr)),
  ∀ (core : Nat) (a b : Word64) (s : State) (op v pid : Nat) (q : QOp), op = a.toNat % 16 → v = a.toNat / 256 % 2 ^ 20 →
    q = { pid := pid, ctx := s.ctxOf core, vid := v, op := op, arg := a.toNat / 2 ^ 32 % 65536, operand := b.toNat
          src := 0x8000_0000 + s.logOf core, core := core, timeout := a.toNat / 2 ^ 48 % 65536 } →
    (∀ (u : State), s.corePresent core = true → s.syncStalled core = false → s.syncBusy core = false → (op ∈ [0x4, 0x5, 0x6] → (s.cport core).barPending = false) →
      s.fenced core = false → a.toNat / 16 % 16 = 0 → a.toNat / 2 ^ 28 % 16 = 0 → 1 ≤ op → op ≤ 0xA → s.xlatPid (s.ctxOf core) v = some pid →
      (tget [] s.spn.sync.queues (pid % 16)).length < 64 →
      u = { s with spn.sync.queues := tmod [] s.spn.sync.queues (pid % 16) (fun l => l ++ [q]) } →
      (s.fastMode = false ∨ (s.reg .spn 0x0D04).testBit 3 = false →
        gives (f core a b) s (if op ∈ [0x1, 0x2, 0x3, 0xA] then u.modCport core (fun c => { c with status := 0x01 }) else u)) ∧
      ∃ t, exec (f core a b) s = .next t ∧ Elsewhere .spn s t ∧ t.spn.sync.queues = u.spn.sync.queues ∧ t.spn.sync.objs = s.spn.sync.objs ∧
        t.spn.sync.waiters = s.spn.sync.waiters ∧ (op ∈ [0x1, 0x2, 0x3, 0xA] → (t.cport core).status = 0x01)) ∧
    (s.corePresent core = true → s.syncStalled core = false → s.syncBusy core = false → (op ∈ [0x4, 0x5, 0x6] → (s.cport core).barPending = false) →
      s.fenced core = false → a.toNat / 16 % 16 = 0 → a.toNat / 2 ^ 28 % 16 = 0 → 1 ≤ op → op ≤ 0xA → s.xlatPid (s.ctxOf core) v = some pid →
      64 ≤ (tget [] s.spn.sync.queues (pid % 16)).length →
      gives (f core a b) s { s with spn.sync.stalled := tmod [] s.spn.sync.stalled (pid % 16) (fun l => l ++ [q]) }) ∧
    (∀ (st : Nat) (busy : Bool), s.corePresent core = true → s.syncStalled core = false → op ≠ 0xC →
      busy = (s.syncBusy core || ((4 ≤ op && op ≤ 6) && (s.cport core).barPending)) →
      (busy = true ∧ st = 0x0A) ∨ (busy = false ∧ s.fenced core = true ∧ st = 0x0C) ∨
        (busy = false ∧ s.fenced core = false ∧ (a.toNat / 16 % 16 ≠ 0 ∨ a.toNat / 2 ^ 28 % 16 ≠ 0 ∨ op = 0 ∨ 0xA < op) ∧ st = 0x08) ∨
        (busy = false ∧ s.fenced core = false ∧ a.toNat / 16 % 16 = 0 ∧ a.toNat / 2 ^ 28 % 16 = 0 ∧ 1 ≤ op ∧ op ≤ 0xA ∧ s.xlatPid (s.ctxOf core) v = none ∧ st = 0x06) →
      (op ∉ [0x1, 0x2, 0x3, 0xA] → gives (f core a b) s (s.modCport core (fun c => { c with status := st }))) ∧
      ∃ t, exec (f core a b) s = .next t ∧ Elsewhere .spn s t ∧ (t.cport core).status = st ∧ t.spn.sync.queues = s.spn.sync.queues ∧
        t.spn.sync.objs = s.spn.sync.objs ∧ t.spn.sync.waiters = s.spn.sync.waiters ∧ (op ∈ [0x1, 0x2, 0x3, 0xA] →
          (t.reg .spn 0x0C08).testBit 3 = true ∧ t.reg .spn 0x0C0C = min (s.reg .spn 0x0C0C + 1) 0xFFFF_FFFF)) ∧
    (core < 2048 → s.corePresent core = false ∨ s.syncStalled core = true → gives (f core a b) s s) ∧
    (core < 2048 → op = 0xC → ∃ t, exec (f core a b) s = .next t)

/-- A bank serves its oldest operation, none while a frozen dump runs, and an operation that waits for a place takes the one that comes free (R238,
R265). SIGNAL adds ARG to a COUNT, WAIT_TAKE takes it, WAIT completes at once where its condition holds and is registered with its TIMEOUT otherwise
(R249, R250, R252, R253). -/
def Obligations.BanksServeOperations : Prop :=
(∀ (n : Nat) (s : State), n < 16 → tget [] s.spn.sync.queues n = [] ∨ s.spn.sync.frozen = true → gives (.soBankApply n) s s) ∧
  (∀ (n : Nat) (s : State) (q : QOp) (rest : List QOp), n < 16 → tget [] s.spn.sync.queues n = q :: rest → s.spn.sync.frozen = false →
    ∃ t, exec (.soBankApply n) s = .next t ∧ Elsewhere .spn s t ∧ tget 0 t.spn.sync.served n = s.sc.time.tick ∧
      (tget [] s.spn.sync.stalled n = [] → tget [] t.spn.sync.queues n = rest) ∧
      ∀ x xs, tget [] s.spn.sync.stalled n = x :: xs → x.pid % 16 = n → rest.length < 64 →
        tget [] t.spn.sync.queues n = rest ++ [x] ∧ tget [] t.spn.sync.stalled n = xs) ∧
  (∀ (n : Nat) (s : State) (q : QOp) (rest : List QOp) (o : Obj), n < 16 → tget [] s.spn.sync.queues n = q :: rest → s.spn.sync.frozen = false →
    s.xlatPid q.ctx q.vid = some q.pid → s.obj q.pid = some o → o.typ = .count → o.orphaned = false → q.op = 0x1 → q.arg ≠ 0 →
    o.value + q.arg < 2 ^ 64 → s.waitersOf q.pid = [] → q.sendDtc = none → q.cmd = none →
    ∃ t, exec (.soBankApply n) s = .next t ∧ Elsewhere .spn s t ∧ t.obj q.pid = some { o with
      value := o.value + q.arg, sigWin := min (o.sigWin + q.arg) (2 ^ 32 - 1), lastProd := q.src, mod := (o.mod + 1) % 2 ^ 32 }) ∧
  (∀ (n : Nat) (s : State) (q : QOp) (rest : List QOp) (o : Obj), n < 16 → tget [] s.spn.sync.queues n = q :: rest → s.spn.sync.frozen = false →
    tget [] s.spn.sync.stalled n = [] → s.xlatPid q.ctx q.vid = some q.pid → s.obj q.pid = some o → o.typ = .count → o.orphaned = false → q.op = 0x4 →
    q.arg ≠ 0 → q.arg ≤ o.value → s.waitersOf q.pid = [] →
    ∃ t, exec (.soBankApply n) s = .next t ∧ Elsewhere .spn s t ∧ (t.cport q.core).status = 0 ∧
      (t.cport q.core).value = o.value - q.arg ∧ t.obj q.pid = some { o with
        value := o.value - q.arg, takeWin := min (o.takeWin + q.arg) (2 ^ 32 - 1), lastCons := 0x8000_0000 + s.logOf q.core
        mod := (o.mod + 1) % 2 ^ 32 }) ∧
  (∀ (n : Nat) (s : State) (q : QOp) (rest : List QOp) (o : Obj), n < 16 → tget [] s.spn.sync.queues n = q :: rest → s.spn.sync.frozen = false →
    tget [] s.spn.sync.stalled n = [] → s.xlatPid q.ctx q.vid = some q.pid → s.obj q.pid = some o → o.typ = .count → o.orphaned = false → q.op = 0x5 →
    q.arg ≠ 0 → q.arg ≤ o.value →
    ∃ t, exec (.soBankApply n) s = .next t ∧ Elsewhere .spn s t ∧ (t.cport q.core).status = 0 ∧ (t.cport q.core).pending = false ∧
      (t.cport q.core).value = o.value ∧ t.obj q.pid = some o) ∧
  (∀ (n : Nat) (s : State) (q : QOp) (rest : List QOp) (o : Obj), n < 16 → tget [] s.spn.sync.queues n = q :: rest → s.spn.sync.frozen = false →
    tget [] s.spn.sync.stalled n = [] → s.xlatPid q.ctx q.vid = some q.pid → s.obj q.pid = some o → o.typ = .count → o.orphaned = false → q.op = 0x5 →
    q.arg ≠ 0 → o.value < q.arg → q.timeout % 4096 ≠ 0 →
    ∃ t w, exec (.soBankApply n) s = .next t ∧ Elsewhere .spn s t ∧ (t.cport q.core).pending = true ∧
      tfind t.spn.sync.waiters q.core = some w ∧ w.pid = q.pid ∧ w.arg = q.arg ∧ w.expiry = s.sc.time.tick + timeoutNs q.timeout ∧
      t.obj q.pid = some o)

/-- A wait ends at its TIMEOUT, not before, and a signal of the same TICK that is still queued wins over it (R254; that one queued before the expiry's
row comes first is the model's reading, log entry 155). A core reset ends the core's waits and orphans what it owns (R263). A re-alignment check marks
an object whose window does not balance and clears the mark of one that does (R261, R262). -/
def Obligations.WaitsExpireAndOwnersReset : Prop :=
(∀ (core : Nat) (s : State), core < 2048 → (∀ w, tfind s.spn.sync.waiters core = some w → s.sc.time.tick < w.expiry) →
    gives (.soWaitExpiry core) s s) ∧
  (∀ (core : Nat) (s : State) (w : Waiter), core < 2048 → tfind s.spn.sync.waiters core = some w → w.expiry ≤ s.sc.time.tick →
    tget [] s.spn.sync.queues (w.pid % 16) = [] ∨ s.spn.sync.frozen = true →
    ∃ t, exec (.soWaitExpiry core) s = .next t ∧ Elsewhere .spn s t ∧ tfind t.spn.sync.waiters core = none ∧ (t.cport core).status = 0x03 ∧
      (t.cport core).pending = false ∧ (t.reg .spn 0x0C08).testBit 0 = true ∧ t.spn.sync.objs = s.spn.sync.objs) ∧
  (∀ (core : Nat) (s : State) (w : Waiter) (q : QOp) (rest : List QOp) (o : Obj), core < 2048 → s.spn.sync.waiters = [(core, w)] → w.expiry ≤ s.sc.time.tick →
    s.sc.time.tick ≠ 0 → tget 0 s.spn.sync.served (w.pid % 16) ≠ s.sc.time.tick → s.spn.sync.frozen = false →
    tget [] s.spn.sync.queues (w.pid % 16) = q :: rest → tget [] s.spn.sync.stalled (w.pid % 16) = [] → q.pid = w.pid →
    s.xlatPid q.ctx q.vid = some q.pid → s.obj q.pid = some o → o.typ = .count → o.orphaned = false → q.op = 0x1 → q.arg ≠ 0 → w.op = 0x5 →
    w.arg ≤ o.value + q.arg → o.value + q.arg < 2 ^ 64 → q.sendDtc = none → q.cmd = none →
    ∃ t, exec (.soWaitExpiry core) s = .next t ∧ Elsewhere .spn s t ∧ tfind t.spn.sync.waiters core = none ∧ (t.cport core).status = 0 ∧
      (t.cport core).pending = false ∧ t.reg .spn 0x0C10 = s.reg .spn 0x0C10) ∧
  (∀ (core : Nat) (s : State), core < 2048 → ∃ t, exec (.soWaitExpiry core) s = .next t) ∧
  (∀ (core : Nat) (s : State), core < 2048 → ∃ t, exec (.coreResetInput core) s = .next t ∧ Elsewhere .spn s t ∧ tfind t.spn.bar.waits core = none) ∧
  (∀ (core pid : Nat) (s : State) (o : Obj), core < 2048 → s.obj pid = some o → o.orphaned = false → o.ownerCtx = s.ctxOf core →
    o.owner = s.logOf core → s.spn.sync.queues = [] →
    ∃ t o', exec (.coreResetInput core) s = .next t ∧ t.obj pid = some o' ∧ o'.orphaned = true ∧ o'.value = o.value) ∧
  (∀ (core : Nat) (s : State), core < 2048 → s.spn.sync.queues = [] →
    ∃ t, exec (.coreResetInput core) s = .next t ∧ tfind t.spn.sync.waiters core = none ∧ t.cport core = {}) ∧
  (∀ (s : State), s.spn.sync.snaps = [] → gives .countRealignCheck s s) ∧
  (∀ (s : State) (pid v x y : Nat) (o : Obj), s.spn.sync.snaps = [(pid, v, x, y)] → s.obj pid = some o → x = y → v = o.base →
    ∃ t, exec .countRealignCheck s = .next t ∧ Elsewhere .spn s t ∧ t.spn.sync.snaps = [] ∧
      t.obj pid = some (if o.mismatch then { o with mismatch := false, mod := (o.mod + 1) % 2 ^ 32 } else o)) ∧
  (∀ (s : State) (pid v x y : Nat) (o : Obj), s.spn.sync.snaps = [(pid, v, x, y)] → s.obj pid = some o → (x ≠ y ∨ v ≠ o.base) →
    ∃ t, exec .countRealignCheck s = .next t ∧ Elsewhere .spn s t ∧ t.spn.sync.snaps = [] ∧
      t.obj pid = some { o with mismatch := true, base := v % 2 ^ 32, mod := (o.mod + 1) % 2 ^ 32 } ∧ (t.reg .spn 0x0C08).testBit 2 = true) ∧
  (∀ (s : State), ∃ t, exec .countRealignCheck s = .next t)

/-- A remote signal of the die's partition is queued at its object's bank, or waits for a place there; any other is refused, counted and raised, and
nothing is queued. Its credit goes back when it enters the queue or is refused (R238, R256 to R258). REMOTE sends a SIGNAL cell in the plane it names and
shows POSTED; where the port is not UP it is refused (R256), as is one that fails at its port (R258). A tap word adds its pairs to their digest slots,
after D to those of the next step (R391, R392). -/
def Obligations.RemoteSignalsAndTaps : Prop :=
(∀ (m : SignalMsg) (s : State) (q : QOp) (o : Obj), m.port < 2 →
    q = { pid := q.pid, ctx := m.ctx % 64, vid := m.vid % 2 ^ 20, op := m.op % 256, arg := m.arg % 65536, operand := m.operand.toNat, src := m.src % 2 ^ 32
          core := m.core % 65536, sendDtc := some (m.sendDtc, 7 - m.hops), credit := some m.port } →
    s.memberOf m.part m.pepoch = true → q.ctx ∉ s.spn.sync.saved → q.op ∈ [0x1, 0x2, 0x3, 0xA] → s.xlatPid q.ctx q.vid = some q.pid →
    s.obj q.pid = some o → opFails q o s = none →
    ((tget [] s.spn.sync.queues (q.pid % 16)).length < 64 → s.fastMode = false ∨ (s.reg .spn 0x0D04).testBit 3 = false → q.src ≠ 0x8000_0000 + s.logOf q.core →
      gives (.signalCellReceived m) s
        (freeCredit .spn m.port clsSignal { s with spn.sync.queues := tmod [] s.spn.sync.queues (q.pid % 16) (fun l => l ++ [q]) })) ∧
    (64 ≤ (tget [] s.spn.sync.queues (q.pid % 16)).length →
      gives (.signalCellReceived m) s { s with spn.sync.stalled := tmod [] s.spn.sync.stalled (q.pid % 16) (fun l => l ++ [q]) })) ∧
  (∀ (m : SignalMsg) (s : State), m.port < 2 → s.memberOf m.part m.pepoch = false ∨ m.ctx % 64 ∈ s.spn.sync.saved ∨ m.op % 256 ∉ [0x1, 0x2, 0x3, 0xA] ∨
      s.xlatPid (m.ctx % 64) (m.vid % 2 ^ 20) = none →
    ∃ t, exec (.signalCellReceived m) s = .next t ∧ Elsewhere .spn s t ∧ t.spn.sync.queues = s.spn.sync.queues ∧ t.spn.sync.objs = s.spn.sync.objs ∧
      t.sc.ports = (freeCredit .spn m.port clsSignal s).sc.ports ∧
      (t.reg .spn 0x0C08).testBit 3 = true ∧ t.reg .spn 0x0C0C = min (s.reg .spn 0x0C0C + 1) 0xFFFF_FFFF) ∧
  (∀ (w : BitVec 256) (s : State) (v : Nat), v = w.toNat → s.memberOf (v / 2 ^ 176 % 65536) (v / 2 ^ 192 % 2 ^ 32) = false ∨
      v / 2 ^ 26 % 64 ≠ 0 ∨ v / 2 ^ 40 % 256 ≠ 0 ∨ v / 2 ^ 224 ≠ 0 ∨ v / 2 ^ 20 % 64 ∈ s.spn.sync.saved ∨ v / 2 ^ 32 % 256 ∉ [0x1, 0x2, 0x3, 0xA] ∨
      s.xlatPid (v / 2 ^ 20 % 64) (v % 2 ^ 20) = none →
    ∃ t, exec (.fabricSignalWord w) s = .next t ∧ Elsewhere .spn s t ∧ t.spn.sync.queues = s.spn.sync.queues ∧ (t.reg .spn 0x0C08).testBit 3 = true) ∧
  (∀ (w : BitVec 256) (s : State) (q : QOp) (o : Obj) (v : Nat), v = w.toNat → s.memberOf (v / 2 ^ 176 % 65536) (v / 2 ^ 192 % 2 ^ 32) = true →
    v / 2 ^ 26 % 64 = 0 → v / 2 ^ 40 % 256 = 0 → v / 2 ^ 224 = 0 → v / 2 ^ 20 % 64 ∉ s.spn.sync.saved → s.xlatPid (v / 2 ^ 20 % 64) (v % 2 ^ 20) = some q.pid →
    s.obj q.pid = some o →
    q = { pid := q.pid, ctx := v / 2 ^ 20 % 64, vid := v % 2 ^ 20, op := v / 2 ^ 32 % 256, arg := v / 2 ^ 48 % 65536, operand := v / 2 ^ 64 % 2 ^ 64
          src := v / 2 ^ 128 % 2 ^ 32, core := v / 2 ^ 160 % 65536 } →
    q.op ∈ [0x1, 0x2, 0x3, 0xA] → opFails q o s = none →
    ((tget [] s.spn.sync.queues (q.pid % 16)).length < 64 → s.fastMode = false ∨ (s.reg .spn 0x0D04).testBit 3 = false → q.src ≠ 0x8000_0000 + s.logOf q.core →
      gives (.fabricSignalWord w) s { s with spn.sync.queues := tmod [] s.spn.sync.queues (q.pid % 16) (fun l => l ++ [q]) }) ∧
    (64 ≤ (tget [] s.spn.sync.queues (q.pid % 16)).length →
      gives (.fabricSignalWord w) s { s with spn.sync.stalled := tmod [] s.spn.sync.stalled (q.pid % 16) (fun l => l ++ [q]) })) ∧
  (∀ (core : Nat) (a b d : Word64) (s : State) (n : Nat), s.corePresent core = true → s.syncStalled core = false → s.syncBusy core = false →
    s.fenced core = false → a.toNat % 16 = 0xC → a.toNat / 16 % 16 = 0 → a.toNat / 2 ^ 28 % 16 = 0 → b.toNat / 2 ^ 43 = 0 →
    b.toNat / 2 ^ 32 % 16 ∈ [0x1, 0x2, 0x3, 0xA] → s.spnPart ≠ 0 → n = b.toNat / 2 ^ 42 % 2 →
    ((s.port .spn n).state = .up → (s.port .spn n).keys.peerUntrusted = false →
      ∃ t c, exec (.soOpRemote core a b d) s = .next t ∧ Elsewhere .spn s t ∧ (t.cport core).status = 0x01 ∧ (t.port .spn n).tx = (s.port .spn n).tx ++ [c] ∧
        c.cls = clsSignal ∧ c.dst = b.toNat % 2 ^ 32 ∧ c.part = s.spnPart ∧ c.pepoch = s.spnPepoch ∧ c.body =
          signalBody (a.toNat / 256 % 2 ^ 20) (b.toNat / 2 ^ 36 % 64) (b.toNat / 2 ^ 32 % 16) (a.toNat / 2 ^ 32 % 65536) d.toNat (s.logOf core) s.dtc) ∧
    ((s.port .spn n).state ≠ .up →
      ∃ t, exec (.soOpRemote core a b d) s = .next t ∧ Elsewhere .spn s t ∧ (t.cport core).status = 0x01 ∧ t.sc.ports = s.sc.ports ∧
        t.reg .spn (portBase .spn n + 0x38) = min (s.reg .spn (portBase .spn n + 0x38) + 1) 0xFFFF_FFFF ∧ (t.reg .spn 0x0C08).testBit 3 = true)) ∧
  (∀ (core : Nat) (a b d : Word64) (s : State) (st : Nat), s.corePresent core = true → s.syncStalled core = false → a.toNat % 16 = 0xC →
    (s.syncBusy core = true ∧ st = 0x0A) ∨ (s.syncBusy core = false ∧ s.fenced core = true ∧ st = 0x0C) ∨
      (s.syncBusy core = false ∧ s.fenced core = false ∧ (a.toNat / 16 % 16 ≠ 0 ∨ a.toNat / 2 ^ 28 % 16 ≠ 0 ∨ b.toNat / 2 ^ 43 ≠ 0 ∨
        b.toNat / 2 ^ 32 % 16 ∉ [0x1, 0x2, 0x3, 0xA]) ∧ st = 0x08) ∨
      (s.syncBusy core = false ∧ s.fenced core = false ∧ a.toNat / 16 % 16 = 0 ∧ a.toNat / 2 ^ 28 % 16 = 0 ∧ b.toNat / 2 ^ 43 = 0 ∧
        b.toNat / 2 ^ 32 % 16 ∈ [0x1, 0x2, 0x3, 0xA] ∧ s.spnPart = 0 ∧ st = 0x0E) →
    ∃ t, exec (.soOpRemote core a b d) s = .next t ∧ Elsewhere .spn s t ∧ (t.cport core).status = st ∧ t.sc.ports = s.sc.ports ∧
      (t.reg .spn 0x0C08).testBit 3 = true ∧ t.reg .spn 0x0C0C = min (s.reg .spn 0x0C0C + 1) 0xFFFF_FFFF) ∧
  (∀ (core : Nat) (a b d : Word64) (s : State), core < 2048 → s.syncStalled core = true → gives (.soOpRemote core a b d) s s) ∧
  (∀ (core : Nat) (a b d : Word64) (s : State), core < 2048 → ∃ t, exec (.soOpRemote core a b d) s = .next t) ∧
  (∀ (w : BitVec 256) (s : State), w.toNat.testBit 120 = false → w.toNat.testBit 248 = false → gives (.fabricTapWord w) s s) ∧
  (∀ (w : BitVec 256) (s : State) (k x : Nat), w.toNat.testBit 120 = true → w.toNat.testBit 248 = false → k = w.toNat / 2 ^ 112 % 256 →
    x = w.toNat % 2 ^ 64 ^^^ w.toNat / 2 ^ 64 % 2 ^ 48 →
    (s.spn.launch.doffL = none → s.spn.launch.held = false → k < s.digestCount →
      gives (.fabricTapWord w) s { s with spn.det.slots := tmod 0 s.spn.det.slots k (fun v => (v + mix x) % 2 ^ 64) }) ∧
    (s.spn.launch.doffL = none → s.spn.launch.held = false → s.digestCount ≤ k →
      ∃ t, exec (.fabricTapWord w) s = .next t ∧ Elsewhere .spn s t ∧ t.spn.det.slots = s.spn.det.slots ∧ (t.reg .spn 0x1010).testBit 6 = true) ∧
    (s.spn.launch.doffL.isSome = true ∨ s.spn.launch.held = true → s.spnPart ≠ 0 → k < (s.nextDesc.map (·.digests)).getD 0 →
      ∃ t, exec (.fabricTapWord w) s = .next t ∧ Elsewhere .spn s t ∧ t.spn.det.slots = s.spn.det.slots ∧
        t.spn.det.late = tmod 0 s.spn.det.late k (fun v => (v + mix x) % 2 ^ 64) ∧ (t.reg .spn 0x1010).testBit 1 = true ∧
        t.reg .spn 0x1018 = min (s.reg .spn 0x1018 + 1) 0xFFFF_FFFF)) ∧
  (∀ (w : BitVec 256) (s : State), ∃ t, exec (.fabricTapWord w) s = .next t)

/-! ## Barriers and ply rounds -/

/-- BAR_OP. An arrival that is not the last is marked, ARRIVE shows POSTED and ARRIVE_WAIT waits, or with a test TIMEOUT shows its code; the last one
completes a LOCAL channel's generation and releases its waiters, and on a FAR channel contributes to its group's next round (R274, R275, R277, R282).
WAIT on a generation that has passed completes at once, and waits otherwise (R275). What R273 and R276 refuse shows its code and marks nothing. A wait
ends at its TIMEOUT (R280). -/
def Obligations.BarriersCollectAndComplete : Prop :=
(∀ f ∈ ([Instr.barArrive, Instr.barArriveWait, Instr.barWait] : List (Nat → Word → Instr)),
    ∀ (core : Nat) (w : Word) (s : State) (ch op : Nat), core < 2048 → ch = w.toNat % 8 → op = w.toNat / 8 % 4 →
    (s.corePresent core = false → gives (f core w) s s) ∧
    (∀ st, s.corePresent core = true → barRefused core ch w.toNat s = some st →
      gives (f core w) s (s.modCport core (fun c => { c with barStatus := st, barGen := (s.bchan ch).gen }))) ∧
    (s.corePresent core = true → barRefused core ch w.toNat s = none →
      (op ≠ 2 → core ∈ (s.bchan ch).arrived ∨ (op = 1 ∧ s.coreWaits core = true) →
        gives (f core w) s (s.modCport core (fun c => { c with barStatus := 0x0A, barGen := (s.bchan ch).gen }))) ∧
      (op = 0 → core ∉ (s.bchan ch).arrived → 2 ≤ (s.missing ch).length →
        ∃ t, exec (f core w) s = .next t ∧ Elsewhere .spn s t ∧ (t.cport core).barStatus = 0x01 ∧
          t.bchan ch = { s.bchan ch with arrived := (s.bchan ch).arrived ++ [core] } ∧ ∀ d, d ≠ ch → t.bchan d = s.bchan d) ∧
      (op = 0 → core ∉ (s.bchan ch).arrived → (s.bchan ch).group = none → s.missing ch = [core] →
        ∃ t, exec (f core w) s = .next t ∧ Elsewhere .spn s t ∧ (t.bchan ch).gen = ((s.bchan ch).gen + 1) % 65536 ∧ (t.bchan ch).arrived = [] ∧
          (t.reg .spn 0x0D08).testBit 3 = true ∧ (core ∉ s.barWaiters ch (some (s.bchan ch).gen) → (t.cport core).barStatus = 0x01) ∧
          ∀ c ∈ s.barWaiters ch (some (s.bchan ch).gen), (t.cport c).barStatus = 0 ∧ (t.cport c).barPending = false) ∧
      (∀ g, op = 0 → core ∉ (s.bchan ch).arrived → (s.bchan ch).group = some g → (s.bchan ch).localDone = false → s.missing ch = [core] →
        ∃ t, exec (f core w) s = .next t ∧ Elsewhere .spn s t ∧ (t.cport core).barStatus = 0x01 ∧
          t.bchan ch = { s.bchan ch with arrived := (s.bchan ch).arrived ++ [core], localDone := true } ∧
          tfind t.spn.ply.held g = some (s.stepC, tget 0 s.spn.ply.round g)) ∧
      (op = 1 → core ∉ (s.bchan ch).arrived → s.coreWaits core = false → 2 ≤ (s.missing ch).length ∨ (s.bchan ch).group ≠ none →
        (w.toNat / 65536 % 4096 ≠ 0 → ∃ t x, exec (f core w) s = .next t ∧ Elsewhere .spn s t ∧ tfind t.spn.bar.waits core = some x ∧ x.chan = ch ∧
          x.gen = (s.bchan ch).gen ∧ x.expiry = s.sc.time.tick + timeoutNs (w.toNat / 65536) ∧ (t.cport core).barPending = true ∧
          (t.bchan ch).arrived = (s.bchan ch).arrived ++ [core]) ∧
        (w.toNat / 65536 % 4096 = 0 → ∃ t, exec (f core w) s = .next t ∧ Elsewhere .spn s t ∧ (t.cport core).barStatus = 0x02 ∧
          (t.cport core).barPending = false ∧ (t.bchan ch).arrived = (s.bchan ch).arrived ++ [core])) ∧
      (op = 1 → core ∉ (s.bchan ch).arrived → s.coreWaits core = false → (s.bchan ch).group = none → s.missing ch = [core] →
        ∃ t, exec (f core w) s = .next t ∧ Elsewhere .spn s t ∧ (t.cport core).barStatus = 0 ∧ (t.cport core).barPending = false ∧
          (t.cport core).barGen = (s.bchan ch).gen ∧ (t.bchan ch).gen = ((s.bchan ch).gen + 1) % 65536) ∧
      (op = 2 → tget 0 s.spn.bar.lastArr (core * 8 + ch) = 0 →
        gives (f core w) s (s.modCport core (fun c => { c with barStatus := 0x08, barGen := (s.bchan ch).gen }))) ∧
      (∀ n, op = 2 → tget 0 s.spn.bar.lastArr (core * 8 + ch) = n + 1 →
        (s.coreWaits core = true → gives (f core w) s (s.modCport core (fun c => { c with barStatus := 0x0A, barGen := (s.bchan ch).gen }))) ∧
        (s.coreWaits core = false → n ≠ (s.bchan ch).gen → gives (f core w) s (s.modCport core (fun c => { c with barStatus := 0, barGen := n }))) ∧
        (s.coreWaits core = false → n = (s.bchan ch).gen → w.toNat / 65536 % 4096 = 0 →
          gives (f core w) s (s.modCport core (fun c => { c with barStatus := 0x02, barGen := n }))) ∧
        (s.coreWaits core = false → n = (s.bchan ch).gen → w.toNat / 65536 % 4096 ≠ 0 →
          ∃ t x, exec (f core w) s = .next t ∧ Elsewhere .spn s t ∧ tfind t.spn.bar.waits core = some x ∧ x.chan = ch ∧ x.gen = n ∧
            x.expiry = s.sc.time.tick + timeoutNs (w.toNat / 65536) ∧ (t.cport core).barPending = true ∧ t.spn.bar.chans = s.spn.bar.chans)))) ∧
  (∀ (core : Nat) (s : State) (x : BarWait), core < 2048 → tfind s.spn.bar.waits core = some x → x.expiry ≤ s.sc.time.tick →
    ∃ t, exec (.barrierWaitExpiry core) s = .next t ∧ Elsewhere .spn s t ∧ tfind t.spn.bar.waits core = none ∧ (t.cport core).barStatus = 0x03 ∧
      (t.cport core).barPending = false ∧ t.spn.bar.chans = s.spn.bar.chans ∧ (t.reg .spn 0x0D08).testBit 0 = true) ∧
  (∀ (core : Nat) (s : State), core < 2048 → (∀ x, tfind s.spn.bar.waits core = some x → s.sc.time.tick < x.expiry) →
    gives (.barrierWaitExpiry core) s s)

/-- A first report opens a round, which the last child's report completes toward the parent; a report that cannot be combined with the first fails the
round with cause 2, and an interrupted message counts as a report with cause 1; a report of another epoch, of a port that is no child, of an UNTRUSTED
die, or of a key that is not newer changes no round but for what R313 has an excluded port count as (R312 to R314).
PLY_DOWN goes on every child port of its tree with one HOP less; with none left, or of another epoch, it is dropped and counted on the port it came
from (R58, R66, R68, R315). At the die a release for the round that it holds writes OUT and completes the bound channel, and any other is counted and
discarded (R306, R311). -/
def Obligations.PlyRoundsAndReleases : Prop :=
(∀ (port : Nat) (m : PlyUp) (s : State) (k : Nat) (x : Tree), port < 129 → k = plyKey m.part m.tree → m.part ≠ 0xFFFF →
    m.pepoch = tget 0 s.crl.epochs m.part → s.plyTree k = some x → s.plyExcluded port = false →
    (∀ other, other ≠ port → x.kids = [port, other] → s.plyExcluded other = false → s.round k = {} → m.empty = false → m.failed = false → m.gap = false →
      m.ecc = false →
      ∃ t, exec (.plyUpReceived port m) s = .next t ∧ Elsewhere .crl s t ∧ t.round k = { c := m.c, n := m.n, isOpen := true, reports := [(port, m)] } ∧
        ∀ j, j ≠ k → t.round j = s.round j) ∧
    (∀ other, other ≠ port → x.kids = [port, other] → s.plyExcluded other = false → s.round k = {} → m.empty = true →
      ∃ t, exec (.plyUpReceived port m) s = .next t ∧ Elsewhere .crl s t ∧ t.round k = { held := [(port, m)] }) ∧
    (∀ up, x.kids = [port] → x.up = some up → s.round k = {} → m.empty = false → m.failed = false → m.gap = false → m.ecc = false →
      (s.port .crl up).state = .up → (s.port .crl up).keys.peerUntrusted = false →
      ∃ t, exec (.plyUpReceived port m) s = .next t ∧ Elsewhere .crl s t ∧ (t.round k).isOpen = false ∧ (t.round k).done = some (m.c, m.n) ∧
        (t.round k).reports = [] ∧ (t.port .crl up).tx.length = (s.port .crl up).tx.length + (plyUpCells m).length) ∧
    (∀ up other m0, other ≠ port → x.kids = [other, port] → x.up = some up →
      s.round k = { c := m.c, n := m.n, isOpen := true, reports := [(other, m0)] } → m.empty = false → m.failed = false → m.gap = false → m.ecc = false →
      plyAlike m0 m = true → m0.gap = false →
      ∃ t, exec (.plyUpReceived port m) s = .next t ∧ Elsewhere .crl s t ∧ (t.round k).isOpen = false ∧ (t.round k).done = some (m.c, m.n) ∧
        (t.round k).reports = []) ∧
    (∀ other third m0, other ≠ port → third ≠ port → third ≠ other → x.kids = [other, port, third] → s.plyExcluded third = false →
      s.round k = { c := m.c, n := m.n, isOpen := true, reports := [(other, m0)] } → m.empty = false → m.gap = false → m0.gap = false →
      plyAlike m0 m = false →
      ∃ t, exec (.plyUpReceived port m) s = .next t ∧ Elsewhere .crl s t ∧ (t.round k).failed = some 2 ∧ (t.round k).isOpen = true ∧
        (t.round k).reports = [(other, m0), (port, m)] ∧ (t.reg .crl 0x4004).testBit 1 = true) ∧
    (port ∈ x.kids → (s.round k).stale m = true →
      ∃ t, exec (.plyUpReceived port m) s = .next t ∧ Elsewhere .crl s t ∧ (∀ j, t.round j = s.round j) ∧
        t.reg .crl 0x4010 = min (s.reg .crl 0x4010 + 1) 0xFFFF_FFFF)) ∧
  (∀ (port : Nat) (m : PlyUp) (s : State), port < 129 → m.pepoch ≠ (if m.part = 0xFFFF then 0 else tget 0 s.crl.epochs m.part) →
    ∃ t, exec (.plyUpReceived port m) s = .next t ∧ Elsewhere .crl s t ∧ (∀ k, t.round k = s.round k) ∧
      t.reg .crl (portBase .crl port + 0x28) = min (s.reg .crl (portBase .crl port + 0x28) + (plyUpCells m).length) 0xFFFF_FFFF) ∧
  (∀ (port : Nat) (m : PlyUp) (s : State), port < 129 → m.pepoch = (if m.part = 0xFFFF then 0 else tget 0 s.crl.epochs m.part) →
    (∀ x, s.plyTree (plyKey m.part m.tree) = some x → port ∉ x.kids) →
    gives (.plyUpReceived port m) s { s with crl.ply.heads := tdel s.crl.ply.heads (port * 2 ^ 32 + plyKey m.part m.tree) }) ∧
  (∀ (port : Nat) (m : PlyUp) (s : State) (x : Tree), port < 129 → m.part ≠ 0xFFFF → m.pepoch = tget 0 s.crl.epochs m.part →
    s.plyTree (plyKey m.part m.tree) = some x → port ∈ x.kids → s.plyExcluded port = true → (s.round (plyKey m.part m.tree)).stale m = true →
    ∃ t, exec (.plyUpReceived port m) s = .next t ∧ Elsewhere .crl s t ∧ (∀ j, t.round j = s.round j) ∧
      t.reg .crl 0x4014 = min (s.reg .crl 0x4014 + 1) 0xFFFF_FFFF) ∧
  (∀ (port : Nat) (m : PlyUp) (s : State), port < 129 → ∃ t, exec (.plyUpReceived port m) s = .next t) ∧
  (∀ (part tree port other : Nat) (m : PlyUp) (s : State) (k : Nat) (x : Tree), part < 0xFFFF → port < 129 → other ≠ port → k = plyKey part tree →
    tfind s.crl.ply.heads (port * 2 ^ 32 + k) = some m → m.part = part → m.tree = tree →
    m.pepoch = tget 0 s.crl.epochs part → s.plyTree k = some x → x.kids = [port, other] → s.plyExcluded port = false → s.plyExcluded other = false →
    s.round k = {} →
    ∃ t, exec (.plyCellGapTimeout part tree port) s = .next t ∧ Elsewhere .crl s t ∧ (t.round k).failed = some 1 ∧ (t.round k).isOpen = true ∧
      (t.round k).reports.map (·.1) = [port] ∧ (t.reg .crl 0x4004).testBit 0 = true) ∧
  (∀ (part tree port : Nat) (s : State), part < 0x1_0000 → port < 129 → tfind s.crl.ply.heads (port * 2 ^ 32 + plyKey part tree) = none →
    (s.round (plyKey part tree)).isOpen = false → gives (.plyCellGapTimeout part tree port) s s) ∧
  (∀ (part tree port : Nat) (s : State), part < 0x1_0000 → port < 129 → ∃ t, exec (.plyCellGapTimeout part tree port) s = .next t) ∧
(∀ (m : PlyDown) (s : State) (x : Tree) (n : Nat), m.hops ≠ 0 → m.pepoch = (if m.part = 0xFFFF then 0 else tget 0 s.crl.epochs m.part) →
    s.plyTree (plyKey m.part m.tree) = some x → x.kids = [n] → (s.port .crl n).state = .up → (s.port .crl n).keys.peerUntrusted = false →
    ∃ t cs, exec (.plyDownForward m) s = .next t ∧ Elsewhere .crl s t ∧ (t.port .crl n).tx = (s.port .crl n).tx ++ cs ∧ cs.length = (plyDownCells m).length ∧
      (∀ c ∈ cs, c.hops = m.hops - 1 ∧ c.cls = clsPly) ∧ ∀ j, j ≠ n → t.port .crl j = s.port .crl j) ∧
  (∀ (m : PlyDown) (s : State) (o : Nat), (m.hops = 0 ∧ o = 0x2C) ∨
      (m.hops ≠ 0 ∧ m.pepoch ≠ (if m.part = 0xFFFF then 0 else tget 0 s.crl.epochs m.part) ∧ o = 0x28) →
    (∀ x up, s.plyTree (plyKey m.part m.tree) = some x → x.up = some up →
      ∃ t, exec (.plyDownForward m) s = .next t ∧ Elsewhere .crl s t ∧ t.cc.ports = s.cc.ports ∧
        t.reg .crl (portBase .crl up + o) = min (s.reg .crl (portBase .crl up + o) + (plyDownCells m).length) 0xFFFF_FFFF) ∧
    ((∀ x, s.plyTree (plyKey m.part m.tree) = some x → x.up = none) → gives (.plyDownForward m) s s)) ∧
  (∀ (m : PlyDown) (s : State), m.hops ≠ 0 → m.pepoch = (if m.part = 0xFFFF then 0 else tget 0 s.crl.epochs m.part) →
    s.plyTree (plyKey m.part m.tree) = none → gives (.plyDownForward m) s s) ∧
  (∀ (m : PlyDown) (s : State), ∃ t, exec (.plyDownForward m) s = .next t ∧ Elsewhere .crl s t) ∧
  (∀ (m : PlyDown) (s : State) (ch : Nat) (b : BarChan), m.part = s.spnPart → m.pepoch = s.spnPepoch → s.spnPart ≠ 0 → m.n < 65536 → m.tree < 64 →
    s.spn.bar.chans = [(ch, b)] → b.group = some m.tree → tfind s.spn.ply.held m.tree = some (m.c, m.n) → s.chanEmpty ch = false →
    ∃ t, exec (.plyRelease m) s = .next t ∧ Elsewhere .spn s t ∧ tfind t.spn.ply.held m.tree = none ∧ tget 0 t.spn.ply.round m.tree = (m.n + 1) % 65536 ∧
      (t.bchan ch).gen = (b.gen + 1) % 65536 ∧ (t.bchan ch).arrived = [] ∧ t.reg .spn 0x0F0C = m.n + 65536 * m.tree ∧
      memRd t.spn.ply.area (outBase ch) 4 = le 2 m.n ++ le 2 m.flags) ∧
  (∀ (m : PlyDown) (s : State), m.part = s.spnPart → m.pepoch = s.spnPepoch → s.spnPart ≠ 0 →
    tfind s.spn.ply.held m.tree ≠ some (m.c, m.n) ∨ (∀ e ∈ s.spn.bar.chans, e.2.group ≠ some m.tree) →
    gives (.plyRelease m) s (s.setReg .spn 0x0D14 (min (s.reg .spn 0x0D14 + 1) 0xFFFF_FFFF))) ∧
  (∀ (m : PlyDown) (s : State) (o : Nat), o = portBase .spn (planeNat s.spn.banks.plane) + 0x28 →
    s.spnPart = 0 ∨ m.part ≠ s.spnPart ∨ m.pepoch ≠ s.spnPepoch →
    gives (.plyRelease m) s (s.setReg .spn o (min (s.reg .spn o + (plyDownCells m).length) 0xFFFF_FFFF)))

/-! ## Output and planner -/

/-- Held output is written when its ring gains room (R348, R349); a delta that the standby root acknowledges waits no longer (R376); a root whose standby
root has gone plans alone, and copies its table anew when one is back (R377).
A planning pass is made once for each doff: it takes new parameters and admits the queued request to the lowest slot of a band; the request is JOINING
once a launch takes its join, and its join waits where none pends (R353, R358 to R361); a straggler's mark counts once per launch (R369); a move that waits
too long fails (R371). -/
def Obligations.OutputMirroringAndPlanning : Prop :=
(∀ (part : Nat) (s : State) (r : PRoot) (p : OPiece), part < 0x1_0000 → s.crl.parts = [(part, r)] → r.out.held = [p] → p.kind = .plan →
    r.plan.ring ≠ 0xFFFF → s.canPost .crl r.plan.ring p.body.length = true →
    ∃ t r', exec (.heldOutputWrite part) s = .next t ∧ Kept .spn s t ∧ t.proot part = some r' ∧ r'.out.held = [] ∧ r'.launch = r.launch) ∧
  (∀ (part : Nat) (s : State), part < 0x1_0000 → (∀ e ∈ s.crl.parts, e.1 % 65536 ≠ part) → gives (.heldOutputWrite part) s s) ∧
  (∀ (part : Nat) (s : State), part < 0x1_0000 → ∃ t, exec (.heldOutputWrite part) s = .next t) ∧
  (∀ (part c n : Nat) (s : State) (r : PRoot), part < 0x1_0000 → n < 2 ^ 32 → s.proot part = some r →
    ∃ t r', exec (.mirrorAckReceived part c n) s = .next t ∧ Kept .spn s t ∧ t.proot part = some r' ∧ r'.out.unacked = r.out.unacked.filter (· ≠ c) ∧
      r'.out.lag = r'.out.unacked.any (fun u => u + 4 ≤ r.nowC) ∧ t.crl.planner.standbyTick = s.cc.time.tick) ∧
  (∀ (part c n : Nat) (s : State), part < 0x1_0000 → n < 2 ^ 32 → s.proot part = none →
    gives (.mirrorAckReceived part c n) s { s with crl.planner.standbyTick := s.cc.time.tick }) ∧
  (∀ (s : State), s.crl.mirror = [] → s.crl.planner.solo = false → s.crl.parts ≠ [] → s.standbyLost = true →
    ∃ t, exec .mirrorSilenceTimeout s = .next t ∧ Kept .spn s t ∧ t.crl.planner.solo = true ∧ (t.reg .crl 0x4204).testBit 5 = true ∧
      (∀ e ∈ t.crl.planner.reqs, e.2.mirrored = false) ∧ ∀ e ∈ t.crl.parts, e.2.out.unacked = [] ∧ e.2.out.lag = false) ∧
  (∀ (s : State), s.crl.mirror = [] → s.standbyLost = false ∨ s.crl.planner.solo = true ∨ s.crl.parts = [] → gives .mirrorSilenceTimeout s s) ∧
  (∀ (s : State), ∃ t, exec .mirrorSilenceTimeout s = .next t) ∧
  (∀ (s : State), s.crl.planner.solo = true → (s.port .crl pxPort).state = .up → s.crl.planner.rebuild = none →
    gives .mirrorRebuildStart s { s with crl.planner.rebuild := some 0 }) ∧
  (∀ (s : State), s.crl.planner.solo = false ∨ (s.port .crl pxPort).state ≠ .up ∨ s.crl.planner.rebuild.isSome = true → gives .mirrorRebuildStart s s) ∧
(∀ (part : Nat) (s : State) (r : PRoot), part < 0x1_0000 → s.proot part = some r → coreDown .crl 2 s = false → r.plan.due ≠ 0 → r.tearing = false →
    ∃ t r', exec (.planningPass part) s = .next t ∧ Kept .spn s t ∧ t.proot part = some r' ∧ r'.plan.due = r.plan.due - 1 ∧ r'.planNew = none ∧
      r'.launch = r.launch ∧ ∀ n, r.planNew = some n → r'.plan.quota = n.quota ∧ r'.plan.bands = n.bands) ∧
  (∀ (part : Nat) (s : State), part < 0x1_0000 → coreDown .crl 2 s = true ∨ (∀ r, s.proot part = some r → r.plan.due = 0 ∨ r.tearing = true) →
    gives (.planningPass part) s s) ∧
  (∀ (part i b n : Nat) (s : State) (r : PRoot) (e : ReqEnt), part < 0x1_0000 → s.proot part = some r → coreDown .crl 2 s = false → r.plan.due ≠ 0 →
    r.tearing = false → r.planNew = none → r.plan.bands = [(b, n)] → n ≠ 0 → b < 8192 → r.plan.draining = [] → r.plan.strag = [] → r.plan.quota ≠ 0 →
    r.plan.admitMax ≠ 0 → r.plan.rebinds = [] → r.txns = [] → s.crl.planner.reqs = [(i, e)] → e.part = part → e.state = .queued → e.slot = 0xFFFF →
    e.newSlot = 0xFFFF →
    (∀ p, r.launch.pend = [p] → p.retry = false → r.inTime (s.crlDtc part) (1000 * r.plan.lead) 3 p.l = true →
      ∃ t e', exec (.planningPass part) s = .next t ∧ Kept .spn s t ∧ t.req i = some e' ∧ e'.state = .joining ∧ e'.slot = b ∧ e'.band = 0 ∧ e'.id = e.id ∧
        e'.targetC = p.c) ∧
    (r.launch.pend = [] → ∃ t r' e' x, exec (.planningPass part) s = .next t ∧ Kept .spn s t ∧ t.req i = some e' ∧ e'.state = .queued ∧ e'.id = e.id ∧
      t.proot part = some r' ∧ r'.txns = [x] ∧ x.acts = [.join i b] ∧ x.sent = false)) ∧
  (∀ (part hea l reason unit : Nat) (s : State) (r : PRoot) (m : Member), part < 0x1_0000 → unit < 256 → s.proot part = some r → r.members = [m] →
    m.hea = hea → r.cOf l ∉ m.marks → r.counts (r.cOf l) = true →
    ∃ t r', exec (.stragglerReceived part hea l reason unit) s = .next t ∧ Kept .spn s t ∧ t.proot part = some r' ∧
      r'.members = [{ m with marks := m.marks.filter r.counts ++ [r.cOf l] }] ∧ r'.launch = r.launch ∧
      ((m.marks.filter r.counts).length + 1 = r.plan.stragN → hea ∈ r'.plan.strag)) ∧
  (∀ (part hea l reason unit : Nat) (s : State) (r : PRoot) (m : Member), part < 0x1_0000 → unit < 256 → s.proot part = some r →
    r.members.find? (fun m => m.hea = hea) = some m → r.cOf l ∈ m.marks ∨ r.counts (r.cOf l) = false →
    ∃ t r', exec (.stragglerReceived part hea l reason unit) s = .next t ∧ Kept .spn s t ∧ t.proot part = some r' ∧ r'.members = r.members ∧
      r'.plan.strag = r.plan.strag) ∧
  (∀ (part hea l reason unit : Nat) (s : State), part < 0x1_0000 → unit < 256 → s.proot part = none → gives (.stragglerReceived part hea l reason unit) s s) ∧
  (∀ (part hea l reason unit : Nat) (s : State), part < 0x1_0000 → unit < 256 → ∃ t, exec (.stragglerReceived part hea l reason unit) s = .next t) ∧
  (∀ (idx : Nat) (s : State) (e : ReqEnt) (r : PRoot), idx < 524_288 → s.req idx = some e → s.proot e.part = some r → e.state = .moving →
    e.tState + 1_000_000 * r.plan.moveTo ≤ s.crlDtc e.part →
    ∃ t, exec (.moveTimeoutExpiry idx) s = .next t ∧ Kept .spn s t ∧ t.req idx = none ∧ (t.reg .crl 0x4204).testBit 3 = true) ∧
  (∀ (idx : Nat) (s : State), idx < 524_288 → (∀ e, s.req idx = some e → e.state ≠ .moving ∨
      ∀ r, s.proot e.part = some r → s.crlDtc e.part < e.tState + 1_000_000 * r.plan.moveTo) →
    gives (.moveTimeoutExpiry idx) s s)

/-! ## Whorl -/

/-- A period start takes the registers and the committed plant values (R405, R427); a Spindle sends its sample, or takes one first (R407), and a sample is
latched within 500 ns of its pulse and, where a contribution waits for it, sent (R544); a rack Creel sends a lost port's last contribution again for 10,000
periods, and then reports it EMPTY (R408). -/
def Obligations.WhorlPeriodsStart : Prop :=
(∀ (s : State), s.cc.time.gtValid = true → (∀ k, s.crl.whorl.k = some k → k < whorlPeriod (s.gt .crl)) →
    ∃ t, exec .whorlPeriodStart s = .next t ∧ Elsewhere .crl s t ∧ t.crl.whorl.k = some (whorlPeriod (s.gt .crl)) ∧ (∀ off ∈ envRegs, t.whEnv off = s.reg .crl off) ∧
      t.crl.plant.taken = s.crl.plant.commit.orElse (fun _ => s.crl.plant.taken) ∧ t.crl.plant.commit = none ∧ t.crl.whorl.master = s.plantLead) ∧
  (∀ (s : State), s.cc.time.gtValid = false ∨ (∃ k, s.crl.whorl.k = some k ∧ whorlPeriod (s.gt .crl) ≤ k) → gives .whorlPeriodStart s s) ∧
  (∀ (s : State), s.sc.time.gtValid = true → (∀ k, s.spn.wh.k = some k → k < whorlPeriod (s.gt .spn)) →
    (s.spnPart = 0 ∨ (∀ x, s.spn.wh.lastD = some x → x + 100_000 < s.sc.time.tick) → gives .whorlPeriodSpindle s { s with
      spn.wh.k := some (whorlPeriod (s.gt .spn)), spn.wh.pulse := some s.sc.time.tick, spn.wh.due := some (whorlPeriod (s.gt .spn)) }) ∧
    (∀ x, s.spnPart ≠ 0 → s.spn.wh.lastD = some x → s.sc.time.tick ≤ x + 100_000 →
      ∃ t, exec .whorlPeriodSpindle s = .next t ∧ Elsewhere .spn s t ∧ t.spn.wh = { s.spn.wh with k := some (whorlPeriod (s.gt .spn)), due := none })) ∧
  (∀ (s : State), s.sc.time.gtValid = false ∨ (∃ k, s.spn.wh.k = some k ∧ whorlPeriod (s.gt .spn) ≤ k) → gives .whorlPeriodSpindle s s) ∧
  (∀ (w : Word) (s : State), (∀ x, s.spn.wh.pulse = some x → s.sc.time.tick ≤ x + 500) →
    (s.spn.wh.due = none → gives (.powerSampleValid w) s { s with spn.wh.sample := w.toNat }) ∧
    ∃ t, exec (.powerSampleValid w) s = .next t ∧ Elsewhere .spn s t ∧ t.spn.wh = { s.spn.wh with sample := w.toNat, due := none }) ∧
  (∀ (w : Word) (s : State) (x : Nat), s.spn.wh.pulse = some x → x + 500 < s.sc.time.tick → gives (.powerSampleValid w) s s) ∧
  (∀ (port : Nat) (s : State) (m : PlyUp) (n : Nat), port < 129 → s.cc.topo.tier = 1 → port ∈ s.cc.topo.powerKids →
    (s.port .crl port).state ≠ .up → s.cc.time.gtValid = true → tfind s.crl.powerRep port = some (m, n) → n < 10_000 → m.part = 0xFFFF →
    ∃ t, exec (.rackPeriodResend port) s = .next t ∧ Elsewhere .crl s t ∧ tfind t.crl.powerRep port = some (m, n + 1)) ∧
  (∀ (port other : Nat) (s : State) (k : Nat), port < 129 → other ≠ port → s.cc.topo.tier = 1 → s.cc.topo.powerKids = [port, other] →
    (s.port .crl port).state ≠ .up → s.cc.time.gtValid = true → (∀ e, tfind s.crl.powerRep port = some e → 10_000 ≤ e.2) →
    k = plyKey 0xFFFF s.cc.topo.powerTree → s.round k = {} → s.plyExcluded port = false → s.plyExcluded other = false →
    ∃ t x, exec (.rackPeriodResend port) s = .next t ∧ Elsewhere .crl s t ∧ (t.round k).held = [(port, x)] ∧ x.empty = true ∧ (t.round k).isOpen = false) ∧
  (∀ (port : Nat) (s : State), port < 129 → s.cc.topo.tier ≠ 1 ∨ port ∉ s.cc.topo.powerKids ∨ (s.port .crl port).state = .up ∨ s.cc.time.gtValid = false →
    gives (.rackPeriodResend port) s s) ∧
  (∀ (port : Nat) (s : State), port < 129 → ∃ t, exec (.rackPeriodResend port) s = .next t)

/-- A period's result moves the track toward the load by at most UP and DN, within PMIN and PMAX (R412); during a trip the track follows the load (R422);
where Whorl is not enabled only the measurements are taken; a round that does not come in half a period is counted, and the tenth in a row blinds the master
(R408). -/
def Obligations.WhorlLawTracksLoad : Prop :=
(∀ (k : Nat) (l : List Int) (s : State) (p : Int) (e : Envelope), s.hallLanes k = some l → s.roundOpen k = true → s.sincePeriod k < 50_000 →
    coreDown .crl 1 s = false → p = (s.whEnv 0x4414 : Int) + (l.take 62).foldl (· + ·) 0 → e = s.envelope →
    (s.crl.whorl.tripped = false → (s.whEnv 0x4400).testBit 0 = true → s.crl.whorl.started = true →
      ∃ t, exec (.hallPowerResult k ()) s = .next t ∧ Elsewhere .crl s t ∧ t.crl.whorl.p = p ∧ t.crl.whorl.settled = some k ∧ t.crl.whorl.missRun = 0 ∧
        t.crl.whorl.blind = false ∧ t.crl.whorl.r = max e.pmin (min (max (s.crl.whorl.r - e.dn) (min p (s.crl.whorl.r + e.up))) e.pmax) ∧
        e.pmin ≤ t.crl.whorl.r ∧ t.crl.whorl.r ≤ e.pmax ∧ t.crl.whorl.prevE = p - t.crl.whorl.r) ∧
    (s.crl.whorl.tripped = true →
      ∃ t, exec (.hallPowerResult k ()) s = .next t ∧ Elsewhere .crl s t ∧ t.crl.whorl.r = p ∧ t.crl.whorl.p = p ∧ t.crl.whorl.tripped = true ∧
        t.crl.whorl.tripConf = (s.crl.whorl.tripConf || decide (p ≤ 1000 * s.whEnv 0x4424))) ∧
    (s.crl.whorl.tripped = false → (s.whEnv 0x4400).testBit 0 = false → gives (.hallPowerResult k ()) s { s with
      crl.whorl.p := p, crl.whorl.lane62 := l.getD 62 0, crl.whorl.settled := some k, crl.whorl.missRun := 0, crl.whorl.blind := false })) ∧
  (∀ (k : Nat) (s : State), s.hallLanes k = none ∨ s.roundOpen k = false ∨ 50_000 ≤ s.sincePeriod k ∨ coreDown .crl 1 s = true →
    gives (.hallPowerResult k ()) s s) ∧
  (∀ (k : Nat) (s : State), ∃ t, exec (.hallPowerResult k ()) s = .next t) ∧
  (∀ (k : Nat) (s : State), s.roundOpen k = true → 50_000 ≤ s.sincePeriod k →
    ∃ t, exec (.whorlRoundMissed k) s = .next t ∧ Elsewhere .crl s t ∧ t.crl.whorl = { s.crl.whorl with
      missRun := s.crl.whorl.missRun + 1, settled := some k, blind := s.crl.whorl.blind || s.crl.whorl.missRun = 9 } ∧
      (s.crl.whorl.missRun = 9 → (t.reg .crl 0x4434).testBit 2 = true)) ∧
  (∀ (k : Nat) (s : State), (s.roundOpen k = false ∨ s.sincePeriod k < 50_000) → gives (.whorlRoundMissed k) s s)

/-- A newer WHORL_SET is applied at the root, an older one is not (R415, R416); a root commits the IDLE launch of a coast where the master allows it and nothing
pends, each following one 100 µs later (R418), and that of a wind-up (R420). -/
def Obligations.WhorlSetsAndCoast : Prop :=
(∀ (part : Nat) (m : WhorlSet) (s : State) (r : PRoot), part < 0x1_0000 → s.proot part = some r → seqNewer m.seq r.freq.whSeq = true →
    ∃ t r', exec (.whorlSetReceived part m) s = .next t ∧ Elsewhere .crl s t ∧ t.proot part = some r' ∧ r'.freq.fceil = m.fceil % 16 ∧ r'.freq.ballast = m.ballast % 256 ∧
      r'.freq.held = m.held ∧ r'.freq.windUp = m.windUp ∧ r'.freq.coastOk = m.coastOk ∧ r'.freq.coast = m.coast ∧ r'.freq.whSeq = some m.seq ∧
      r'.launch.newStagger = some (min 200 m.stagger) ∧ r'.launch.stagger = r.launch.stagger ∧ r'.launch.pend = r.launch.pend) ∧
  (∀ (part : Nat) (m : WhorlSet) (s : State), part < 0x1_0000 → (∀ r, s.proot part = some r → seqNewer m.seq r.freq.whSeq = false) →
    gives (.whorlSetReceived part m) s s) ∧
  (∀ (part : Nat) (s : State) (r : PRoot), part < 0x1_0000 → s.proot part = some r → r.inService = true → r.tearing = false → r.launch.pend = [] →
    (r.freq.held = false → r.freq.windDown = false → r.freq.coastOk = true → r.launch.holding = false → r.launch.coastC = none →
      ∃ t r' p, exec (.coastLaunchCommit part) s = .next t ∧ Kept .spn s t ∧ t.proot part = some r' ∧ r'.launch.pend = [p] ∧ p.kind = 2 ∧ p.idx = r.idleIdx ∧
        p.c = (r.launch.commitNo + 1) % 2 ^ 32 ∧ p.l = r.idleAt (s.crlDtc part) ∧ r'.launch.coastC = some p.c ∧ r'.freq.ballast = r.freq.coast) ∧
    (r.freq.held = false → r.freq.windDown = false → r.freq.coastOk = true → r.launch.holding = false → r.launch.coastC.isSome = true →
      ∃ t r' p, exec (.coastLaunchCommit part) s = .next t ∧ Kept .spn s t ∧ t.proot part = some r' ∧ r'.launch.pend = [p] ∧ p.kind = 2 ∧ p.idx = r.idleIdx ∧
        p.l = max (r.launch.lastL + 100_000) (s.crlDtc part + 50_000) ∧ r'.launch.coastC = some p.c ∧ r'.freq.ballast = r.freq.ballast) ∧
    (r.freq.held = true → r.freq.windUp = true →
      ∃ t r' p, exec (.coastLaunchCommit part) s = .next t ∧ Kept .spn s t ∧ t.proot part = some r' ∧ r'.launch.pend = [p] ∧ p.kind = 2 ∧ p.idx = r.idleIdx ∧
        p.windUp = true ∧ p.l = max (s.crlDtc part + 50_000) (r.launch.lastL + 100_000)) ∧
    (r.freq.held = false ∨ r.freq.windUp = false → r.freq.windDown = false → r.freq.coastOk = false ∨ r.launch.holding = true →
      gives (.coastLaunchCommit part) s s)) ∧
  (∀ (part : Nat) (s : State), part < 0x1_0000 → (∀ r, s.proot part = some r → r.inService = false ∨
      (r.tearing = false ∧ (r.freq.held = false ∨ r.freq.windUp = false) ∧ r.launch.pend ≠ [])) →
    gives (.coastLaunchCommit part) s s) ∧
  (∀ (part : Nat) (s : State), part < 0x1_0000 → ∃ t, exec (.coastLaunchCommit part) s = .next t)

/-- PLANT_TRIP that has been asserted for TRIP_DEB at the master trips the hall: every ceiling at 0, every lane held (R422); a standby sends the trip over PX. A
trip that reaches a Spindle takes its ballast to 0 and gates its regions, once for each number (R544); TRIP = 0 ends it (R423). A Creel holds its partitions'
lanes; a cell with no HOPS left is dropped and counted (R58). SPN_STEPFAIL fails the running step, or the one that ended less than 1,000 ns ago (R544). -/
def Obligations.TripsStopAndEnd : Prop :=
(∀ (s : State), s.cc.topo.plant = true → s.tripHeld = true → s.crl.whorl.tripped = false →
    (s.plantLead = true → ∃ t, exec .plantTripDebounced s = .next t ∧ Elsewhere .crl s t ∧ t.crl.whorl.tripped = true ∧
      t.crl.whorl.tripNo = (s.crl.whorl.tripNo + 1) % 2 ^ 32 ∧ (t.reg .crl 0x4434).testBit 0 = true ∧
      (∀ e ∈ t.crl.parts, e.2.freq.held = true) ∧ ∀ j, j < 61 → (t.whLane j).fc = 0 ∧ (t.whLane j).bw = 0 ∧ (t.whLane j).held = true) ∧
    (s.plantLead = false → ∃ t, exec .plantTripDebounced s = .next t ∧ Elsewhere .crl s t ∧ t.crl.whorl = s.crl.whorl ∧ (t.reg .crl 0x4434).testBit 0 = true)) ∧
  (∀ (s : State), (s.cc.topo.plant = false ∨ s.tripHeld = false ∨ s.crl.whorl.tripped = true) → gives .plantTripDebounced s s) ∧
  (∀ (n num hops : Nat) (s : State), n < 2 →
    (num ≠ s.spn.wh.trips → ∃ t, exec (.whorlTripReceived .spn n true ⟨num, hops⟩) s = .next t ∧ Elsewhere .spn s t ∧
      t.spn.wh = { s.spn.wh with tripped := true, trips := num, ballast := 0 } ∧ (∀ e ∈ t.spn.clocks.regions, e.2.gated = true) ∧
      ∀ u ∈ t.spn.launch.past, u.c = s.stepC → u.voted = false → 8 ∈ u.causes) ∧
    gives (.whorlTripReceived .spn n true ⟨s.spn.wh.trips, hops⟩) s s ∧
    (s.spn.wh.tripped = true → num = s.spn.wh.trips ∨ seqNewer num (some s.spn.wh.trips) = true →
      ∃ t, exec (.whorlTripReceived .spn n false ⟨num, hops⟩) s = .next t ∧ Elsewhere .spn s t ∧
        t.spn.wh = { s.spn.wh with tripped := false, trips := num, ballast := bankNat s.spn.banks.active bankBallast 1 } ∧
        ∀ e ∈ t.spn.clocks.regions, e.2.gated = !e.2.present) ∧
    (s.spn.wh.tripped = false ∨ (num ≠ s.spn.wh.trips ∧ seqNewer num (some s.spn.wh.trips) = false) → gives (.whorlTripReceived .spn n false ⟨num, hops⟩) s s)) ∧
  (∀ (n num hops : Nat) (trip : Bool) (s : State) (o : Nat), n < 129 →
    (o = portBase .crl n + 0x2C → hops = 0 → gives (.whorlTripReceived .crl n trip ⟨num, hops⟩) s (s.setReg .crl o (min (s.reg .crl o + 1) 0xFFFF_FFFF))) ∧
    (hops ≠ 0 → n ≠ pxPort ∨ s.plantLead = false → trip = true → ∃ t, exec (.whorlTripReceived .crl n trip ⟨num, hops⟩) s = .next t ∧ Elsewhere .crl s t ∧
      t.crl.whorl = { s.crl.whorl with tripped := true, tripNo := num, tripConf := false } ∧ ∀ e ∈ t.crl.parts, e.2.freq.held = true) ∧
    (hops ≠ 0 → n ≠ pxPort ∨ s.plantLead = false → trip = false → ∃ t, exec (.whorlTripReceived .crl n trip ⟨num, hops⟩) s = .next t ∧ Elsewhere .crl s t ∧
      t.crl.whorl = { s.crl.whorl with tripped := false, tripConf := false }) ∧
    (hops ≠ 0 → n = pxPort → s.plantLead = true → trip = true → s.crl.whorl.tripped = false ∨ s.crl.whorl.tripNo ≠ num →
      ∃ t, exec (.whorlTripReceived .crl n trip ⟨num, hops⟩) s = .next t ∧ Elsewhere .crl s t ∧ t.crl.whorl.tripped = true ∧ t.crl.whorl.tripNo = num ∧
        ∀ j, j < 61 → (t.whLane j).fc = 0 ∧ (t.whLane j).bw = 0 ∧ (t.whLane j).held = true) ∧
    (hops ≠ 0 → n = pxPort → s.plantLead = true → trip = false ∨ (s.crl.whorl.tripped = true ∧ s.crl.whorl.tripNo = num) →
      gives (.whorlTripReceived .crl n trip ⟨num, hops⟩) s s)) ∧
  (∀ (s : State), s.crl.whorl.master = true → s.crl.whorl.tripped = true → s.tripRecent = false → (s.whEnv 0x4400).testBit 2 = true →
    ∃ t, exec .tripEnd s = .next t ∧ Elsewhere .crl s t ∧ t.crl.whorl = { s.crl.whorl with tripped := false, tripConf := false }) ∧
  (∀ (s : State), (s.tripRecent = true ∨ (s.whEnv 0x4400).testBit 2 = false ∨ s.crl.whorl.master = false ∨ s.crl.whorl.tripped = false) → gives .tripEnd s s) ∧
  (∀ (s : State), (∀ u ∈ s.spn.launch.past, ∀ x, u.endedAt = some x → x + 1000 ≤ s.ldtc ∨ u.voted = true) → gives .stepfailInput s { s with
    spn.launch.past := s.spn.launch.past.map (fun u => if u.c = s.stepC && !u.voted then { u with causes := (u.causes ++ [9]).eraseDups } else u) }) ∧
  (∀ (s : State) (u : Uncommitted) (x : Nat), u ∈ s.spn.launch.past → u.endedAt = some x → s.ldtc < x + 1000 → u.voted = false → gives .stepfailInput s { s with
    spn.launch.past := s.spn.launch.past.map (fun u => if u.endedAt.isSome && !u.voted then { u with causes := u.causes ++ [9] } else u) })

/-- A debounced input changes its level and is recorded (R405, R425); the master holds the standby's levels; a heartbeat that stands still for 10 s makes the plant's
values stale (R410). Modbus answers reads and writes of its registers on a connection, takes registers 0 to 7 at COMMIT, and refuses by exception (R424). -/
def Obligations.PlantPortAnswers : Prop :=
(∀ (n : Nat) (v : Bool) (s : State), n < 8 → s.crl.plant.ins.getLsbD n ≠ v →
    ∃ t, exec (.plantInputChange n v) s = .next t ∧ Elsewhere .crl s t ∧ t.crl.plant.ins.getLsbD n = v ∧ (∀ i, i ≠ n → t.crl.plant.ins.getLsbD i = s.crl.plant.ins.getLsbD i) ∧
      t.crl.plant.recSeq = (s.crl.plant.recSeq + 1) % 2 ^ 32) ∧
  (∀ (n : Nat) (v : Bool) (s : State), n < 8 → s.crl.plant.ins.getLsbD n = v → gives (.plantInputChange n v) s s) ∧
  (∀ (v : BitVec 8) (k : Nat) (s : State), k < 2 ^ 64 → s.plantLead = true →
    ∃ t, exec (.whorlInputReceived v k) s = .next t ∧ Elsewhere .crl s t ∧ t.crl.plant = { s.crl.plant with standby := v }) ∧
  (∀ (v : BitVec 8) (k : Nat) (s : State), k < 2 ^ 64 → s.plantLead = false → gives (.whorlInputReceived v k) s s) ∧
  (∀ (s : State), s.cc.topo.plant = true → (s.whEnv 0x4400).testBit 1 = true → s.crl.whorl.stale = false →
    s.crl.plant.hbTick + 10_000_000_000 ≤ s.cc.time.tick →
    ∃ t, exec .plantHeartbeatStale s = .next t ∧ Elsewhere .crl s t ∧ t.crl.whorl = { s.crl.whorl with stale := true } ∧ (t.reg .crl 0x4434).testBit 3 = true) ∧
  (∀ (s : State), s.cc.time.tick < s.crl.plant.hbTick + 10_000_000_000 ∨ s.cc.topo.plant = false ∨ (s.whEnv 0x4400).testBit 1 = false ∨ s.crl.whorl.stale = true →
    gives .plantHeartbeatStale s s) ∧
  (∀ (ip : Word) (s : State) (n : Nat), n < 4 → ip ≠ 0 → s.reg .crl (0x4440 + 4 * n) = ip.toNat → s.crl.plant.conns.length < 4 →
    gives (.modbusConnect ip) s { s with crl.plant.conns := s.crl.plant.conns ++ [ip] }) ∧
  (∀ (ip : Word) (s : State), ip = 0 ∨ 4 ≤ s.crl.plant.conns.length ∨ (∀ n, n < 4 → s.reg .crl (0x4440 + 4 * n) ≠ ip.toNat) → gives (.modbusConnect ip) s s) ∧
  (∀ (c a n : Nat) (s : State), c < s.crl.plant.conns.length →
    (n ≠ 0 → a + n ≤ 10 → gives (.modbusReadHolding c a n) s { s with crl.plant.reply := [3, BitVec.ofNat 8 (2 * n)] ++ (List.range n).flatMap (fun i =>
      let v := if a + i = 9 then 0 else tget 0 s.crl.plant.hold (a + i)
      [BitVec.ofNat 8 (v / 256), BitVec.ofNat 8 v]) }) ∧
    (n ≠ 0 → a + n ≤ 11 → gives (.modbusReadInput c a n) s { s with
      crl.plant.reply := [4, BitVec.ofNat 8 (2 * n)] ++ ((s.inputRegs.drop a).take n).flatMap (fun v => [BitVec.ofNat 8 (v / 256), BitVec.ofNat 8 v]) }) ∧
    (n = 0 ∨ 125 < n → gives (.modbusReadHolding c a n) s { s with crl.plant.reply := [0x83, 3] } ∧
      gives (.modbusReadInput c a n) s { s with crl.plant.reply := [0x84, 3] }) ∧
    (n ≠ 0 → n ≤ 125 → 10 < a + n → gives (.modbusReadHolding c a n) s { s with crl.plant.reply := [0x83, 2] }) ∧
    (n ≠ 0 → n ≤ 125 → 11 < a + n → gives (.modbusReadInput c a n) s { s with crl.plant.reply := [0x84, 2] })) ∧
  (∀ (c a v : Nat) (s : State), c < s.crl.plant.conns.length →
    (a < 8 → v < 65536 → (a = 6 → v ≤ 1000) → gives (.modbusWriteSingle c a v) s { s with
      crl.plant.hold := tset 0 s.crl.plant.hold a v
      crl.plant.reply := [6, 0, BitVec.ofNat 8 a, BitVec.ofNat 8 (v / 256), BitVec.ofNat 8 v] }) ∧
    (tget 0 s.crl.plant.hold 8 ≠ v → v < 65536 → gives (.modbusWriteSingle c 8 v) s { s with
      crl.plant.hold := tset 0 s.crl.plant.hold 8 v, crl.plant.hbTick := s.cc.time.tick, crl.whorl.stale := false
      crl.plant.reply := [6, 0, 8, BitVec.ofNat 8 (v / 256), BitVec.ofNat 8 v] }) ∧
    gives (.modbusWriteSingle c 9 1) s { s with
      crl.plant.commit := some (s.crl.plant.hold.filter (fun (e : Nat × Nat) => e.1 < 8)), crl.plant.reply := [6, 0, 9, 0, 1] } ∧
    (10 ≤ a → gives (.modbusWriteSingle c a v) s { s with crl.plant.reply := [0x86, 2] }) ∧
    (a < 10 → 65536 ≤ v ∨ (a = 6 ∧ 1000 < v) ∨ (a = 9 ∧ 1 < v) → gives (.modbusWriteSingle c a v) s { s with crl.plant.reply := [0x86, 3] }) ∧
    ∃ t, exec (.modbusWriteSingle c a v) s = .next t ∧ Elsewhere .crl s t) ∧
  (∀ (c a v w : Nat) (s : State), c < s.crl.plant.conns.length → a < 5 → v < 65536 → w < 65536 →
    ∃ t, exec (.modbusWriteMultiple c a [v, w]) s = .next t ∧ Elsewhere .crl s t ∧ tget 0 t.crl.plant.hold a = v ∧ tget 0 t.crl.plant.hold (a + 1) = w ∧
      (∀ i, i ≠ a → i ≠ a + 1 → tget 0 t.crl.plant.hold i = tget 0 s.crl.plant.hold i) ∧ t.crl.plant.reply = [16, 0, BitVec.ofNat 8 a, 0, 2]) ∧
  (∀ (c a : Nat) (vs : List Nat) (s : State), c < s.crl.plant.conns.length →
    (vs = [] ∨ 123 < vs.length → gives (.modbusWriteMultiple c a vs) s { s with crl.plant.reply := [0x90, 3] }) ∧
    (vs ≠ [] → vs.length ≤ 123 → 10 < a + vs.length → gives (.modbusWriteMultiple c a vs) s { s with crl.plant.reply := [0x90, 2] }) ∧
    (∃ t, exec (.modbusWriteMultiple c a vs) s = .next t ∧ Elsewhere .crl s t) ∧
    gives (.modbusOtherFunction c a) s { s with crl.plant.reply := [BitVec.ofNat 8 (a % 128 + 128), 1] }) ∧
  (∀ (c a n : Nat) (vs : List Nat) (s : State), s.crl.plant.conns.length ≤ c →
    ∀ i ∈ [Instr.modbusReadHolding c a n, .modbusReadInput c a n, .modbusWriteSingle c a n, .modbusWriteMultiple c a vs, .modbusOtherFunction c a], gives i s s)
end

