-- ==== Sys2Proof/Laws/Sparse.lean ====
section
/-! SUPPORT. What the operations on tables and memory do: a read after a write, other keys, and the canonical form. -/

namespace Sys2Proof.Machine

variable {α : Type}

theorem tfind_tput_same (t : Tbl α) (k : Nat) (v : α) : tfind (tput t k v) k = some v := by
  induction t with
  | nil => simp [tput, tfind]
  | cons e t ih =>
    obtain ⟨k', v'⟩ := e
    simp only [tput]
    split
    · simp [tfind]
    · split
      · simp [tfind]
      · rename_i _ hne
        simp [tfind, Ne.symm hne, ih]

theorem tfind_tput_ne (t : Tbl α) {k j : Nat} (v : α) (h : j ≠ k) : tfind (tput t k v) j = tfind t j := by
  induction t with
  | nil => simp [tput, tfind, Ne.symm h]
  | cons e t ih =>
    obtain ⟨k', v'⟩ := e
    simp only [tput]
    split
    · simp [tfind, Ne.symm h]
    · split
      · rename_i _ heq
        subst heq
        simp [tfind, Ne.symm h]
      · simp [tfind, ih]

theorem tfind_tdel_same (t : Tbl α) (k : Nat) : tfind (tdel t k) k = none := by
  induction t with
  | nil => rfl
  | cons e t ih =>
    obtain ⟨k', v'⟩ := e
    simp only [tdel]
    split
    · exact ih
    · rename_i hne
      simp [tfind, Ne.symm hne, ih]

theorem tfind_tdel_ne (t : Tbl α) {k j : Nat} (h : j ≠ k) : tfind (tdel t k) j = tfind t j := by
  induction t with
  | nil => rfl
  | cons e t ih =>
    obtain ⟨k', v'⟩ := e
    simp only [tdel]
    split
    · rename_i heq
      subst heq
      simp [tfind, Ne.symm h, ih]
    · simp [tfind, ih]

variable [DecidableEq α]

/-- A read after a write gives the value written. -/
@[simp] theorem tget_tset_same (d : α) (t : Tbl α) (k : Nat) (v : α) : tget d (tset d t k v) k = v := by
  unfold tset tget
  split
  · simp_all [tfind_tdel_same]
  · simp [tfind_tput_same]

/-- A write leaves every other key alone, whatever an unlisted one reads as. -/
theorem tget_tset_ne (d d' : α) (t : Tbl α) {k j : Nat} (v : α) (h : j ≠ k) : tget d' (tset d t k v) j = tget d' t j := by
  unfold tset tget
  split
  · rw [tfind_tdel_ne t h]
  · rw [tfind_tput_ne t v h]

theorem tget_tset (d : α) (t : Tbl α) (k j : Nat) (v : α) : tget d (tset d t k v) j = if j = k then v else tget d t j := by
  split
  · rename_i h
    subst h
    exact tget_tset_same d t j v
  · rename_i h
    exact tget_tset_ne d d t v h

@[simp] theorem tget_tmod_same (d : α) (t : Tbl α) (k : Nat) (f : α → α) : tget d (tmod d t k f) k = f (tget d t k) :=
  tget_tset_same d t k _

theorem tget_tmod_ne (d d' : α) (t : Tbl α) {k j : Nat} (f : α → α) (h : j ≠ k) : tget d' (tmod d t k f) j = tget d' t j :=
  tget_tset_ne d d' t _ h

theorem tget_tmod (d : α) (t : Tbl α) (k j : Nat) (f : α → α) :
    tget d (tmod d t k f) j = if j = k then f (tget d t k) else tget d t j := tget_tset d t k j _

omit [DecidableEq α] in
@[simp] theorem tget_nil (d : α) (k : Nat) : tget d ([] : Tbl α) k = d := rfl

/-! ## The canonical form -/

omit [DecidableEq α] in
theorem tsorted_mono {lo : Option Nat} {lo' : Nat} {t : Tbl α} (h : tsorted (some lo') t = true)
    (hlo : ∀ l, lo = some l → l ≤ lo') : tsorted lo t = true := by
  cases t with
  | nil => cases lo <;> rfl
  | cons e t =>
    obtain ⟨k, v⟩ := e
    simp only [tsorted, Bool.and_eq_true, decide_eq_true_eq] at h
    cases lo with
    | none => exact h.2
    | some l =>
      have := hlo l rfl
      simp only [tsorted, Bool.and_eq_true, decide_eq_true_eq]
      exact ⟨by omega, h.2⟩

omit [DecidableEq α] in
theorem tsorted_tput {lo : Option Nat} {t : Tbl α} {k : Nat} (v : α) (h : tsorted lo t = true)
    (hk : ∀ l, lo = some l → l < k) : tsorted lo (tput t k v) = true := by
  induction t generalizing lo with
  | nil =>
    cases lo with
    | none => rfl
    | some l => simp [tput, tsorted, hk l rfl]
  | cons e t ih =>
    obtain ⟨k', v'⟩ := e
    have h' : tsorted (some k') t = true := by
      cases lo <;> simp_all [tsorted]
    have hlo : ∀ l, lo = some l → l < k' := by
      intro l hl
      subst hl
      simp_all [tsorted]
    simp only [tput]
    split
    · rename_i hlt
      cases lo with
      | none => simp [tsorted, hlt, h']
      | some l => simp [tsorted, hlt, h', hk l rfl]
    · split
      · rename_i heq
        subst heq
        cases lo with
        | none => simpa [tsorted] using h'
        | some l => simp [tsorted, h', hk l rfl]
      · have := ih (lo := some k') h' (by intro l hl; cases hl; omega)
        cases lo with
        | none => simpa [tsorted] using this
        | some l => simp [tsorted, this, hlo l rfl]

omit [DecidableEq α] in
theorem tsorted_tdel {lo : Option Nat} {t : Tbl α} (k : Nat) (h : tsorted lo t = true) : tsorted lo (tdel t k) = true := by
  induction t generalizing lo with
  | nil => exact h
  | cons e t ih =>
    obtain ⟨k', v'⟩ := e
    have h' : tsorted (some k') t = true := by
      cases lo <;> simp_all [tsorted]
    have hlo : ∀ l, lo = some l → l < k' := by
      intro l hl
      subst hl
      simp_all [tsorted]
    simp only [tdel]
    split
    · exact tsorted_mono (ih h') (fun l hl => Nat.le_of_lt (hlo l hl))
    · cases lo with
      | none => simpa [tsorted] using ih h'
      | some l => simp [tsorted, ih h', hlo l rfl]

omit [DecidableEq α] in
theorem mem_tput {t : Tbl α} {k : Nat} {v : α} {e : Nat × α} (h : e ∈ tput t k v) : e = (k, v) ∨ e ∈ t := by
  induction t with
  | nil => simpa [tput] using h
  | cons x t ih =>
    obtain ⟨k', v'⟩ := x
    simp only [tput] at h
    split at h
    · rcases List.mem_cons.mp h with h | h
      · exact .inl h
      · exact .inr h
    · split at h
      · rcases List.mem_cons.mp h with h | h
        · exact .inl h
        · exact .inr (List.mem_cons_of_mem _ h)
      · rcases List.mem_cons.mp h with h | h
        · exact .inr (h ▸ List.mem_cons_self)
        · rcases ih h with h | h
          · exact .inl h
          · exact .inr (List.mem_cons_of_mem _ h)

omit [DecidableEq α] in
theorem mem_tdel {t : Tbl α} {k : Nat} {e : Nat × α} (h : e ∈ tdel t k) : e ∈ t := by
  induction t with
  | nil => exact h
  | cons x t ih =>
    obtain ⟨k', v'⟩ := x
    simp only [tdel] at h
    split at h
    · exact List.mem_cons_of_mem _ (ih h)
    · rcases List.mem_cons.mp h with h | h
      · exact h ▸ List.mem_cons_self
      · exact List.mem_cons_of_mem _ (ih h)

/-- A write keeps the canonical form. -/
theorem twf_tset {d : α} {t : Tbl α} (h : twf d t = true) (k : Nat) (v : α) : twf d (tset d t k v) = true := by
  simp only [twf, Bool.and_eq_true, List.all_eq_true, decide_eq_true_eq] at h ⊢
  unfold tset
  split
  · exact ⟨tsorted_tdel k h.1, fun e he => h.2 e (mem_tdel he)⟩
  · rename_i hv
    refine ⟨tsorted_tput v h.1 (by simp), fun e he => ?_⟩
    rcases mem_tput he with rfl | he
    · exact hv
    · exact h.2 e he

theorem twf_tmod {d : α} {t : Tbl α} (h : twf d t = true) (k : Nat) (f : α → α) : twf d (tmod d t k f) = true :=
  twf_tset h k _

/-! ## Memory -/

@[simp] theorem memByte_nil (a : Nat) : memByte [] a = 0 := rfl

@[simp] theorem memByte_memPut_same (m : Mem) (a : Nat) (b : Byte) : memByte (memPut m a b) a = b := tget_tset_same 0 m a b

theorem memByte_memPut_ne (m : Mem) {a x : Nat} (b : Byte) (h : x ≠ a) : memByte (memPut m a b) x = memByte m x :=
  tget_tset_ne 0 0 m b h

/-- A write of a byte string leaves every byte outside it alone. -/
theorem memByte_memWr_out (m : Mem) (a : Nat) (b : Bytes) {x : Nat} (h : x < a ∨ a + b.length ≤ x) :
    memByte (memWr m a b) x = memByte m x := by
  induction b generalizing m a with
  | nil => rfl
  | cons v b ih =>
    simp only [List.length_cons] at h
    rw [memWr, ih _ _ (by omega), memByte_memPut_ne _ _ (by omega)]

/-- A byte inside a written byte string reads as written. -/
theorem memByte_memWr_in (m : Mem) (a : Nat) (b : Bytes) {i : Nat} (h : i < b.length) : memByte (memWr m a b) (a + i) = b[i] := by
  induction b generalizing m a i with
  | nil => simp at h
  | cons v b ih =>
    cases i with
    | zero => rw [memWr, memByte_memWr_out _ _ _ (by omega)]; simp
    | succ i =>
      rw [memWr, show a + (i + 1) = a + 1 + i by omega]
      simpa using ih (memPut m a v) (a + 1) (by simpa using h)

@[simp] theorem memRd_length (m : Mem) (a n : Nat) : (memRd m a n).length = n := by
  induction n generalizing a with
  | zero => rfl
  | succ n ih => simp [memRd, ih]

/-- Reading back a byte string just written gives it. -/
theorem memRd_memWr (m : Mem) (a : Nat) (b : Bytes) : memRd (memWr m a b) a b.length = b := by
  induction b generalizing m a with
  | nil => rfl
  | cons v b ih =>
    rw [List.length_cons, memRd, memWr, ih, memByte_memWr_out _ _ _ (by omega)]
    simp

/-- Every memory operation keeps the canonical form. -/
theorem Mem.wf_memPut {m : Mem} (h : Mem.wf m = true) (a : Nat) (b : Byte) : Mem.wf (memPut m a b) = true := twf_tset h a b

theorem Mem.wf_memWr {m : Mem} (h : Mem.wf m = true) (a : Nat) (b : Bytes) : Mem.wf (memWr m a b) = true := by
  induction b generalizing m a with
  | nil => exact h
  | cons v b ih => exact ih (Mem.wf_memPut h a v) (a + 1)

@[simp] theorem Mem.wf_nil : Mem.wf [] = true := rfl

end Sys2Proof.Machine
end

