-- ==== Sys2Proof/Laws/State.lean ====
section
/-! SUPPORT. One lemma per field of the state and named update of it, true by definition, so that no proof unfolds an update. -/

namespace Sys2Proof.Machine

/-! ## `modCore`: one part's core changes, the rest does not -/

@[simp] theorem core_spn (s : State) : s.core .spn = s.sc := rfl
@[simp] theorem core_crl (s : State) : s.core .crl = s.cc := rfl
@[simp] theorem modCore_core_same (p : Part) (f : PartCore → PartCore) (s : State) : (s.modCore p f).core p = f (s.core p) := by
  cases p <;> rfl
theorem modCore_core_ne {p q : Part} (f : PartCore → PartCore) (s : State) (h : q ≠ p) : (s.modCore p f).core q = s.core q := by
  cases p <;> cases q <;> first | rfl | exact absurd rfl h
theorem modCore_core (p q : Part) (f : PartCore → PartCore) (s : State) :
    (s.modCore p f).core q = if q = p then f (s.core q) else s.core q := by
  cases p <;> cases q <;> rfl
@[simp] theorem modCore_spn (p : Part) (f : PartCore → PartCore) (s : State) : (s.modCore p f).spn = s.spn := by cases p <;> rfl
@[simp] theorem modCore_crl (p : Part) (f : PartCore → PartCore) (s : State) : (s.modCore p f).crl = s.crl := by cases p <;> rfl
@[simp] theorem modCore_pending (p : Part) (f : PartCore → PartCore) (s : State) : (s.modCore p f).pending = s.pending := by
  cases p <;> rfl
@[simp] theorem modCore_free (p : Part) (f : PartCore → PartCore) (s : State) : (s.modCore p f).free = s.free := by cases p <;> rfl
@[simp] theorem modCore_sc_spn (f : PartCore → PartCore) (s : State) : (s.modCore .spn f).sc = f s.sc := rfl
@[simp] theorem modCore_cc_spn (f : PartCore → PartCore) (s : State) : (s.modCore .spn f).cc = s.cc := rfl
@[simp] theorem modCore_sc_crl (f : PartCore → PartCore) (s : State) : (s.modCore .crl f).sc = s.sc := rfl
@[simp] theorem modCore_cc_crl (f : PartCore → PartCore) (s : State) : (s.modCore .crl f).cc = f s.cc := rfl

/-! ## `setReg` -/

@[simp] theorem setReg_spn (p : Part) (off v : Nat) (s : State) : (s.setReg p off v).spn = s.spn := modCore_spn _ _ _
@[simp] theorem setReg_crl (p : Part) (off v : Nat) (s : State) : (s.setReg p off v).crl = s.crl := modCore_crl _ _ _
@[simp] theorem setReg_pending (p : Part) (off v : Nat) (s : State) : (s.setReg p off v).pending = s.pending := modCore_pending _ _ _
@[simp] theorem setReg_free (p : Part) (off v : Nat) (s : State) : (s.setReg p off v).free = s.free := modCore_free _ _ _
@[simp] theorem setReg_core_time (p : Part) (off v : Nat) (q : Part) (s : State) : ((s.setReg p off v).core q).time = (s.core q).time := by
  cases p <;> cases q <;> rfl
@[simp] theorem setReg_core_ports (p : Part) (off v : Nat) (q : Part) (s : State) : ((s.setReg p off v).core q).ports = (s.core q).ports := by
  cases p <;> cases q <;> rfl
@[simp] theorem setReg_core_chans (p : Part) (off v : Nat) (q : Part) (s : State) : ((s.setReg p off v).core q).chans = (s.core q).chans := by
  cases p <;> cases q <;> rfl
@[simp] theorem setReg_core_inflight (p : Part) (off v : Nat) (q : Part) (s : State) : ((s.setReg p off v).core q).inflight = (s.core q).inflight := by
  cases p <;> cases q <;> rfl
@[simp] theorem setReg_core_waiting (p : Part) (off v : Nat) (q : Part) (s : State) : ((s.setReg p off v).core q).waiting = (s.core q).waiting := by
  cases p <;> cases q <;> rfl
@[simp] theorem setReg_core_jobs (p : Part) (off v : Nat) (q : Part) (s : State) : ((s.setReg p off v).core q).jobs = (s.core q).jobs := by
  cases p <;> cases q <;> rfl
@[simp] theorem setReg_core_mbox (p : Part) (off v : Nat) (q : Part) (s : State) : ((s.setReg p off v).core q).mbox = (s.core q).mbox := by
  cases p <;> cases q <;> rfl
@[simp] theorem setReg_core_dma (p : Part) (off v : Nat) (q : Part) (s : State) : ((s.setReg p off v).core q).dma = (s.core q).dma := by
  cases p <;> cases q <;> rfl
@[simp] theorem setReg_core_cores (p : Part) (off v : Nat) (q : Part) (s : State) : ((s.setReg p off v).core q).cores = (s.core q).cores := by
  cases p <;> cases q <;> rfl
@[simp] theorem setReg_core_fw (p : Part) (off v : Nat) (q : Part) (s : State) : ((s.setReg p off v).core q).fw = (s.core q).fw := by
  cases p <;> cases q <;> rfl
@[simp] theorem setReg_core_sec (p : Part) (off v : Nat) (q : Part) (s : State) : ((s.setReg p off v).core q).sec = (s.core q).sec := by
  cases p <;> cases q <;> rfl
@[simp] theorem setReg_core_topo (p : Part) (off v : Nat) (q : Part) (s : State) : ((s.setReg p off v).core q).topo = (s.core q).topo := by
  cases p <;> cases q <;> rfl
@[simp] theorem setReg_core_errs (p : Part) (off v : Nat) (q : Part) (s : State) : ((s.setReg p off v).core q).errs = (s.core q).errs := by
  cases p <;> cases q <;> rfl
@[simp] theorem setReg_core_errSeq (p : Part) (off v : Nat) (q : Part) (s : State) : ((s.setReg p off v).core q).errSeq = (s.core q).errSeq := by
  cases p <;> cases q <;> rfl
@[simp] theorem setReg_core_tap (p : Part) (off v : Nat) (q : Part) (s : State) : ((s.setReg p off v).core q).tap = (s.core q).tap := by
  cases p <;> cases q <;> rfl
@[simp] theorem setReg_core_bus (p : Part) (off v : Nat) (q : Part) (s : State) : ((s.setReg p off v).core q).bus = (s.core q).bus := by
  cases p <;> cases q <;> rfl
@[simp] theorem setReg_core_mem (p : Part) (off v : Nat) (q : Part) (s : State) : ((s.setReg p off v).core q).mem = (s.core q).mem := by
  cases p <;> cases q <;> rfl
@[simp] theorem setReg_core_hostMem (p : Part) (off v : Nat) (q : Part) (s : State) : ((s.setReg p off v).core q).hostMem = (s.core q).hostMem := by
  cases p <;> cases q <;> rfl
@[simp] theorem setReg_core_lastTick (p : Part) (off v : Nat) (q : Part) (s : State) : ((s.setReg p off v).core q).lastTick = (s.core q).lastTick := by
  cases p <;> cases q <;> rfl
@[simp] theorem setReg_core_held (p : Part) (off v : Nat) (q : Part) (s : State) : ((s.setReg p off v).core q).held = (s.core q).held := by
  cases p <;> cases q <;> rfl
@[simp] theorem setReg_core_evTick (p : Part) (off v : Nat) (q : Part) (s : State) : ((s.setReg p off v).core q).evTick = (s.core q).evTick := by
  cases p <;> cases q <;> rfl
@[simp] theorem setReg_core_evNow (p : Part) (off v : Nat) (q : Part) (s : State) : ((s.setReg p off v).core q).evNow = (s.core q).evNow := by
  cases p <;> cases q <;> rfl

/-! ## `modPort` -/

@[simp] theorem modPort_spn (p : Part) (n : Nat) (f : Port → Port) (s : State) : (s.modPort p n f).spn = s.spn := modCore_spn _ _ _
@[simp] theorem modPort_crl (p : Part) (n : Nat) (f : Port → Port) (s : State) : (s.modPort p n f).crl = s.crl := modCore_crl _ _ _
@[simp] theorem modPort_pending (p : Part) (n : Nat) (f : Port → Port) (s : State) : (s.modPort p n f).pending = s.pending := modCore_pending _ _ _
@[simp] theorem modPort_free (p : Part) (n : Nat) (f : Port → Port) (s : State) : (s.modPort p n f).free = s.free := modCore_free _ _ _
@[simp] theorem modPort_core_regs (p : Part) (n : Nat) (f : Port → Port) (q : Part) (s : State) : ((s.modPort p n f).core q).regs = (s.core q).regs := by
  cases p <;> cases q <;> rfl
@[simp] theorem modPort_core_time (p : Part) (n : Nat) (f : Port → Port) (q : Part) (s : State) : ((s.modPort p n f).core q).time = (s.core q).time := by
  cases p <;> cases q <;> rfl
@[simp] theorem modPort_core_chans (p : Part) (n : Nat) (f : Port → Port) (q : Part) (s : State) : ((s.modPort p n f).core q).chans = (s.core q).chans := by
  cases p <;> cases q <;> rfl
@[simp] theorem modPort_core_inflight (p : Part) (n : Nat) (f : Port → Port) (q : Part) (s : State) : ((s.modPort p n f).core q).inflight = (s.core q).inflight := by
  cases p <;> cases q <;> rfl
@[simp] theorem modPort_core_waiting (p : Part) (n : Nat) (f : Port → Port) (q : Part) (s : State) : ((s.modPort p n f).core q).waiting = (s.core q).waiting := by
  cases p <;> cases q <;> rfl
@[simp] theorem modPort_core_jobs (p : Part) (n : Nat) (f : Port → Port) (q : Part) (s : State) : ((s.modPort p n f).core q).jobs = (s.core q).jobs := by
  cases p <;> cases q <;> rfl
@[simp] theorem modPort_core_mbox (p : Part) (n : Nat) (f : Port → Port) (q : Part) (s : State) : ((s.modPort p n f).core q).mbox = (s.core q).mbox := by
  cases p <;> cases q <;> rfl
@[simp] theorem modPort_core_dma (p : Part) (n : Nat) (f : Port → Port) (q : Part) (s : State) : ((s.modPort p n f).core q).dma = (s.core q).dma := by
  cases p <;> cases q <;> rfl
@[simp] theorem modPort_core_cores (p : Part) (n : Nat) (f : Port → Port) (q : Part) (s : State) : ((s.modPort p n f).core q).cores = (s.core q).cores := by
  cases p <;> cases q <;> rfl
@[simp] theorem modPort_core_fw (p : Part) (n : Nat) (f : Port → Port) (q : Part) (s : State) : ((s.modPort p n f).core q).fw = (s.core q).fw := by
  cases p <;> cases q <;> rfl
@[simp] theorem modPort_core_sec (p : Part) (n : Nat) (f : Port → Port) (q : Part) (s : State) : ((s.modPort p n f).core q).sec = (s.core q).sec := by
  cases p <;> cases q <;> rfl
@[simp] theorem modPort_core_topo (p : Part) (n : Nat) (f : Port → Port) (q : Part) (s : State) : ((s.modPort p n f).core q).topo = (s.core q).topo := by
  cases p <;> cases q <;> rfl
@[simp] theorem modPort_core_errs (p : Part) (n : Nat) (f : Port → Port) (q : Part) (s : State) : ((s.modPort p n f).core q).errs = (s.core q).errs := by
  cases p <;> cases q <;> rfl
@[simp] theorem modPort_core_errSeq (p : Part) (n : Nat) (f : Port → Port) (q : Part) (s : State) : ((s.modPort p n f).core q).errSeq = (s.core q).errSeq := by
  cases p <;> cases q <;> rfl
@[simp] theorem modPort_core_tap (p : Part) (n : Nat) (f : Port → Port) (q : Part) (s : State) : ((s.modPort p n f).core q).tap = (s.core q).tap := by
  cases p <;> cases q <;> rfl
@[simp] theorem modPort_core_bus (p : Part) (n : Nat) (f : Port → Port) (q : Part) (s : State) : ((s.modPort p n f).core q).bus = (s.core q).bus := by
  cases p <;> cases q <;> rfl
@[simp] theorem modPort_core_mem (p : Part) (n : Nat) (f : Port → Port) (q : Part) (s : State) : ((s.modPort p n f).core q).mem = (s.core q).mem := by
  cases p <;> cases q <;> rfl
@[simp] theorem modPort_core_hostMem (p : Part) (n : Nat) (f : Port → Port) (q : Part) (s : State) : ((s.modPort p n f).core q).hostMem = (s.core q).hostMem := by
  cases p <;> cases q <;> rfl
@[simp] theorem modPort_core_lastTick (p : Part) (n : Nat) (f : Port → Port) (q : Part) (s : State) : ((s.modPort p n f).core q).lastTick = (s.core q).lastTick := by
  cases p <;> cases q <;> rfl
@[simp] theorem modPort_core_held (p : Part) (n : Nat) (f : Port → Port) (q : Part) (s : State) : ((s.modPort p n f).core q).held = (s.core q).held := by
  cases p <;> cases q <;> rfl
@[simp] theorem modPort_core_evTick (p : Part) (n : Nat) (f : Port → Port) (q : Part) (s : State) : ((s.modPort p n f).core q).evTick = (s.core q).evTick := by
  cases p <;> cases q <;> rfl
@[simp] theorem modPort_core_evNow (p : Part) (n : Nat) (f : Port → Port) (q : Part) (s : State) : ((s.modPort p n f).core q).evNow = (s.core q).evNow := by
  cases p <;> cases q <;> rfl

/-! ## `modChan` -/

@[simp] theorem modChan_spn (p : Part) (n : Nat) (f : Chan → Chan) (s : State) : (s.modChan p n f).spn = s.spn := modCore_spn _ _ _
@[simp] theorem modChan_crl (p : Part) (n : Nat) (f : Chan → Chan) (s : State) : (s.modChan p n f).crl = s.crl := modCore_crl _ _ _
@[simp] theorem modChan_pending (p : Part) (n : Nat) (f : Chan → Chan) (s : State) : (s.modChan p n f).pending = s.pending := modCore_pending _ _ _
@[simp] theorem modChan_free (p : Part) (n : Nat) (f : Chan → Chan) (s : State) : (s.modChan p n f).free = s.free := modCore_free _ _ _
@[simp] theorem modChan_core_regs (p : Part) (n : Nat) (f : Chan → Chan) (q : Part) (s : State) : ((s.modChan p n f).core q).regs = (s.core q).regs := by
  cases p <;> cases q <;> rfl
@[simp] theorem modChan_core_time (p : Part) (n : Nat) (f : Chan → Chan) (q : Part) (s : State) : ((s.modChan p n f).core q).time = (s.core q).time := by
  cases p <;> cases q <;> rfl
@[simp] theorem modChan_core_ports (p : Part) (n : Nat) (f : Chan → Chan) (q : Part) (s : State) : ((s.modChan p n f).core q).ports = (s.core q).ports := by
  cases p <;> cases q <;> rfl
@[simp] theorem modChan_core_inflight (p : Part) (n : Nat) (f : Chan → Chan) (q : Part) (s : State) : ((s.modChan p n f).core q).inflight = (s.core q).inflight := by
  cases p <;> cases q <;> rfl
@[simp] theorem modChan_core_waiting (p : Part) (n : Nat) (f : Chan → Chan) (q : Part) (s : State) : ((s.modChan p n f).core q).waiting = (s.core q).waiting := by
  cases p <;> cases q <;> rfl
@[simp] theorem modChan_core_jobs (p : Part) (n : Nat) (f : Chan → Chan) (q : Part) (s : State) : ((s.modChan p n f).core q).jobs = (s.core q).jobs := by
  cases p <;> cases q <;> rfl
@[simp] theorem modChan_core_mbox (p : Part) (n : Nat) (f : Chan → Chan) (q : Part) (s : State) : ((s.modChan p n f).core q).mbox = (s.core q).mbox := by
  cases p <;> cases q <;> rfl
@[simp] theorem modChan_core_dma (p : Part) (n : Nat) (f : Chan → Chan) (q : Part) (s : State) : ((s.modChan p n f).core q).dma = (s.core q).dma := by
  cases p <;> cases q <;> rfl
@[simp] theorem modChan_core_cores (p : Part) (n : Nat) (f : Chan → Chan) (q : Part) (s : State) : ((s.modChan p n f).core q).cores = (s.core q).cores := by
  cases p <;> cases q <;> rfl
@[simp] theorem modChan_core_fw (p : Part) (n : Nat) (f : Chan → Chan) (q : Part) (s : State) : ((s.modChan p n f).core q).fw = (s.core q).fw := by
  cases p <;> cases q <;> rfl
@[simp] theorem modChan_core_sec (p : Part) (n : Nat) (f : Chan → Chan) (q : Part) (s : State) : ((s.modChan p n f).core q).sec = (s.core q).sec := by
  cases p <;> cases q <;> rfl
@[simp] theorem modChan_core_topo (p : Part) (n : Nat) (f : Chan → Chan) (q : Part) (s : State) : ((s.modChan p n f).core q).topo = (s.core q).topo := by
  cases p <;> cases q <;> rfl
@[simp] theorem modChan_core_errs (p : Part) (n : Nat) (f : Chan → Chan) (q : Part) (s : State) : ((s.modChan p n f).core q).errs = (s.core q).errs := by
  cases p <;> cases q <;> rfl
@[simp] theorem modChan_core_errSeq (p : Part) (n : Nat) (f : Chan → Chan) (q : Part) (s : State) : ((s.modChan p n f).core q).errSeq = (s.core q).errSeq := by
  cases p <;> cases q <;> rfl
@[simp] theorem modChan_core_tap (p : Part) (n : Nat) (f : Chan → Chan) (q : Part) (s : State) : ((s.modChan p n f).core q).tap = (s.core q).tap := by
  cases p <;> cases q <;> rfl
@[simp] theorem modChan_core_bus (p : Part) (n : Nat) (f : Chan → Chan) (q : Part) (s : State) : ((s.modChan p n f).core q).bus = (s.core q).bus := by
  cases p <;> cases q <;> rfl
@[simp] theorem modChan_core_mem (p : Part) (n : Nat) (f : Chan → Chan) (q : Part) (s : State) : ((s.modChan p n f).core q).mem = (s.core q).mem := by
  cases p <;> cases q <;> rfl
@[simp] theorem modChan_core_hostMem (p : Part) (n : Nat) (f : Chan → Chan) (q : Part) (s : State) : ((s.modChan p n f).core q).hostMem = (s.core q).hostMem := by
  cases p <;> cases q <;> rfl
@[simp] theorem modChan_core_lastTick (p : Part) (n : Nat) (f : Chan → Chan) (q : Part) (s : State) : ((s.modChan p n f).core q).lastTick = (s.core q).lastTick := by
  cases p <;> cases q <;> rfl
@[simp] theorem modChan_core_held (p : Part) (n : Nat) (f : Chan → Chan) (q : Part) (s : State) : ((s.modChan p n f).core q).held = (s.core q).held := by
  cases p <;> cases q <;> rfl
@[simp] theorem modChan_core_evTick (p : Part) (n : Nat) (f : Chan → Chan) (q : Part) (s : State) : ((s.modChan p n f).core q).evTick = (s.core q).evTick := by
  cases p <;> cases q <;> rfl
@[simp] theorem modChan_core_evNow (p : Part) (n : Nat) (f : Chan → Chan) (q : Part) (s : State) : ((s.modChan p n f).core q).evNow = (s.core q).evNow := by
  cases p <;> cases q <;> rfl

/-! ## `modDma` -/

@[simp] theorem modDma_spn (p : Part) (n : Nat) (f : Dma → Dma) (s : State) : (s.modDma p n f).spn = s.spn := modCore_spn _ _ _
@[simp] theorem modDma_crl (p : Part) (n : Nat) (f : Dma → Dma) (s : State) : (s.modDma p n f).crl = s.crl := modCore_crl _ _ _
@[simp] theorem modDma_pending (p : Part) (n : Nat) (f : Dma → Dma) (s : State) : (s.modDma p n f).pending = s.pending := modCore_pending _ _ _
@[simp] theorem modDma_free (p : Part) (n : Nat) (f : Dma → Dma) (s : State) : (s.modDma p n f).free = s.free := modCore_free _ _ _
@[simp] theorem modDma_core_regs (p : Part) (n : Nat) (f : Dma → Dma) (q : Part) (s : State) : ((s.modDma p n f).core q).regs = (s.core q).regs := by
  cases p <;> cases q <;> rfl
@[simp] theorem modDma_core_time (p : Part) (n : Nat) (f : Dma → Dma) (q : Part) (s : State) : ((s.modDma p n f).core q).time = (s.core q).time := by
  cases p <;> cases q <;> rfl
@[simp] theorem modDma_core_ports (p : Part) (n : Nat) (f : Dma → Dma) (q : Part) (s : State) : ((s.modDma p n f).core q).ports = (s.core q).ports := by
  cases p <;> cases q <;> rfl
@[simp] theorem modDma_core_chans (p : Part) (n : Nat) (f : Dma → Dma) (q : Part) (s : State) : ((s.modDma p n f).core q).chans = (s.core q).chans := by
  cases p <;> cases q <;> rfl
@[simp] theorem modDma_core_inflight (p : Part) (n : Nat) (f : Dma → Dma) (q : Part) (s : State) : ((s.modDma p n f).core q).inflight = (s.core q).inflight := by
  cases p <;> cases q <;> rfl
@[simp] theorem modDma_core_waiting (p : Part) (n : Nat) (f : Dma → Dma) (q : Part) (s : State) : ((s.modDma p n f).core q).waiting = (s.core q).waiting := by
  cases p <;> cases q <;> rfl
@[simp] theorem modDma_core_jobs (p : Part) (n : Nat) (f : Dma → Dma) (q : Part) (s : State) : ((s.modDma p n f).core q).jobs = (s.core q).jobs := by
  cases p <;> cases q <;> rfl
@[simp] theorem modDma_core_mbox (p : Part) (n : Nat) (f : Dma → Dma) (q : Part) (s : State) : ((s.modDma p n f).core q).mbox = (s.core q).mbox := by
  cases p <;> cases q <;> rfl
@[simp] theorem modDma_core_cores (p : Part) (n : Nat) (f : Dma → Dma) (q : Part) (s : State) : ((s.modDma p n f).core q).cores = (s.core q).cores := by
  cases p <;> cases q <;> rfl
@[simp] theorem modDma_core_fw (p : Part) (n : Nat) (f : Dma → Dma) (q : Part) (s : State) : ((s.modDma p n f).core q).fw = (s.core q).fw := by
  cases p <;> cases q <;> rfl
@[simp] theorem modDma_core_sec (p : Part) (n : Nat) (f : Dma → Dma) (q : Part) (s : State) : ((s.modDma p n f).core q).sec = (s.core q).sec := by
  cases p <;> cases q <;> rfl
@[simp] theorem modDma_core_topo (p : Part) (n : Nat) (f : Dma → Dma) (q : Part) (s : State) : ((s.modDma p n f).core q).topo = (s.core q).topo := by
  cases p <;> cases q <;> rfl
@[simp] theorem modDma_core_errs (p : Part) (n : Nat) (f : Dma → Dma) (q : Part) (s : State) : ((s.modDma p n f).core q).errs = (s.core q).errs := by
  cases p <;> cases q <;> rfl
@[simp] theorem modDma_core_errSeq (p : Part) (n : Nat) (f : Dma → Dma) (q : Part) (s : State) : ((s.modDma p n f).core q).errSeq = (s.core q).errSeq := by
  cases p <;> cases q <;> rfl
@[simp] theorem modDma_core_tap (p : Part) (n : Nat) (f : Dma → Dma) (q : Part) (s : State) : ((s.modDma p n f).core q).tap = (s.core q).tap := by
  cases p <;> cases q <;> rfl
@[simp] theorem modDma_core_bus (p : Part) (n : Nat) (f : Dma → Dma) (q : Part) (s : State) : ((s.modDma p n f).core q).bus = (s.core q).bus := by
  cases p <;> cases q <;> rfl
@[simp] theorem modDma_core_mem (p : Part) (n : Nat) (f : Dma → Dma) (q : Part) (s : State) : ((s.modDma p n f).core q).mem = (s.core q).mem := by
  cases p <;> cases q <;> rfl
@[simp] theorem modDma_core_hostMem (p : Part) (n : Nat) (f : Dma → Dma) (q : Part) (s : State) : ((s.modDma p n f).core q).hostMem = (s.core q).hostMem := by
  cases p <;> cases q <;> rfl
@[simp] theorem modDma_core_lastTick (p : Part) (n : Nat) (f : Dma → Dma) (q : Part) (s : State) : ((s.modDma p n f).core q).lastTick = (s.core q).lastTick := by
  cases p <;> cases q <;> rfl
@[simp] theorem modDma_core_held (p : Part) (n : Nat) (f : Dma → Dma) (q : Part) (s : State) : ((s.modDma p n f).core q).held = (s.core q).held := by
  cases p <;> cases q <;> rfl
@[simp] theorem modDma_core_evTick (p : Part) (n : Nat) (f : Dma → Dma) (q : Part) (s : State) : ((s.modDma p n f).core q).evTick = (s.core q).evTick := by
  cases p <;> cases q <;> rfl
@[simp] theorem modDma_core_evNow (p : Part) (n : Nat) (f : Dma → Dma) (q : Part) (s : State) : ((s.modDma p n f).core q).evNow = (s.core q).evNow := by
  cases p <;> cases q <;> rfl

/-! ## `modMbox` -/

@[simp] theorem modMbox_spn (p : Part) (n : Nat) (f : Mbox → Mbox) (s : State) : (s.modMbox p n f).spn = s.spn := modCore_spn _ _ _
@[simp] theorem modMbox_crl (p : Part) (n : Nat) (f : Mbox → Mbox) (s : State) : (s.modMbox p n f).crl = s.crl := modCore_crl _ _ _
@[simp] theorem modMbox_pending (p : Part) (n : Nat) (f : Mbox → Mbox) (s : State) : (s.modMbox p n f).pending = s.pending := modCore_pending _ _ _
@[simp] theorem modMbox_free (p : Part) (n : Nat) (f : Mbox → Mbox) (s : State) : (s.modMbox p n f).free = s.free := modCore_free _ _ _
@[simp] theorem modMbox_core_regs (p : Part) (n : Nat) (f : Mbox → Mbox) (q : Part) (s : State) : ((s.modMbox p n f).core q).regs = (s.core q).regs := by
  cases p <;> cases q <;> rfl
@[simp] theorem modMbox_core_time (p : Part) (n : Nat) (f : Mbox → Mbox) (q : Part) (s : State) : ((s.modMbox p n f).core q).time = (s.core q).time := by
  cases p <;> cases q <;> rfl
@[simp] theorem modMbox_core_ports (p : Part) (n : Nat) (f : Mbox → Mbox) (q : Part) (s : State) : ((s.modMbox p n f).core q).ports = (s.core q).ports := by
  cases p <;> cases q <;> rfl
@[simp] theorem modMbox_core_chans (p : Part) (n : Nat) (f : Mbox → Mbox) (q : Part) (s : State) : ((s.modMbox p n f).core q).chans = (s.core q).chans := by
  cases p <;> cases q <;> rfl
@[simp] theorem modMbox_core_inflight (p : Part) (n : Nat) (f : Mbox → Mbox) (q : Part) (s : State) : ((s.modMbox p n f).core q).inflight = (s.core q).inflight := by
  cases p <;> cases q <;> rfl
@[simp] theorem modMbox_core_waiting (p : Part) (n : Nat) (f : Mbox → Mbox) (q : Part) (s : State) : ((s.modMbox p n f).core q).waiting = (s.core q).waiting := by
  cases p <;> cases q <;> rfl
@[simp] theorem modMbox_core_jobs (p : Part) (n : Nat) (f : Mbox → Mbox) (q : Part) (s : State) : ((s.modMbox p n f).core q).jobs = (s.core q).jobs := by
  cases p <;> cases q <;> rfl
@[simp] theorem modMbox_core_dma (p : Part) (n : Nat) (f : Mbox → Mbox) (q : Part) (s : State) : ((s.modMbox p n f).core q).dma = (s.core q).dma := by
  cases p <;> cases q <;> rfl
@[simp] theorem modMbox_core_cores (p : Part) (n : Nat) (f : Mbox → Mbox) (q : Part) (s : State) : ((s.modMbox p n f).core q).cores = (s.core q).cores := by
  cases p <;> cases q <;> rfl
@[simp] theorem modMbox_core_fw (p : Part) (n : Nat) (f : Mbox → Mbox) (q : Part) (s : State) : ((s.modMbox p n f).core q).fw = (s.core q).fw := by
  cases p <;> cases q <;> rfl
@[simp] theorem modMbox_core_sec (p : Part) (n : Nat) (f : Mbox → Mbox) (q : Part) (s : State) : ((s.modMbox p n f).core q).sec = (s.core q).sec := by
  cases p <;> cases q <;> rfl
@[simp] theorem modMbox_core_topo (p : Part) (n : Nat) (f : Mbox → Mbox) (q : Part) (s : State) : ((s.modMbox p n f).core q).topo = (s.core q).topo := by
  cases p <;> cases q <;> rfl
@[simp] theorem modMbox_core_errs (p : Part) (n : Nat) (f : Mbox → Mbox) (q : Part) (s : State) : ((s.modMbox p n f).core q).errs = (s.core q).errs := by
  cases p <;> cases q <;> rfl
@[simp] theorem modMbox_core_errSeq (p : Part) (n : Nat) (f : Mbox → Mbox) (q : Part) (s : State) : ((s.modMbox p n f).core q).errSeq = (s.core q).errSeq := by
  cases p <;> cases q <;> rfl
@[simp] theorem modMbox_core_tap (p : Part) (n : Nat) (f : Mbox → Mbox) (q : Part) (s : State) : ((s.modMbox p n f).core q).tap = (s.core q).tap := by
  cases p <;> cases q <;> rfl
@[simp] theorem modMbox_core_bus (p : Part) (n : Nat) (f : Mbox → Mbox) (q : Part) (s : State) : ((s.modMbox p n f).core q).bus = (s.core q).bus := by
  cases p <;> cases q <;> rfl
@[simp] theorem modMbox_core_mem (p : Part) (n : Nat) (f : Mbox → Mbox) (q : Part) (s : State) : ((s.modMbox p n f).core q).mem = (s.core q).mem := by
  cases p <;> cases q <;> rfl
@[simp] theorem modMbox_core_hostMem (p : Part) (n : Nat) (f : Mbox → Mbox) (q : Part) (s : State) : ((s.modMbox p n f).core q).hostMem = (s.core q).hostMem := by
  cases p <;> cases q <;> rfl
@[simp] theorem modMbox_core_lastTick (p : Part) (n : Nat) (f : Mbox → Mbox) (q : Part) (s : State) : ((s.modMbox p n f).core q).lastTick = (s.core q).lastTick := by
  cases p <;> cases q <;> rfl
@[simp] theorem modMbox_core_held (p : Part) (n : Nat) (f : Mbox → Mbox) (q : Part) (s : State) : ((s.modMbox p n f).core q).held = (s.core q).held := by
  cases p <;> cases q <;> rfl
@[simp] theorem modMbox_core_evTick (p : Part) (n : Nat) (f : Mbox → Mbox) (q : Part) (s : State) : ((s.modMbox p n f).core q).evTick = (s.core q).evTick := by
  cases p <;> cases q <;> rfl
@[simp] theorem modMbox_core_evNow (p : Part) (n : Nat) (f : Mbox → Mbox) (q : Part) (s : State) : ((s.modMbox p n f).core q).evNow = (s.core q).evNow := by
  cases p <;> cases q <;> rfl

/-! ## `modFwCore` -/

@[simp] theorem modFwCore_spn (p : Part) (n : Nat) (f : FwCore → FwCore) (s : State) : (s.modFwCore p n f).spn = s.spn := modCore_spn _ _ _
@[simp] theorem modFwCore_crl (p : Part) (n : Nat) (f : FwCore → FwCore) (s : State) : (s.modFwCore p n f).crl = s.crl := modCore_crl _ _ _
@[simp] theorem modFwCore_pending (p : Part) (n : Nat) (f : FwCore → FwCore) (s : State) : (s.modFwCore p n f).pending = s.pending := modCore_pending _ _ _
@[simp] theorem modFwCore_free (p : Part) (n : Nat) (f : FwCore → FwCore) (s : State) : (s.modFwCore p n f).free = s.free := modCore_free _ _ _
@[simp] theorem modFwCore_core_regs (p : Part) (n : Nat) (f : FwCore → FwCore) (q : Part) (s : State) : ((s.modFwCore p n f).core q).regs = (s.core q).regs := by
  cases p <;> cases q <;> rfl
@[simp] theorem modFwCore_core_time (p : Part) (n : Nat) (f : FwCore → FwCore) (q : Part) (s : State) : ((s.modFwCore p n f).core q).time = (s.core q).time := by
  cases p <;> cases q <;> rfl
@[simp] theorem modFwCore_core_ports (p : Part) (n : Nat) (f : FwCore → FwCore) (q : Part) (s : State) : ((s.modFwCore p n f).core q).ports = (s.core q).ports := by
  cases p <;> cases q <;> rfl
@[simp] theorem modFwCore_core_chans (p : Part) (n : Nat) (f : FwCore → FwCore) (q : Part) (s : State) : ((s.modFwCore p n f).core q).chans = (s.core q).chans := by
  cases p <;> cases q <;> rfl
@[simp] theorem modFwCore_core_inflight (p : Part) (n : Nat) (f : FwCore → FwCore) (q : Part) (s : State) : ((s.modFwCore p n f).core q).inflight = (s.core q).inflight := by
  cases p <;> cases q <;> rfl
@[simp] theorem modFwCore_core_waiting (p : Part) (n : Nat) (f : FwCore → FwCore) (q : Part) (s : State) : ((s.modFwCore p n f).core q).waiting = (s.core q).waiting := by
  cases p <;> cases q <;> rfl
@[simp] theorem modFwCore_core_jobs (p : Part) (n : Nat) (f : FwCore → FwCore) (q : Part) (s : State) : ((s.modFwCore p n f).core q).jobs = (s.core q).jobs := by
  cases p <;> cases q <;> rfl
@[simp] theorem modFwCore_core_mbox (p : Part) (n : Nat) (f : FwCore → FwCore) (q : Part) (s : State) : ((s.modFwCore p n f).core q).mbox = (s.core q).mbox := by
  cases p <;> cases q <;> rfl
@[simp] theorem modFwCore_core_dma (p : Part) (n : Nat) (f : FwCore → FwCore) (q : Part) (s : State) : ((s.modFwCore p n f).core q).dma = (s.core q).dma := by
  cases p <;> cases q <;> rfl
@[simp] theorem modFwCore_core_fw (p : Part) (n : Nat) (f : FwCore → FwCore) (q : Part) (s : State) : ((s.modFwCore p n f).core q).fw = (s.core q).fw := by
  cases p <;> cases q <;> rfl
@[simp] theorem modFwCore_core_sec (p : Part) (n : Nat) (f : FwCore → FwCore) (q : Part) (s : State) : ((s.modFwCore p n f).core q).sec = (s.core q).sec := by
  cases p <;> cases q <;> rfl
@[simp] theorem modFwCore_core_topo (p : Part) (n : Nat) (f : FwCore → FwCore) (q : Part) (s : State) : ((s.modFwCore p n f).core q).topo = (s.core q).topo := by
  cases p <;> cases q <;> rfl
@[simp] theorem modFwCore_core_errs (p : Part) (n : Nat) (f : FwCore → FwCore) (q : Part) (s : State) : ((s.modFwCore p n f).core q).errs = (s.core q).errs := by
  cases p <;> cases q <;> rfl
@[simp] theorem modFwCore_core_errSeq (p : Part) (n : Nat) (f : FwCore → FwCore) (q : Part) (s : State) : ((s.modFwCore p n f).core q).errSeq = (s.core q).errSeq := by
  cases p <;> cases q <;> rfl
@[simp] theorem modFwCore_core_tap (p : Part) (n : Nat) (f : FwCore → FwCore) (q : Part) (s : State) : ((s.modFwCore p n f).core q).tap = (s.core q).tap := by
  cases p <;> cases q <;> rfl
@[simp] theorem modFwCore_core_bus (p : Part) (n : Nat) (f : FwCore → FwCore) (q : Part) (s : State) : ((s.modFwCore p n f).core q).bus = (s.core q).bus := by
  cases p <;> cases q <;> rfl
@[simp] theorem modFwCore_core_mem (p : Part) (n : Nat) (f : FwCore → FwCore) (q : Part) (s : State) : ((s.modFwCore p n f).core q).mem = (s.core q).mem := by
  cases p <;> cases q <;> rfl
@[simp] theorem modFwCore_core_hostMem (p : Part) (n : Nat) (f : FwCore → FwCore) (q : Part) (s : State) : ((s.modFwCore p n f).core q).hostMem = (s.core q).hostMem := by
  cases p <;> cases q <;> rfl
@[simp] theorem modFwCore_core_lastTick (p : Part) (n : Nat) (f : FwCore → FwCore) (q : Part) (s : State) : ((s.modFwCore p n f).core q).lastTick = (s.core q).lastTick := by
  cases p <;> cases q <;> rfl
@[simp] theorem modFwCore_core_held (p : Part) (n : Nat) (f : FwCore → FwCore) (q : Part) (s : State) : ((s.modFwCore p n f).core q).held = (s.core q).held := by
  cases p <;> cases q <;> rfl
@[simp] theorem modFwCore_core_evTick (p : Part) (n : Nat) (f : FwCore → FwCore) (q : Part) (s : State) : ((s.modFwCore p n f).core q).evTick = (s.core q).evTick := by
  cases p <;> cases q <;> rfl
@[simp] theorem modFwCore_core_evNow (p : Part) (n : Nat) (f : FwCore → FwCore) (q : Part) (s : State) : ((s.modFwCore p n f).core q).evNow = (s.core q).evNow := by
  cases p <;> cases q <;> rfl

/-! ## `modTime` -/

@[simp] theorem modTime_spn (p : Part) (f : Time → Time) (s : State) : (s.modTime p f).spn = s.spn := modCore_spn _ _ _
@[simp] theorem modTime_crl (p : Part) (f : Time → Time) (s : State) : (s.modTime p f).crl = s.crl := modCore_crl _ _ _
@[simp] theorem modTime_pending (p : Part) (f : Time → Time) (s : State) : (s.modTime p f).pending = s.pending := modCore_pending _ _ _
@[simp] theorem modTime_free (p : Part) (f : Time → Time) (s : State) : (s.modTime p f).free = s.free := modCore_free _ _ _
@[simp] theorem modTime_core_regs (p : Part) (f : Time → Time) (q : Part) (s : State) : ((s.modTime p f).core q).regs = (s.core q).regs := by
  cases p <;> cases q <;> rfl
@[simp] theorem modTime_core_ports (p : Part) (f : Time → Time) (q : Part) (s : State) : ((s.modTime p f).core q).ports = (s.core q).ports := by
  cases p <;> cases q <;> rfl
@[simp] theorem modTime_core_chans (p : Part) (f : Time → Time) (q : Part) (s : State) : ((s.modTime p f).core q).chans = (s.core q).chans := by
  cases p <;> cases q <;> rfl
@[simp] theorem modTime_core_inflight (p : Part) (f : Time → Time) (q : Part) (s : State) : ((s.modTime p f).core q).inflight = (s.core q).inflight := by
  cases p <;> cases q <;> rfl
@[simp] theorem modTime_core_waiting (p : Part) (f : Time → Time) (q : Part) (s : State) : ((s.modTime p f).core q).waiting = (s.core q).waiting := by
  cases p <;> cases q <;> rfl
@[simp] theorem modTime_core_jobs (p : Part) (f : Time → Time) (q : Part) (s : State) : ((s.modTime p f).core q).jobs = (s.core q).jobs := by
  cases p <;> cases q <;> rfl
@[simp] theorem modTime_core_mbox (p : Part) (f : Time → Time) (q : Part) (s : State) : ((s.modTime p f).core q).mbox = (s.core q).mbox := by
  cases p <;> cases q <;> rfl
@[simp] theorem modTime_core_dma (p : Part) (f : Time → Time) (q : Part) (s : State) : ((s.modTime p f).core q).dma = (s.core q).dma := by
  cases p <;> cases q <;> rfl
@[simp] theorem modTime_core_cores (p : Part) (f : Time → Time) (q : Part) (s : State) : ((s.modTime p f).core q).cores = (s.core q).cores := by
  cases p <;> cases q <;> rfl
@[simp] theorem modTime_core_fw (p : Part) (f : Time → Time) (q : Part) (s : State) : ((s.modTime p f).core q).fw = (s.core q).fw := by
  cases p <;> cases q <;> rfl
@[simp] theorem modTime_core_sec (p : Part) (f : Time → Time) (q : Part) (s : State) : ((s.modTime p f).core q).sec = (s.core q).sec := by
  cases p <;> cases q <;> rfl
@[simp] theorem modTime_core_topo (p : Part) (f : Time → Time) (q : Part) (s : State) : ((s.modTime p f).core q).topo = (s.core q).topo := by
  cases p <;> cases q <;> rfl
@[simp] theorem modTime_core_errs (p : Part) (f : Time → Time) (q : Part) (s : State) : ((s.modTime p f).core q).errs = (s.core q).errs := by
  cases p <;> cases q <;> rfl
@[simp] theorem modTime_core_errSeq (p : Part) (f : Time → Time) (q : Part) (s : State) : ((s.modTime p f).core q).errSeq = (s.core q).errSeq := by
  cases p <;> cases q <;> rfl
@[simp] theorem modTime_core_tap (p : Part) (f : Time → Time) (q : Part) (s : State) : ((s.modTime p f).core q).tap = (s.core q).tap := by
  cases p <;> cases q <;> rfl
@[simp] theorem modTime_core_bus (p : Part) (f : Time → Time) (q : Part) (s : State) : ((s.modTime p f).core q).bus = (s.core q).bus := by
  cases p <;> cases q <;> rfl
@[simp] theorem modTime_core_mem (p : Part) (f : Time → Time) (q : Part) (s : State) : ((s.modTime p f).core q).mem = (s.core q).mem := by
  cases p <;> cases q <;> rfl
@[simp] theorem modTime_core_hostMem (p : Part) (f : Time → Time) (q : Part) (s : State) : ((s.modTime p f).core q).hostMem = (s.core q).hostMem := by
  cases p <;> cases q <;> rfl
@[simp] theorem modTime_core_lastTick (p : Part) (f : Time → Time) (q : Part) (s : State) : ((s.modTime p f).core q).lastTick = (s.core q).lastTick := by
  cases p <;> cases q <;> rfl
@[simp] theorem modTime_core_held (p : Part) (f : Time → Time) (q : Part) (s : State) : ((s.modTime p f).core q).held = (s.core q).held := by
  cases p <;> cases q <;> rfl
@[simp] theorem modTime_core_evTick (p : Part) (f : Time → Time) (q : Part) (s : State) : ((s.modTime p f).core q).evTick = (s.core q).evTick := by
  cases p <;> cases q <;> rfl
@[simp] theorem modTime_core_evNow (p : Part) (f : Time → Time) (q : Part) (s : State) : ((s.modTime p f).core q).evNow = (s.core q).evNow := by
  cases p <;> cases q <;> rfl

/-! ## Reading back one unit -/

@[simp] theorem modPort_port_same (p : Part) (n : Nat) (f : Port → Port) (s : State) : (s.modPort p n f).port p n = f (s.port p n) := by
  simp [State.modPort, State.port]
@[simp] theorem modChan_chan_same (p : Part) (n : Nat) (f : Chan → Chan) (s : State) : (s.modChan p n f).chan p n = f (s.chan p n) := by
  simp [State.modChan, State.chan]
theorem modChan_chan (p q : Part) (n m : Nat) (f : Chan → Chan) (s : State) :
    (s.modChan p n f).chan q m = if q = p ∧ m = n then f (s.chan q m) else s.chan q m := by
  by_cases h : q = p
  · subst h
    by_cases h' : m = n
    · subst h'
      simp
    · simp [State.modChan, State.chan, tget_tmod_ne _ _ _ _ h', h']
  · simp [State.modChan, State.chan, modCore_core_ne _ _ h, h]
@[simp] theorem modDma_dmaCh_same (p : Part) (n : Nat) (f : Dma → Dma) (s : State) : (s.modDma p n f).dmaCh p n = f (s.dmaCh p n) := by
  simp [State.modDma, State.dmaCh]
@[simp] theorem modFwCore_fwCore_same (p : Part) (n : Nat) (f : FwCore → FwCore) (s : State) :
    (s.modFwCore p n f).fwCore p n = f (s.fwCore p n) := by
  simp [State.modFwCore, State.fwCore]
@[simp] theorem modMbox_mboxOf_same (p : Part) (n : Nat) (f : Mbox → Mbox) (s : State) :
    (s.modMbox p n f).mboxOf p n = f (s.mboxOf p n) := by
  simp [State.modMbox, State.mboxOf]

/-- A held register word reads as its low 32 bits were written. -/
@[simp] theorem setReg_reg_same (p : Part) (off v : Nat) (s : State) : (s.setReg p off v).reg p off = v % 2 ^ 32 := by
  simp [State.setReg, State.reg]
theorem setReg_reg_ne {p q : Part} {off o : Nat} (v : Nat) (s : State) (h : ¬(q = p ∧ o = off)) :
    (s.setReg p off v).reg q o = s.reg q o := by
  by_cases hp : q = p
  · subst hp
    have ho : o ≠ off := fun e => h ⟨rfl, e⟩
    simp [State.setReg, State.reg, tget_tset_ne _ _ _ _ ho]
  · simp [State.setReg, State.reg, modCore_core_ne _ _ hp]

/-! ## Memory of a part -/

@[simp] theorem wr_spn (p : Part) (a : Nat) (b : Bytes) (s : State) : (s.wr p a b).spn = s.spn := by
  cases p <;> simp only [State.wr] <;> (try split) <;> rfl
@[simp] theorem wr_crl (p : Part) (a : Nat) (b : Bytes) (s : State) : (s.wr p a b).crl = s.crl := by
  cases p <;> simp only [State.wr] <;> (try split) <;> rfl
@[simp] theorem wr_pending (p : Part) (a : Nat) (b : Bytes) (s : State) : (s.wr p a b).pending = s.pending := by
  cases p <;> simp only [State.wr] <;> (try split) <;> rfl
@[simp] theorem wr_free (p : Part) (a : Nat) (b : Bytes) (s : State) : (s.wr p a b).free = s.free := by
  cases p <;> simp only [State.wr] <;> (try split) <;> rfl
@[simp] theorem wr_core_regs (p q : Part) (a : Nat) (b : Bytes) (s : State) : ((s.wr p a b).core q).regs = (s.core q).regs := by
  cases p <;> cases q <;> simp only [State.wr] <;> (try split) <;> rfl
@[simp] theorem wr_core_time (p q : Part) (a : Nat) (b : Bytes) (s : State) : ((s.wr p a b).core q).time = (s.core q).time := by
  cases p <;> cases q <;> simp only [State.wr] <;> (try split) <;> rfl
@[simp] theorem wr_core_ports (p q : Part) (a : Nat) (b : Bytes) (s : State) : ((s.wr p a b).core q).ports = (s.core q).ports := by
  cases p <;> cases q <;> simp only [State.wr] <;> (try split) <;> rfl
@[simp] theorem wr_core_chans (p q : Part) (a : Nat) (b : Bytes) (s : State) : ((s.wr p a b).core q).chans = (s.core q).chans := by
  cases p <;> cases q <;> simp only [State.wr] <;> (try split) <;> rfl
@[simp] theorem wr_core_inflight (p q : Part) (a : Nat) (b : Bytes) (s : State) : ((s.wr p a b).core q).inflight = (s.core q).inflight := by
  cases p <;> cases q <;> simp only [State.wr] <;> (try split) <;> rfl
@[simp] theorem wr_core_waiting (p q : Part) (a : Nat) (b : Bytes) (s : State) : ((s.wr p a b).core q).waiting = (s.core q).waiting := by
  cases p <;> cases q <;> simp only [State.wr] <;> (try split) <;> rfl
@[simp] theorem wr_core_jobs (p q : Part) (a : Nat) (b : Bytes) (s : State) : ((s.wr p a b).core q).jobs = (s.core q).jobs := by
  cases p <;> cases q <;> simp only [State.wr] <;> (try split) <;> rfl
@[simp] theorem wr_core_mbox (p q : Part) (a : Nat) (b : Bytes) (s : State) : ((s.wr p a b).core q).mbox = (s.core q).mbox := by
  cases p <;> cases q <;> simp only [State.wr] <;> (try split) <;> rfl
@[simp] theorem wr_core_dma (p q : Part) (a : Nat) (b : Bytes) (s : State) : ((s.wr p a b).core q).dma = (s.core q).dma := by
  cases p <;> cases q <;> simp only [State.wr] <;> (try split) <;> rfl
@[simp] theorem wr_core_cores (p q : Part) (a : Nat) (b : Bytes) (s : State) : ((s.wr p a b).core q).cores = (s.core q).cores := by
  cases p <;> cases q <;> simp only [State.wr] <;> (try split) <;> rfl
@[simp] theorem wr_core_fw (p q : Part) (a : Nat) (b : Bytes) (s : State) : ((s.wr p a b).core q).fw = (s.core q).fw := by
  cases p <;> cases q <;> simp only [State.wr] <;> (try split) <;> rfl
@[simp] theorem wr_core_sec (p q : Part) (a : Nat) (b : Bytes) (s : State) : ((s.wr p a b).core q).sec = (s.core q).sec := by
  cases p <;> cases q <;> simp only [State.wr] <;> (try split) <;> rfl
@[simp] theorem wr_core_topo (p q : Part) (a : Nat) (b : Bytes) (s : State) : ((s.wr p a b).core q).topo = (s.core q).topo := by
  cases p <;> cases q <;> simp only [State.wr] <;> (try split) <;> rfl
@[simp] theorem wr_core_errs (p q : Part) (a : Nat) (b : Bytes) (s : State) : ((s.wr p a b).core q).errs = (s.core q).errs := by
  cases p <;> cases q <;> simp only [State.wr] <;> (try split) <;> rfl
@[simp] theorem wr_core_errSeq (p q : Part) (a : Nat) (b : Bytes) (s : State) : ((s.wr p a b).core q).errSeq = (s.core q).errSeq := by
  cases p <;> cases q <;> simp only [State.wr] <;> (try split) <;> rfl
@[simp] theorem wr_core_tap (p q : Part) (a : Nat) (b : Bytes) (s : State) : ((s.wr p a b).core q).tap = (s.core q).tap := by
  cases p <;> cases q <;> simp only [State.wr] <;> (try split) <;> rfl
@[simp] theorem wr_core_bus (p q : Part) (a : Nat) (b : Bytes) (s : State) : ((s.wr p a b).core q).bus = (s.core q).bus := by
  cases p <;> cases q <;> simp only [State.wr] <;> (try split) <;> rfl
@[simp] theorem wr_core_lastTick (p q : Part) (a : Nat) (b : Bytes) (s : State) : ((s.wr p a b).core q).lastTick = (s.core q).lastTick := by
  cases p <;> cases q <;> simp only [State.wr] <;> (try split) <;> rfl
@[simp] theorem wr_core_held (p q : Part) (a : Nat) (b : Bytes) (s : State) : ((s.wr p a b).core q).held = (s.core q).held := by
  cases p <;> cases q <;> simp only [State.wr] <;> (try split) <;> rfl
@[simp] theorem wr_core_evTick (p q : Part) (a : Nat) (b : Bytes) (s : State) : ((s.wr p a b).core q).evTick = (s.core q).evTick := by
  cases p <;> cases q <;> simp only [State.wr] <;> (try split) <;> rfl
@[simp] theorem wr_core_evNow (p q : Part) (a : Nat) (b : Bytes) (s : State) : ((s.wr p a b).core q).evNow = (s.core q).evNow := by
  cases p <;> cases q <;> simp only [State.wr] <;> (try split) <;> rfl

/-! ## `noteEv` and `setEv` -/

@[simp] theorem noteEv_spn (p : Part) (off mask : Nat) (s : State) : (s.noteEv p off mask).spn = s.spn := modCore_spn _ _ _
@[simp] theorem noteEv_crl (p : Part) (off mask : Nat) (s : State) : (s.noteEv p off mask).crl = s.crl := modCore_crl _ _ _
@[simp] theorem noteEv_pending (p : Part) (off mask : Nat) (s : State) : (s.noteEv p off mask).pending = s.pending := modCore_pending _ _ _
@[simp] theorem noteEv_free (p : Part) (off mask : Nat) (s : State) : (s.noteEv p off mask).free = s.free := modCore_free _ _ _
@[simp] theorem noteEv_core_regs (p q : Part) (off mask : Nat) (s : State) : ((s.noteEv p off mask).core q).regs = (s.core q).regs := by
  cases p <;> cases q <;> rfl
@[simp] theorem noteEv_core_time (p q : Part) (off mask : Nat) (s : State) : ((s.noteEv p off mask).core q).time = (s.core q).time := by
  cases p <;> cases q <;> rfl
@[simp] theorem noteEv_core_ports (p q : Part) (off mask : Nat) (s : State) : ((s.noteEv p off mask).core q).ports = (s.core q).ports := by
  cases p <;> cases q <;> rfl
@[simp] theorem noteEv_core_chans (p q : Part) (off mask : Nat) (s : State) : ((s.noteEv p off mask).core q).chans = (s.core q).chans := by
  cases p <;> cases q <;> rfl
@[simp] theorem noteEv_core_inflight (p q : Part) (off mask : Nat) (s : State) : ((s.noteEv p off mask).core q).inflight = (s.core q).inflight := by
  cases p <;> cases q <;> rfl
@[simp] theorem noteEv_core_waiting (p q : Part) (off mask : Nat) (s : State) : ((s.noteEv p off mask).core q).waiting = (s.core q).waiting := by
  cases p <;> cases q <;> rfl
@[simp] theorem noteEv_core_jobs (p q : Part) (off mask : Nat) (s : State) : ((s.noteEv p off mask).core q).jobs = (s.core q).jobs := by
  cases p <;> cases q <;> rfl
@[simp] theorem noteEv_core_mbox (p q : Part) (off mask : Nat) (s : State) : ((s.noteEv p off mask).core q).mbox = (s.core q).mbox := by
  cases p <;> cases q <;> rfl
@[simp] theorem noteEv_core_dma (p q : Part) (off mask : Nat) (s : State) : ((s.noteEv p off mask).core q).dma = (s.core q).dma := by
  cases p <;> cases q <;> rfl
@[simp] theorem noteEv_core_cores (p q : Part) (off mask : Nat) (s : State) : ((s.noteEv p off mask).core q).cores = (s.core q).cores := by
  cases p <;> cases q <;> rfl
@[simp] theorem noteEv_core_fw (p q : Part) (off mask : Nat) (s : State) : ((s.noteEv p off mask).core q).fw = (s.core q).fw := by
  cases p <;> cases q <;> rfl
@[simp] theorem noteEv_core_sec (p q : Part) (off mask : Nat) (s : State) : ((s.noteEv p off mask).core q).sec = (s.core q).sec := by
  cases p <;> cases q <;> rfl
@[simp] theorem noteEv_core_topo (p q : Part) (off mask : Nat) (s : State) : ((s.noteEv p off mask).core q).topo = (s.core q).topo := by
  cases p <;> cases q <;> rfl
@[simp] theorem noteEv_core_errs (p q : Part) (off mask : Nat) (s : State) : ((s.noteEv p off mask).core q).errs = (s.core q).errs := by
  cases p <;> cases q <;> rfl
@[simp] theorem noteEv_core_errSeq (p q : Part) (off mask : Nat) (s : State) : ((s.noteEv p off mask).core q).errSeq = (s.core q).errSeq := by
  cases p <;> cases q <;> rfl
@[simp] theorem noteEv_core_tap (p q : Part) (off mask : Nat) (s : State) : ((s.noteEv p off mask).core q).tap = (s.core q).tap := by
  cases p <;> cases q <;> rfl
@[simp] theorem noteEv_core_bus (p q : Part) (off mask : Nat) (s : State) : ((s.noteEv p off mask).core q).bus = (s.core q).bus := by
  cases p <;> cases q <;> rfl
@[simp] theorem noteEv_core_mem (p q : Part) (off mask : Nat) (s : State) : ((s.noteEv p off mask).core q).mem = (s.core q).mem := by
  cases p <;> cases q <;> rfl
@[simp] theorem noteEv_core_hostMem (p q : Part) (off mask : Nat) (s : State) : ((s.noteEv p off mask).core q).hostMem = (s.core q).hostMem := by
  cases p <;> cases q <;> rfl
@[simp] theorem noteEv_core_lastTick (p q : Part) (off mask : Nat) (s : State) : ((s.noteEv p off mask).core q).lastTick = (s.core q).lastTick := by
  cases p <;> cases q <;> rfl
@[simp] theorem noteEv_core_held (p q : Part) (off mask : Nat) (s : State) : ((s.noteEv p off mask).core q).held = (s.core q).held := by
  cases p <;> cases q <;> rfl
@[simp] theorem setEv_spn (p : Part) (off bit : Nat) (s : State) : (s.setEv p off bit).spn = s.spn := by simp [State.setEv]
@[simp] theorem setEv_crl (p : Part) (off bit : Nat) (s : State) : (s.setEv p off bit).crl = s.crl := by simp [State.setEv]
@[simp] theorem setEv_pending (p : Part) (off bit : Nat) (s : State) : (s.setEv p off bit).pending = s.pending := by simp [State.setEv]
@[simp] theorem setEv_free (p : Part) (off bit : Nat) (s : State) : (s.setEv p off bit).free = s.free := by simp [State.setEv]
@[simp] theorem setEv_core_time (p q : Part) (off bit : Nat) (s : State) : ((s.setEv p off bit).core q).time = (s.core q).time := by
  simp [State.setEv]
@[simp] theorem setEv_core_ports (p q : Part) (off bit : Nat) (s : State) : ((s.setEv p off bit).core q).ports = (s.core q).ports := by
  simp [State.setEv]
@[simp] theorem setEv_core_chans (p q : Part) (off bit : Nat) (s : State) : ((s.setEv p off bit).core q).chans = (s.core q).chans := by
  simp [State.setEv]
@[simp] theorem setEv_core_inflight (p q : Part) (off bit : Nat) (s : State) : ((s.setEv p off bit).core q).inflight = (s.core q).inflight := by
  simp [State.setEv]
@[simp] theorem setEv_core_waiting (p q : Part) (off bit : Nat) (s : State) : ((s.setEv p off bit).core q).waiting = (s.core q).waiting := by
  simp [State.setEv]
@[simp] theorem setEv_core_jobs (p q : Part) (off bit : Nat) (s : State) : ((s.setEv p off bit).core q).jobs = (s.core q).jobs := by
  simp [State.setEv]
@[simp] theorem setEv_core_mbox (p q : Part) (off bit : Nat) (s : State) : ((s.setEv p off bit).core q).mbox = (s.core q).mbox := by
  simp [State.setEv]
@[simp] theorem setEv_core_dma (p q : Part) (off bit : Nat) (s : State) : ((s.setEv p off bit).core q).dma = (s.core q).dma := by
  simp [State.setEv]
@[simp] theorem setEv_core_cores (p q : Part) (off bit : Nat) (s : State) : ((s.setEv p off bit).core q).cores = (s.core q).cores := by
  simp [State.setEv]
@[simp] theorem setEv_core_fw (p q : Part) (off bit : Nat) (s : State) : ((s.setEv p off bit).core q).fw = (s.core q).fw := by
  simp [State.setEv]
@[simp] theorem setEv_core_sec (p q : Part) (off bit : Nat) (s : State) : ((s.setEv p off bit).core q).sec = (s.core q).sec := by
  simp [State.setEv]
@[simp] theorem setEv_core_topo (p q : Part) (off bit : Nat) (s : State) : ((s.setEv p off bit).core q).topo = (s.core q).topo := by
  simp [State.setEv]
@[simp] theorem setEv_core_errs (p q : Part) (off bit : Nat) (s : State) : ((s.setEv p off bit).core q).errs = (s.core q).errs := by
  simp [State.setEv]
@[simp] theorem setEv_core_errSeq (p q : Part) (off bit : Nat) (s : State) : ((s.setEv p off bit).core q).errSeq = (s.core q).errSeq := by
  simp [State.setEv]
@[simp] theorem setEv_core_tap (p q : Part) (off bit : Nat) (s : State) : ((s.setEv p off bit).core q).tap = (s.core q).tap := by
  simp [State.setEv]
@[simp] theorem setEv_core_bus (p q : Part) (off bit : Nat) (s : State) : ((s.setEv p off bit).core q).bus = (s.core q).bus := by
  simp [State.setEv]
@[simp] theorem setEv_core_mem (p q : Part) (off bit : Nat) (s : State) : ((s.setEv p off bit).core q).mem = (s.core q).mem := by
  simp [State.setEv]
@[simp] theorem setEv_core_hostMem (p q : Part) (off bit : Nat) (s : State) : ((s.setEv p off bit).core q).hostMem = (s.core q).hostMem := by
  simp [State.setEv]
@[simp] theorem setEv_core_lastTick (p q : Part) (off bit : Nat) (s : State) : ((s.setEv p off bit).core q).lastTick = (s.core q).lastTick := by
  simp [State.setEv]
@[simp] theorem setEv_core_held (p q : Part) (off bit : Nat) (s : State) : ((s.setEv p off bit).core q).held = (s.core q).held := by
  simp [State.setEv]

end Sys2Proof.Machine
end

