-- ==== Sys2Proof/Laws/Reports.lean ====
section
/-! SUPPORT. What the shared operations of Machine/Ops.lean can do: records, completions and the end of a step are reporting. -/

namespace Sys2Proof.Machine

theorem State.byte_wr_out (p q : Part) (a : Nat) (b : Bytes) (s : State) {x : Nat} (h : q = p → x < a ∨ a + b.length ≤ x) :
    (s.wr p a b).byte q x = s.byte q x := by
  cases p <;> cases q
  · exact memByte_memWr_out _ _ _ (h rfl)
  · rfl
  · simp only [State.wr]; split <;> rfl
  · have h := h rfl
    simp only [State.wr]
    split
    · simp only [State.byte]
      split
      · rw [memByte_memWr_out]; omega
      · rfl
    · simp only [State.byte]
      split
      · rfl
      · rw [memByte_memWr_out]; omega

@[simp] theorem wr_nil (p : Part) (a : Nat) (s : State) : s.wr p a [] = s := by
  cases p <;> simp only [State.wr, memWr] <;> (try split) <;> rfl

theorem Reports.refl (s : State) : Reports s s := by
  constructor <;> intros <;> first | rfl | exact ⟨‹_›, rfl, rfl⟩

theorem Reports.trans {a b c : State} (h : Reports a b) (k : Reports b c) : Reports a c where
  spn := k.spn.trans h.spn
  crl := by
    have h1 := h.crl
    have h2 := k.crl
    rw [← h1]
    rw [← h2] at h1 ⊢
    
  pending := k.pending.trans h.pending
  free := k.free.trans h.free
  time p := (k.time p).trans (h.time p)
  ports p := (k.ports p).trans (h.ports p)
  jobs p := (k.jobs p).trans (h.jobs p)
  dma p := (k.dma p).trans (h.dma p)
  cores p := (k.cores p).trans (h.cores p)
  fw p := (k.fw p).trans (h.fw p)
  topo p := (k.topo p).trans (h.topo p)
  tap p := (k.tap p).trans (h.tap p)
  bus p := (k.bus p).trans (h.bus p)
  held p := (k.held p).trans (h.held p)
  sec p := by rw [← h.sec p, ← k.sec p]
  regs p off h1 h2 h3 := (k.regs p off h1 h2 h3).trans (h.regs p off h1 h2 h3)
  fwBits p i h1 h2 := (k.fwBits p i h1 h2).trans (h.fwBits p i h1 h2)
  secBits p i h1 := (k.secBits p i h1).trans (h.secBits p i h1)
  mem p x hx := by
    refine (k.mem p x (fun ch hc => ?_)).trans (h.mem p x hx)
    obtain ⟨h1, h2, h3⟩ := h.rings p ch hc.1
    exact hx ch ⟨h1, by rw [← h2]; exact hc.2.1, by rw [← h2, ← h3]; exact hc.2.2⟩
  rings p ch hc := by
    obtain ⟨k1, k2, k3⟩ := k.rings p ch hc
    obtain ⟨h1, h2, h3⟩ := h.rings p ch k1
    exact ⟨h1, k2.trans h2, k3.trans h3⟩


/-- A change of one part's core that leaves its units alone and opens no channel. -/
theorem Reports.of_modCore (p : Part) (f : PartCore → PartCore) (s : State)
    (h : { f (s.core p) with inflight := [], waiting := [], chans := [], mbox := [], errs := [], errSeq := 0, evTick := 0, evNow := [], lastTick := [] } =
      { s.core p with inflight := [], waiting := [], chans := [], mbox := [], errs := [], errSeq := 0, evTick := 0, evNow := [], lastTick := [] })
    (hr : ∀ ch, (tget {} (f (s.core p)).chans ch).isOpen = true → (s.chan p ch).isOpen = true ∧
      (tget {} (f (s.core p)).chans ch).cplBase = (s.chan p ch).cplBase ∧
      (tget {} (f (s.core p)).chans ch).cplSize = (s.chan p ch).cplSize) : Reports s (s.modCore p f) := by
  simp only [PartCore.mk.injEq, true_and] at h
  obtain ⟨h1, h2, h3, h4, h5, h6, h7, h8, h9, h10, h11, h12, h13, h14⟩ := h
  have key : ∀ q, (s.modCore p f).core q = if q = p then f (s.core q) else s.core q := fun q => modCore_core p q f s
  have hreg : ∀ q o, (s.modCore p f).reg q o = s.reg q o := by
    intro q o
    simp only [State.reg, key]
    split
    · rename_i hq; subst hq; rw [h1]
    · rfl
  constructor
  case spn => simp
  case crl => simp
  case pending => simp
  case free => simp
  case regs => intros; exact hreg _ _
  case fwBits => intros; rw [hreg]
  case secBits => intros; rw [hreg]
  case mem =>
    intro q x _
    cases p <;> cases q <;> simp_all [State.byte]
  case rings =>
    intro q ch hc
    by_cases hq : q = p
    · subst hq
      simp only [State.chan, key, if_true] at hc ⊢
      exact hr ch hc
    · simp only [State.chan, key, hq, if_false] at hc ⊢
      exact ⟨hc, trivial, trivial⟩
  case sec =>
    intro q
    rw [key]
    split
    · rename_i hq; subst hq; rw [h9]
    · rfl
  all_goals
    intro q
    rw [key]
    split
    · rename_i hq; subst hq; assumption
    · rfl

/-- A write inside an open channel's completion ring. -/
theorem Reports.of_wr (p : Part) (ch a : Nat) (b : Bytes) (s : State) (ho : (s.chan p ch).isOpen = true)
    (h1 : (s.chan p ch).cplBase ≤ a) (h2 : a + b.length ≤ (s.chan p ch).cplBase + 64 + 64 * (s.chan p ch).cplSize) :
    Reports s (s.wr p a b) := by
  have hreg : ∀ q o, (s.wr p a b).reg q o = s.reg q o := by intro q o; simp [State.reg]
  constructor
  case spn => simp
  case crl => simp
  case pending => simp
  case free => simp
  case regs => intros; exact hreg _ _
  case fwBits => intros; rw [hreg]
  case secBits => intros; rw [hreg]
  case mem =>
    intro q x hx
    apply State.byte_wr_out
    intro hq
    subst hq
    have := hx ch
    simp only [State.inRing, ho, true_and, not_and, Nat.not_lt] at this
    omega
  case rings =>
    intro q ch hc
    simp only [State.chan, wr_core_chans] at hc ⊢
    exact ⟨hc, trivial, trivial⟩
  all_goals
    intro q
    simp

/-- Which register bits reporting sets. -/
def reportBit (p : Part) (off bit : Nat) : Prop :=
  (off = fwEvents p ∧ (bit = 3 ∨ bit = 4)) ∨ (off = secEvents p ∧ bit = 2) ∨ ∃ ch, off = ringIrqOff p ch

theorem fwEvents_ne_secEvents (p : Part) : fwEvents p ≠ secEvents p := by cases p <;> decide
theorem ringIrqOff_ne (p : Part) (ch : Nat) : ringIrqOff p ch ≠ fwEvents p ∧ ringIrqOff p ch ≠ secEvents p := by
  cases p
  · constructor <;> simp [ringIrqOff, fwEvents, secEvents]
  · constructor <;> simp only [ringIrqOff, fwEvents, secEvents] <;> omega

/-- The note of a bit set at this TICK (R8) is reporting. -/
theorem Reports.of_noteEv (p : Part) (off mask : Nat) (s : State) : Reports s (s.noteEv p off mask) :=
  Reports.of_modCore p _ s rfl (fun _ hc => ⟨hc, rfl, rfl⟩)

theorem noteEv_reg (p q : Part) (off mask o : Nat) (s : State) : (s.noteEv p off mask).reg q o = s.reg q o := by
  cases p <;> cases q <;> rfl

theorem Reports.of_setEv {p : Part} {off bit : Nat} {s : State} (h : reportBit p off bit) : Reports s (s.setEv p off bit) := by
  refine Reports.trans ?_ (Reports.of_noteEv p off (2 ^ bit) _)
  generalize hu : s.setReg p off (s.reg p off ||| 2 ^ bit) = u
  have hne : ∀ q o, ¬(q = p ∧ o = off) → u.reg q o = s.reg q o := fun q o hq => hu ▸ setReg_reg_ne _ _ hq
  have hlt : s.reg p off < 2 ^ 32 := by simp only [State.reg]; exact BitVec.isLt _
  have hbit : ∀ i, i ≠ bit → (u.reg p off).testBit i = (s.reg p off).testBit i := by
    intro i hi
    simp only [← hu, setReg_reg_same, Nat.testBit_mod_two_pow, Nat.testBit_or, Nat.testBit_two_pow]
    by_cases h32 : i < 32
    · simp [h32, Ne.symm hi]
    · have : (s.reg p off).testBit i = false := Nat.testBit_lt_two_pow (Nat.lt_of_lt_of_le hlt (Nat.pow_le_pow_right (by decide) (by omega)))
      simp [h32, this]
  constructor
  case regs =>
    intro q o h1 h2 h3
    apply hne
    rintro ⟨rfl, rfl⟩
    rcases h with ⟨h, -⟩ | ⟨h, -⟩ | ⟨ch, h⟩
    · exact h1 h
    · exact h2 h
    · exact h3 ch h
  case fwBits =>
    intro q i h3 h4
    by_cases hq : q = p ∧ fwEvents q = off
    · obtain ⟨rfl, rfl⟩ := hq
      apply hbit
      rcases h with ⟨-, h⟩ | ⟨h, -⟩ | ⟨ch, h⟩
      · omega
      · exact absurd h (fwEvents_ne_secEvents q)
      · exact absurd h.symm (ringIrqOff_ne q ch).1
    · rw [hne _ _ hq]
  case secBits =>
    intro q i h2
    by_cases hq : q = p ∧ secEvents q = off
    · obtain ⟨rfl, rfl⟩ := hq
      apply hbit
      rcases h with ⟨h, -⟩ | ⟨-, h⟩ | ⟨ch, h⟩
      · exact absurd h.symm (fwEvents_ne_secEvents q)
      · omega
      · exact absurd h.symm (ringIrqOff_ne q ch).2
    · rw [hne _ _ hq]
  case mem =>
    intro q x _
    subst hu
    cases p <;> cases q <;> rfl
  case rings =>
    intro q ch hc
    simp only [State.chan, ← hu, setReg_core_chans] at hc ⊢
    exact ⟨hc, trivial, trivial⟩
  all_goals intros; simp [← hu]

/-- A change of a channel that leaves its geometry. -/
theorem Reports.of_modChan (p : Part) (ch : Nat) (f : Chan → Chan) (s : State)
    (h : (f (s.chan p ch)).isOpen = true → (s.chan p ch).isOpen = true ∧ (f (s.chan p ch)).cplBase = (s.chan p ch).cplBase ∧
      (f (s.chan p ch)).cplSize = (s.chan p ch).cplSize) : Reports s (s.modChan p ch f) := by
  apply Reports.of_modCore
  · rfl
  · intro c hc
    by_cases hch : c = ch
    · subst hch
      simp only [tget_tmod_same] at hc ⊢
      exact h hc
    · simp only [tget_tmod_ne _ _ _ _ hch] at hc ⊢
      exact ⟨hc, rfl, rfl⟩

/-! ## Lengths of byte strings -/

@[simp] theorem le_length (n v : Nat) : (le n v).length = n := by
  induction n generalizing v with
  | zero => rfl
  | succ n ih => simp [le, ih]

@[simp] theorem padTo_length (n : Nat) (b : Bytes) : (padTo n b).length = n := by
  simp only [padTo, List.length_take, List.length_append, List.length_replicate]
  omega

@[simp] theorem lay_nil : lay [] = [] := rfl
@[simp] theorem lay_length_cons (n v : Nat) (l : List (Nat × Nat)) : (lay ((n, v) :: l)).length = n + (lay l).length := by
  simp [lay]

/-! ## Records and completions -/

/-- A record that a ring has room for lands in it. -/
theorem Reports.of_ringWrite (p : Part) (ch : Nat) (r : Bytes) (irq : Bool) (s : State) (ho : (s.chan p ch).isOpen = true)
    (hl : r.length % 64 = 0) (hroom : (s.chan p ch).room p (r.length / 64) s = true) : Reports s (ringWrite p ch r irq s) := by
  simp only [Chan.room, Chan.need] at hroom
  replace hroom := of_decide_eq_true hroom
  generalize hc : s.chan p ch = c at *
  have hat : c.cplSize ≠ 0 → c.cplWrite % c.cplSize < c.cplSize := fun h => Nat.mod_lt _ (Nat.pos_of_ne_zero h)
  have keep : ∀ a b, c.cplBase ≤ a → a + b.length ≤ c.cplBase + 64 + 64 * c.cplSize → ∀ u, u.chan p ch = c →
      Reports u (u.wr p a b) := by
    intro a b h1 h2 u hu
    exact Reports.of_wr p ch a b u (by rw [hu]; exact ho) (by rw [hu]; exact h1) (by rw [hu]; exact h2)
  have hwc : ∀ a b (u : State), (u.wr p a b).chan p ch = u.chan p ch := by intros; simp [State.chan]
  simp only [ringWrite, hc]
  generalize hw : (if r.length / 64 ≤ c.cplSize - c.cplWrite % c.cplSize then s.wr p (c.cplBase + 64 + 64 * (c.cplWrite % c.cplSize)) r
    else (s.wr p (c.cplBase + 64 + 64 * (c.cplWrite % c.cplSize)) (padTo 64 (lay [(4, 0), (4, c.cplSize - c.cplWrite % c.cplSize)]))).wr p
      (c.cplBase + 64) r) = u
  have hu : Reports s u ∧ u.chan p ch = c := by
    subst hw
    split at hroom
    · rename_i hle
      rw [if_pos hle]
      by_cases hn : r = []
      · subst hn
        rw [wr_nil]
        exact ⟨Reports.refl s, hc⟩
      have hpos : 0 < r.length := List.length_pos_iff.mpr hn
      refine ⟨keep _ _ (by omega) ?_ s hc, by rw [hwc, hc]⟩
      have := hat (by rintro h0; rw [h0] at hroom hle; omega)
      omega
    · rename_i hle
      rw [if_neg hle]
      have h0 : c.cplSize ≠ 0 := by intro h0; rw [h0] at hroom hle; omega
      have := hat h0
      refine ⟨(keep _ _ (by omega) ?_ s hc).trans (keep _ _ (by omega) ?_ _ (by rw [hwc, hc])), by rw [hwc, hwc, hc]⟩
      · rw [padTo_length]; omega
      · omega
  obtain ⟨hr, hcu⟩ := hu
  have h2 : Reports u (u.wr p c.cplBase (le 4 ((c.cplWrite + c.need (r.length / 64)) % 2 ^ 32))) :=
    keep _ _ (Nat.le_refl _) (by simp; omega) u hcu
  refine hr.trans (h2.trans ?_)
  generalize hv : u.wr p c.cplBase _ = v
  have hcv : v.chan p ch = c := by rw [← hv, hwc, hcu]
  have h3 := Reports.of_modChan p ch (fun c' => { c' with cplWrite := (c.cplWrite + c.need (r.length / 64)) % 2 ^ 32 }) v
    (fun h => ⟨h, rfl, rfl⟩)
  split
  · exact h3.trans (Reports.of_setEv (.inr (.inr ⟨ch, rfl⟩)))
  · exact h3

theorem Reports.of_storeRec (p : Part) (ch : Nat) (r : Bytes) (irq : Bool) (s : State) : Reports s (storeRec p ch r irq s) := by
  apply Reports.of_modChan
  have hk : ∀ (n : Nat) (c : Chan), (c.noRoom n).isOpen = c.isOpen ∧ (c.noRoom n).cplBase = c.cplBase ∧ (c.noRoom n).cplSize = c.cplSize := by
    intro n c
    simp only [Chan.noRoom]
    split <;> exact ⟨rfl, rfl, rfl⟩
  intro h
  dsimp only at h ⊢
  split at h <;> rename_i hs <;> simp only [hs, if_true, if_false, (hk _ _).1, (hk _ _).2.1, (hk _ _).2.2] at h ⊢ <;>
    exact ⟨h, trivial, trivial⟩

theorem Reports.of_putRec (p : Part) (ch : Nat) (r : Bytes) (irq : Bool) (s : State) (hl : r.length % 64 = 0) :
    Reports s (putRec p ch r irq s).1 := by
  simp only [putRec]
  split
  · rename_i h
    simp only [Bool.and_eq_true] at h
    exact Reports.of_ringWrite p ch r irq s h.1.1 hl h.2
  · exact Reports.of_storeRec p ch r irq s

theorem Reports.of_setErr (p : Part) (code : Nat) (e : ErrSlot) (n : Nat) (s : State) : Reports s (setErr p code e n s) :=
  Reports.of_modCore _ _ _ rfl (fun _ hc => ⟨hc, rfl, rfl⟩)

theorem Reports.of_errorRec (p : Part) (code part : Nat) (d : Bytes) (s : State) : Reports s (errorRec p code part d s).1 := by
  simp only [errorRec]
  generalize (if (tget ({} : ErrSlot) (s.core p).errs code).count = 0 then
    { last := (tget ({} : ErrSlot) (s.core p).errs code).last, count := (tget ({} : ErrSlot) (s.core p).errs code).count,
      first := (s.stampOf p part).1, dtcv := (s.stampOf p part).2 } else tget {} (s.core p).errs code : ErrSlot) = e
  split
  · exact (Reports.of_setErr ..).trans (Reports.of_putRec p 0 _ true _ (by simp))
  · exact Reports.of_setErr ..

theorem Reports.of_ringFull (p : Part) (ch : Nat) (s : State) : Reports s (ringFull p ch s) := by
  have h := (Reports.of_setEv (s := s) (p := p) (.inl ⟨rfl, .inl rfl⟩)).trans (Reports.of_errorRec p 0x1B03 0 (le 8 ch) _)
  simp only [ringFull]
  split
  · exact h.trans (Reports.of_errorRec ..)
  · exact h

/-- Raising an error is reporting (R535). -/
theorem Reports.of_raise (p : Part) (code part : Nat) (d : List Nat) (s : State) : Reports s (s.raise p code part d) := by
  have h := Reports.of_errorRec p code part (d.flatMap (le (if d.length ≤ 4 then 8 else 4))) s
  simp only [State.raise]
  generalize errorRec p code part _ s = r at h
  split
  · exact h.trans (Reports.of_ringFull ..)
  · exact h

theorem Reports.of_postOn (p : Part) (ch : Nat) (r : Bytes) (irq : Bool) (s : State) : Reports s (postOn p ch r irq s) := by
  simp only [postOn]
  split
  · exact (Reports.of_setEv (.inl ⟨rfl, .inr rfl⟩)).trans (Reports.of_raise ..)
  · have h := Reports.of_putRec p ch (padTo (64 * ceilDiv r.length 64) r) irq s (by simp)
    split
    · exact h.trans (Reports.of_ringFull ..)
    · exact h

theorem Reports.of_post (p : Part) (ch : Nat) (r : Bytes) (s : State) : Reports s (s.post p ch r) := Reports.of_postOn ..

theorem Reports.of_putCompletion (p : Part) (q : Req) (e : Bytes) (s : State) : Reports s (putCompletion p q e s) := by
  simp only [putCompletion]
  split
  · exact Reports.of_postOn ..
  · refine Reports.trans ?_ (Reports.of_noteEv ..)
    exact Reports.of_modCore _ _ _ rfl (fun ch hc => ⟨hc, rfl, rfl⟩)

/-- A completion is reporting. -/
theorem Reports.of_complete (p : Part) (q : Req) (code core status detail : Nat) (result : Bytes) (s : State) :
    Reports s (complete p q code core status detail result s) := by
  have h0 : Reports s (acceptTick p core s).2 :=
    Reports.of_modCore p (fun c => { c with lastTick := tset 0 c.lastTick core (max (s.tick p) (tget 0 (s.core p).lastTick core) + 1) }) s rfl
      (fun ch hc => ⟨hc, rfl, rfl⟩)
  unfold complete
  cases (s.inflightOf p q).filter (·.taken)
  · refine h0.trans ?_
    dsimp only
    generalize (acceptTick p core s).2 = s
    exact rest _ s
  · exact rest _ s
where
  /-- What follows on the choice of the acceptance TICK. -/
  rest {p : Part} {q : Req} {code status : Nat} (e : Bytes) (s : State) :
      let u := s.modCore p (fun c => { c with inflight := c.inflight.filter (fun j => !(j.via = q.via && j.seq = q.seq)) })
      Reports s (putCompletion p q e (match q.via with
        | .ring ch =>
          if committedStatus status then u.modChan p ch (fun c => { c with recent := (c.recent ++ [(q.key, code, e)]).drop (c.recent.length + 1 - 1024) })
          else u
        | .mbox _ => u)) := by
    have h := Reports.of_modCore p (fun c => { c with inflight := c.inflight.filter (fun j => !(j.via = q.via && j.seq = q.seq)) }) s rfl
      (fun ch hc => ⟨hc, rfl, rfl⟩)
    refine (h.trans ?_).trans (Reports.of_putCompletion p q e _)
    split
    · split
      · exact Reports.of_modChan _ _ _ _ (fun h => ⟨h, rfl, rfl⟩)
      · exact Reports.refl _
    · exact Reports.refl _

theorem Reports.of_closeChan (p : Part) (ch : Nat) (s : State) : Reports s (closeChan p ch s) :=
  Reports.of_modChan _ _ _ _ (fun h => by simp at h)

theorem Reports.of_flushWaiting (p : Part) (n : Nat) (s : State) : Reports s (flushWaiting p n s) := by
  induction n generalizing s with
  | zero => exact Reports.refl s
  | succ n ih =>
    simp only [flushWaiting]
    split
    · exact Reports.refl s
    · rename_i w _
      refine Reports.trans ?_ (ih _)
      have h := Reports.of_modCore p (fun c => { c with waiting := c.waiting.filter (fun v => !(v.q.via = w.q.via && v.q.seq = w.q.seq)) })
        s rfl (fun _ hc => ⟨hc, rfl, rfl⟩)
      refine (h.trans (Reports.of_complete p w.q w.code w.core 0 0 [] _)).trans ?_
      split
      · exact Reports.of_closeChan ..
      · exact Reports.refl _

theorem Reports.of_flushClosing (p : Part) (s : State) : Reports s (flushClosing p s) := by
  simp only [flushClosing]
  split
  · exact Reports.of_closeChan ..
  · exact Reports.refl s

theorem Reports.of_flushAll (s : State) : Reports s (flushAll s) :=
  (((Reports.of_flushWaiting ..).trans (Reports.of_flushClosing ..)).trans (Reports.of_flushWaiting ..)).trans (Reports.of_flushClosing ..)

/-! ## The end of a step -/

/-- A change of a part's security state that only notes its power. -/
theorem Reports.of_sec (p : Part) (f : PartCore → Sec) (s : State)
    (h : { f (s.core p) with power := (s.core p).sec.power, gateTick := (s.core p).sec.gateTick } = (s.core p).sec) :
    Reports s (s.modCore p (fun c => { c with sec := f c })) := by
  have key : ∀ q, (s.modCore p (fun c => { c with sec := f c })).core q =
      if q = p then { s.core q with sec := f (s.core q) } else s.core q := fun q => modCore_core p q _ s
  constructor
  case spn => simp
  case crl => simp
  case pending => simp
  case free => simp
  case sec =>
    intro q
    rw [key]
    split
    · rename_i hq; subst hq; exact h
    · rfl
  case regs => intro q o _ _ _; simp only [State.reg, key]; split <;> rfl
  case fwBits => intro q i _ _; simp only [State.reg, key]; split <;> rfl
  case secBits => intro q i _; simp only [State.reg, key]; split <;> rfl
  case mem => intro q x _; cases p <;> cases q <;> rfl
  case rings =>
    intro q ch hc
    simp only [State.chan, key] at hc ⊢
    split at hc <;> rename_i hq
    · simp only [hq, if_true] at hc ⊢; exact ⟨hc, trivial, trivial⟩
    · simp only [hq, if_false] at hc ⊢; exact ⟨hc, trivial, trivial⟩
  all_goals
    intro q
    rw [key]
    split <;> rfl

theorem Reports.of_setPower (p : Part) (v : Nat) (s : State) : Reports s (setPower p v s) := by
  simp only [setPower]
  split
  · exact Reports.refl s
  · exact (Reports.of_sec p (fun c => { c.sec with power := v }) s rfl).trans (Reports.of_setEv (.inr (.inl ⟨rfl, rfl⟩)))

/-- The parts of a state that a note of power or an interrupt message leaves alone, beside what `Reports` names. -/
def sameRecords (a t : State) : Prop :=
  ∀ p, (t.core p).inflight = (a.core p).inflight ∧ (t.core p).waiting = (a.core p).waiting ∧ (t.core p).chans = (a.core p).chans ∧
    (t.core p).mbox = (a.core p).mbox ∧ (t.core p).errs = (a.core p).errs ∧ (t.core p).errSeq = (a.core p).errSeq ∧
    (t.core p).lastTick = (a.core p).lastTick ∧ (t.core p).mem = (a.core p).mem ∧ (t.core p).hostMem = (a.core p).hostMem

theorem sameRecords.refl (s : State) : sameRecords s s := fun _ => ⟨rfl, rfl, rfl, rfl, rfl, rfl, rfl, rfl, rfl⟩
theorem sameRecords.trans {a b c : State} (h : sameRecords a b) (k : sameRecords b c) : sameRecords a c := by
  intro p
  obtain ⟨h1, h2, h3, h4, h5, h6, h7, h8, h9⟩ := h p
  obtain ⟨k1, k2, k3, k4, k5, k6, k7, k8, k9⟩ := k p
  exact ⟨k1.trans h1, k2.trans h2, k3.trans h3, k4.trans h4, k5.trans h5, k6.trans h6, k7.trans h7, k8.trans h8, k9.trans h9⟩

theorem Reports.of_notePower (p : Part) (s : State) : Reports s (notePower p s) ∧ sameRecords s (notePower p s) := by
  simp only [notePower]
  generalize hu : s.modCore p _ = u
  have h1 : Reports s u ∧ sameRecords s u := by
    subst hu
    exact ⟨Reports.of_sec p _ s rfl, by intro q; cases p <;> cases q <;> exact ⟨rfl, rfl, rfl, rfl, rfl, rfl, rfl, rfl, rfl⟩⟩
  split
  · refine ⟨h1.1.trans (Reports.of_setPower ..), h1.2.trans ?_⟩
    simp only [setPower]
    split
    · exact sameRecords.refl u
    · intro q; cases p <;> cases q <;> exact ⟨rfl, rfl, rfl, rfl, rfl, rfl, rfl, rfl, rfl⟩
  · exact h1

theorem settle_eq (s a : State) : ∃ m n, settle s a = { a with pending := s.pending, crl.msix := m, crl.msixPend := n } :=
  ⟨_, _, rfl⟩

theorem Reports.of_settle (s a : State) (hp : a.pending = s.pending) : Reports a (settle s a) ∧ sameRecords a (settle s a) := by
  obtain ⟨m, n, h⟩ := settle_eq s a
  rw [h, ← hp]
  refine ⟨?_, by intro q; cases q <;> exact ⟨rfl, rfl, rfl, rfl, rfl, rfl, rfl, rfl, rfl⟩⟩
  constructor <;> intros <;> first | rfl | (rename_i q _; cases q <;> rfl) | skip
  all_goals rename_i q _ _; cases q <;> first | rfl | exact ⟨‹_›, rfl, rfl⟩

theorem flushAll_noWaits (s : State) (h : s.noWaits) : flushAll s = s := by
  have h1 := h.1
  have h2 := h.2
  simp only [core_spn, core_crl] at h1 h2
  simp [flushAll, flushWaiting, flushClosing, h1, h2]

/-- Every command ends in a next state that follows from what its effect left. -/
theorem done_follows (s a : State) (hp : a.pending = s.pending) : ∃ t, done s a = .next t ∧ Follows a t := by
  refine ⟨_, rfl, ?_⟩
  have h1 := Reports.of_flushAll a
  have h2 := Reports.of_notePower .spn (flushAll a)
  have h3 := Reports.of_notePower .crl (notePower .spn (flushAll a))
  have h4 := Reports.of_settle s (notePower .crl (notePower .spn (flushAll a)))
    ((h3.1.pending.trans (h2.1.pending.trans h1.pending)).trans hp)
  have hr := h1.trans (h2.1.trans (h3.1.trans h4.1))
  have hs := h2.2.trans (h3.2.trans h4.2)
  have hn : a.noWaits → sameRecords a (settle s (notePower .crl (notePower .spn (flushAll a)))) := by
    intro hw
    rw [flushAll_noWaits a hw] at hs ⊢
    exact hs
  exact
    { toReports := hr
      inflight := fun hw p => (hn hw p).1
      waiting := fun hw p => (hn hw p).2.1
      chans := fun hw p => (hn hw p).2.2.1
      mbox := fun hw p => (hn hw p).2.2.2.1
      errs := fun hw p => (hn hw p).2.2.2.2.1
      errSeq := fun hw p => (hn hw p).2.2.2.2.2.1
      lastTick := fun hw p => (hn hw p).2.2.2.2.2.2.1
      memAll := by
        intro hw p x
        have h := hn hw p
        cases p
        · simp only [State.byte]; rw [← core_spn, h.2.2.2.2.2.2.2.1]; rfl
        · simp only [State.byte]; rw [← core_crl, h.2.2.2.2.2.2.2.1, h.2.2.2.2.2.2.2.2]; rfl }

theorem run_follows (ok : Bool) (f : State → State) (s : State) (hok : ok = true) (hp : (f s).pending = s.pending) :
    ∃ t, run ok f s = .next t ∧ Follows (f s) t := by
  subst hok
  exact done_follows s (f s) hp

/-- A command changes no waiting command, whatever its effect. -/
theorem done_pending (s a : State) : ∃ t, done s a = .next t ∧ t.pending = s.pending := ⟨_, rfl, rfl⟩

/-! ## Frames -/

theorem Kept.same (r : Part) (s : State) : Kept r s s := by constructor <;> intros <;> rfl

/-- Reporting keeps what is kept. -/
theorem Reports.kept {r : Part} {s a t : State} (h : Reports a t) (k : Kept r s a) (hr : ∀ ch x, a.inRing r ch x → s.inRing r ch x) : Kept r s t where
  spn e := h.spn.trans (k.spn e)
  crl e := by
    have h1 := h.crl
    have h2 := k.crl e
    rw [← h2, ← h1]
  time := (h.time r).trans k.time
  ports := (h.ports r).trans k.ports
  jobs := (h.jobs r).trans k.jobs
  dma := (h.dma r).trans k.dma
  cores := (h.cores r).trans k.cores
  fw := (h.fw r).trans k.fw
  topo := (h.topo r).trans k.topo
  tap := (h.tap r).trans k.tap
  bus := (h.bus r).trans k.bus
  held := (h.held r).trans k.held
  sec := by
    have h1 := h.sec r
    have h2 := k.sec
    rw [← h2, ← h1]
  regs off h1 h2 h3 := (h.regs r off h1 h2 h3).trans (k.regs off h1 h2 h3)
  mem x hx := (h.mem r x fun ch hi => hx ch (hr ch x hi)).trans (k.mem x hx)

/-- Reporting keeps what a command has left alone elsewhere. -/
theorem Reports.elsewhere {p : Part} {s a t : State} (h : Reports a t) (k : Elsewhere p s a) (hr : ∀ r ch x, a.inRing r ch x → s.inRing r ch x) :
    Elsewhere p s t where
  other r hne := h.kept (k.other r hne) (hr r)
  mem r x hx := (h.mem r x fun ch hi => hx ch (hr r ch x hi)).trans (k.mem r x hx)

end Sys2Proof.Machine
end

