-- ==== Sys2Proof/Laws/Commands.lean ====
section
/-! SUPPORT. What every command does at a step's end, and what a host command does on each judgement. -/

namespace Sys2Proof.Machine

/-- A command that leaves `a` answers a next state that follows from `a`. -/
theorem completes {s a : State} {P : State → Prop} (hp : a.pending = s.pending) (h : ∀ t, Follows a t → P t) :
    ∃ t, done s a = .next t ∧ P t := by
  obtain ⟨t, h1, h2⟩ := done_follows s a hp
  exact ⟨t, h1, h t h2⟩

theorem run_of {ok : Bool} {f : State → State} {s : State} (h : ok = true) : run ok f s = done s (f s) := by subst h; rfl

/-- A command gives what its effect leaves. -/
theorem gives_of {c : Instr} {s a : State} {ok : Bool} {f : State → State} (e : exec c s = run ok f s) (h : ok = true)
    (ha : f s = a) (hp : a.pending = s.pending) : gives c s a := by
  rw [gives, e, run_of h, ha]
  exact done_follows s a hp

theorem reg_lt (p : Part) (off : Nat) (s : State) : s.reg p off < 2 ^ 32 := by
  simp only [State.reg]
  exact BitVec.isLt _

theorem plainWrite_rw {p : Part} {o : Nat} (h : regDef p o = rwAll) (v : Nat) (s : State) :
    plainWrite p o v s = s.setReg p o (v % 2 ^ 32) := by
  have h0 : ∀ x : Nat, x &&& 0xFFFF_FFFF = x % 2 ^ 32 := fun x => Nat.and_two_pow_sub_one_eq_mod x 32
  have h1 : s.reg p o &&& 0xFFFF_FFFF = s.reg p o := by rw [h0, Nat.mod_eq_of_lt (reg_lt p o s)]
  have h2 : s.reg p o - (s.reg p o &&& 0xFFFF_FFFF) = 0 := by rw [h1, Nat.sub_self]
  have h3 : ((rwAll.rw = 0) && (rwAll.w1c = 0)) = false := by decide
  show (if (regDef p o).rw = 0 && (regDef p o).w1c = 0 then s else _) = _
  rw [h, h3]
  show s.setReg p o ((s.reg p o - (s.reg p o &&& 0xFFFF_FFFF) - ((s.reg p o - (s.reg p o &&& 0xFFFF_FFFF)) &&& 0 &&&
    State.clearing p o v s)) ||| (v &&& 0xFFFF_FFFF)) = _
  rw [h2, Nat.zero_sub, Nat.zero_or, h0]

/-! ## Host commands -/

/-- Every host command runs as its judgement says. -/
theorem exec_judged {c : Instr} {j : Judged} (h : judged c = some j) (s : State) :
    exec c s = run (j.q.wf j.p) (runCmd j.p j.q j.code j.core j.pl j.judge) s := by
  cases c <;> simp only [judged, Option.some.injEq, reduceCtorEq] at h <;> subst h <;> rfl

@[simp] theorem takeCmd_pending (p : Part) (q : Req) (code core : Nat) (pl : Bytes) (s : State) :
    (takeCmd p q code core pl s).pending = s.pending := (modCore_pending ..).trans (modCore_pending ..)
@[simp] theorem takeCmd_spn (p : Part) (q : Req) (code core : Nat) (pl : Bytes) (s : State) :
    (takeCmd p q code core pl s).spn = s.spn := (modCore_spn ..).trans (modCore_spn ..)
@[simp] theorem takeCmd_crl (p : Part) (q : Req) (code core : Nat) (pl : Bytes) (s : State) :
    (takeCmd p q code core pl s).crl = s.crl := (modCore_crl ..).trans (modCore_crl ..)
@[simp] theorem takeCmd_fwCore (p r : Part) (q : Req) (code core n : Nat) (pl : Bytes) (s : State) :
    (takeCmd p q code core pl s).fwCore r n = s.fwCore r n := by cases p <;> cases r <;> rfl

/-- A command that its core accepts has its effect on the state in which the core took it, and completes as the effect says. -/
theorem exec_accepted {c : Instr} {j : Judged} {s : State} {f : State → Effect} (hj : judged c = some j) (hu : j.up s = true)
    (hv : j.verdict s = .ok f) :
    exec c s = done s (match (f (j.taken s)).2 with
      | none => (f (j.taken s)).1
      | some (st, det, res) => complete j.p j.q j.code j.core st det res (f (j.taken s)).1) := by
  simp only [Judged.up, Bool.and_eq_true, Bool.not_eq_true'] at hu
  rw [exec_judged hj, run_of hu.1]
  have hd : coreDown j.p j.core (j.taken s) = false := by
    rw [← hu.2]
    simp [coreDown, Judged.taken]
  simp only [Judged.verdict, Judged.taken, Judged.body] at hv hd ⊢
  simp only [runCmd, hd, hv]
  rfl

theorem exec_refused {c : Instr} {j : Judged} {s : State} {r : Refuse} (hj : judged c = some j) (hu : j.up s = true)
    (hv : j.verdict s = .error r) :
    exec c s = done s (complete j.p j.q j.code j.core r.1 r.2 [] (j.taken s)) := by
  simp only [Judged.up, Bool.and_eq_true, Bool.not_eq_true'] at hu
  rw [exec_judged hj, run_of hu.1]
  have hd : coreDown j.p j.core (j.taken s) = false := by
    rw [← hu.2]
    simp [coreDown, Judged.taken]
  simp only [Judged.verdict, Judged.taken, Judged.body] at hv hd ⊢
  simp only [runCmd, hd, hv]
  rfl

/-- What a judgement in time accepts, the judgement accepts. -/
theorem inTime_ok {p : Part} {q : Req} {code : Nat} {s : State} {v : Except Refuse (State → Effect)} {f : State → Effect}
    (h : inTime p q code s v = .ok f) : v = .ok f := by
  cases v with
  | error r => cases h
  | ok g =>
    simp only [inTime] at h
    split at h
    · exact h
    · cases h

/-- What acceptance gives: the command's judgement and its effect. -/
theorem accepts_iff {c : Instr} {j : Judged} {s : State} (hj : judged c = some j) :
    accepts c s = true ↔ j.up s = true ∧ ∃ f, j.verdict s = .ok f := by
  simp only [accepts, hj, Bool.and_eq_true]
  constructor
  · rintro ⟨h1, h2⟩
    refine ⟨h1, ?_⟩
    cases h : j.verdict s with
    | ok f => exact ⟨f, rfl⟩
    | error r => rw [h] at h2; cases h2
  · rintro ⟨h1, f, h2⟩
    exact ⟨h1, by rw [h2]; rfl⟩

/-- What a judgement with a field check accepts, it accepts after the check. -/
theorem checkPl_ok {r : List (Nat × Nat)} {l : List (Nat × Bool)} {pl : Bytes} {k : Unit → Except Refuse (State → Effect)} {f : State → Effect}
    (h : (checkPl r l pl >>= k) = .ok f) : checkPl r l pl = .ok () ∧ k () = .ok f := by
  cases e : checkPl r l pl with
  | error x => rw [e] at h; cases h
  | ok u => rw [e] at h; exact ⟨rfl, h⟩

/-- What a judgement with a guard accepts meets the guard. -/
theorem guardE_ok {b : Bool} {e : Refuse} {k : Unit → Except Refuse (State → Effect)} {f : State → Effect}
    (h : (guardE b e >>= k) = .ok f) : b = true ∧ k () = .ok f := by
  cases b with
  | false => cases h
  | true => exact ⟨rfl, h⟩

/-- An accepted command answers what its judgement says of the state in which it was taken. -/
theorem answersOk_of {c : Instr} {j : Judged} {s : State} {res : Bytes} {g : State → State} (hj : judged c = some j)
    (ha : accepts c s = true) (h : ∀ f, j.verdict s = .ok f → f (j.taken s) = okWith (g (j.taken s)) res)
    (hp : (g (j.taken s)).pending = s.pending) : answersOk c s res g := by
  obtain ⟨hu, f, hv⟩ := (accepts_iff hj).1 ha
  simp only [answersOk, hj, gives]
  rw [exec_accepted hj hu hv, h f hv]
  exact done_follows s _ ((Reports.of_complete ..).pending.trans hp)

theorem answersLater_of {c : Instr} {j : Judged} {s : State} {g : State → State} (hj : judged c = some j)
    (ha : accepts c s = true) (h : ∀ f, j.verdict s = .ok f → f (j.taken s) = later (g (j.taken s)))
    (hp : (g (j.taken s)).pending = s.pending) : answersLater c s g := by
  obtain ⟨hu, f, hv⟩ := (accepts_iff hj).1 ha
  simp only [answersLater, takenBy, hj, gives]
  rw [exec_accepted hj hu hv, h f hv]
  exact done_follows s _ hp

/-- An accepted command answers a state that differs from its effect by reporting. -/
theorem accepted_reports {c : Instr} {j : Judged} {s a : State} (hj : judged c = some j) (ha : accepts c s = true)
    (h : ∀ f, j.verdict s = .ok f → (f (j.taken s)).1 = a) (hp : a.pending = s.pending) :
    ∃ t, exec c s = .next t ∧ Reports a t := by
  obtain ⟨hu, f, hv⟩ := (accepts_iff hj).1 ha
  rw [exec_accepted hj hu hv, h f hv]
  cases (f (j.taken s)).2 with
  | none => obtain ⟨t, h1, h2⟩ := done_follows s a hp; exact ⟨t, h1, h2.toReports⟩
  | some x =>
    obtain ⟨t, h1, h2⟩ := done_follows s (complete j.p j.q j.code j.core x.1 x.2.1 x.2.2 a)
      (by rw [(Reports.of_complete _ _ _ _ _ _ _ _).pending]; exact hp)
    exact ⟨t, h1, (Reports.of_complete ..).trans h2.toReports⟩

end Sys2Proof.Machine
end

