-- ==== Sys2Proof/Tests/Slice0.lean ====
section
/-! SUPPORT. Tests: what WellFormed refuses, small steps, and for every statement's clause with hypotheses a state and operands that meet
them. -/

namespace Sys2Proof.Tests
open Sys2Proof Sys2Proof.Machine

set_option maxRecDepth 10000
set_option Elab.async false


/-- What holds of the value an option has, where it has one. -/
theorem allSome {α : Type} {o : Option α} {P : α → Prop} (h : ∀ x ∈ o.toList, P x) : ∀ x, o = some x → P x := fun x e => h x (by simp [e])
/-- A computation that fails, and with what. -/
theorem errorOf {ε α : Type} [DecidableEq ε] {o : Except ε α} {x : ε} (h : (match o with | .error e => decide (e = x) | .ok _ => false) = true) :
    o = .error x := by
  cases o with
  | error e => simpa using h
  | ok a => simp at h

/-- The machine at reset. -/
def z : State := State.reset
def q0 : Req := ⟨.ring 1, 5, 9, false, false, false⟩
/-- The machine at reset but for one port. -/
def zPort (p : Part) (n : Nat) (q : Port) : State := z.modPort p n (fun _ => q)
/-- A channel with rings of 8 slots. -/
def ch8 : Chan := { isOpen := true, cmdBase := 0x1000, cmdSize := 8, cplBase := 0x2000, cplSize := 8 }
/-- The machine at reset with such a channel 1 at a part, its command ring holding the entry `e`. -/
def zRing (p : Part) (e : Bytes) : State := (z.wr p 0x1040 e).modChan p 1 (fun _ => { ch8 with cmdWrite := 1 })
/-- A command entry: code, flags, sequence number, key, inline payload. -/
def entry (code flags : Nat) (pl : Bytes) : Bytes := padTo 64 (lay [(2, code), (1, flags), (1, 0), (4, 0), (8, 7)] ++ pl)
/-- A class B command in progress. -/
def jobB (code total : Nat) : BJob := { q := ⟨.ring 1, 5, 9, false, false, false⟩, code := code, core := 2, args := [], total := total }
/-- 64 bytes of an attestation that says UNTRUSTED. -/
def untrusted64 : Bytes := padTo 64 (List.replicate 9 0 ++ [1])
/-- A lead time root of plane A. -/
def zLead : State := { z with cc.topo.hasRoot := true, cc.topo.hea := 0x55, cc.topo.timeRootA := 0x55 }
/-- The time root of plane B, which follows plane A. -/
def zFollow : State := { z with cc.topo.hasRoot := true, cc.topo.hea := 0x66, cc.topo.timeRootB := 0x66, cc.topo.timeRootA := 0x55, cc.topo.plane := .b, cc.topo.rows := 3 }
/-- A TREQ or TRESP. -/
def msg (n : Nat) : TimeMsg := { n := n, t2 := some 3000, t3 := some 2000, root := 0x55, s := 2, tq := 0x10, lead := true, rootLost := false, stepNo := 0, heartbeat := 4, asym := 0, secHi := 0 }
def qw : Qword := ⟨1, 2, 3, 4, 5, 6, 7, 0, 9, 10⟩
/-- The machine at reset but for one reference, with the reference unit's TICK. -/
def zRef (n tick : Nat) (r : Ref) : State := { (z.modRef n (fun _ => r)) with cc.time.tick := tick }
/-- A time-of-day message for PF0. -/
def tod : Bytes := let m := lay [(1, 0x53), (1, 0x59), (1, 1), (1, 0x18), (8, 77), (2, 37), (1, 1), (1, 2), (1, 0), (5, 0)]
  m ++ le 2 (crc16 m).toNat
/-- A member of partition 9 at a DTC, its port 0 up. -/
def zDie (dtc : Nat) : State := { (zPort .spn 0 { state := .up }) with spn.banks.active := memWr [] 0 (le 2 9), sc.time.engA.gt := 65536 * dtc, sc.time.gtValid := true }
/-- A rack Creel that is the root of partition 9 at a DTC, with the die 0x100 below its port 5. -/
def zRoot (dtc : Nat) (r : PRoot) : State := { (zPort .crl 5 { state := .up }) with crl.parts := [(9, r)], crl.held := [(9, 0, 0)], cc.time.engA.gt := 65536 * dtc, cc.topo.tier := 1, cc.topo.portMap := [(5, 0x100)] }
/-- A partition in service with the one member 0x100. -/
def root1 : PRoot := { epoch := 1, members := [{ hea := 0x100, rank := 0 }], kids := [5], inService := true }
def rm (l : Nat) (ok : Bool) : ReadyMsg := { l := l, ready := ok, reason := 1, early := false, count := 1, hea := 0x100, e := 0 }
def vm (l : Nat) (ok : Bool) : VoteMsg := { l := l, ok := ok, cause := 2, noRetry := false, count := 1, hea := 0x100 }
def pn (l c : Nat) : Pend := { l := l, idx := 1, c := c }
def curN : Cur := { l := 5000, committedL := 5000, idx := 1, c := 4, stepIdx := 2, desc := some ⟨0, 0, 0, 2, 100, 5, 0, 0, 0, 0, 0⟩, gen := 0 }
def unc (l : Nat) : Uncommitted := { l := l, c := 4, idx := 1, stepIdx := 2, image := [], gen := 0, part := 9 }
def ptx : PTxn := { tno := 3, target := 0, part := 9, pepoch := 0, cells := [(0x1000, [1, 2])] }
def rp (l c : Nat) : RPend := { l := l, idx := 1, c := c, base := l }
def rst (l c : Nat) : RStep := { l := l, idx := 1, c := c, stepIdx := 2, kind := 0, who := [0x100], endD := some 100 }
def kid : State := { (zPort .crl 64 { state := .up }) with cc.topo.tier := 1, crl.ply.trees := [(plyKey 9 launchTree, { kids := [3, 5], up := some 64 })] }
/-- A cluster in the cycles of a step, with STRETCH_THR 40. -/
def zStep : State := ({ zDie 9000 with spn.clocks.regions := [(2, { present := true, gated := false })], spn.launch.clusters := [(2, { running := true })] }).setReg .spn 0x0A08 0x3020
/-- The registry and root of partition 9 at DTC 100,000. -/
def zReg (r : PRoot) : State := { zRoot 100000 r with cc.topo.hasRoot := true, cc.topo.registry := true, cc.topo.hea := 0x7E0 }
def pl2 (l : List (Nat × Nat)) : Bytes := lay l
/-- The same with a list of words in host memory at 0. -/
def zList (r : PRoot) (l : List Nat) : State := (zReg r).wr .crl (2 ^ 63) (l.flatMap (le 4))
/-- A request of partition 9. -/
def rq (st : ReqState) : ReqEnt := { id := 5, state := st, cls := 0, hank := false, dlrec := false, part := 9, pepoch := 1, adapter := 0, param := 0, prompt := 0, plen := 640, ns := 0, ttftTgt := 0, tbtTgt := 0, tSubmit := 0, seq := 0, tag := 0, tState := 0 }
def zReq (st : ReqState) : State := { zReg root1 with crl.planner.reqs := [(3, rq st)], crl.planner.seq := 1 }
def grp : Group := { op := 1, fmt := 0, outFmt := 0, length := 64, rmode := 0, scaled := false, consumer := 0, chan := 1, seedIdx := 0, bias := 0, qallow := 0, list := none }
def gTop : Group := { grp with op := opTopk, length := 4, consumer := 1 }
def smap : Bytes := lay [(1, 1), (7, 0), (4, 2 ^ 20 + 7), (1, 4), (1, 0), (2, 12), (8, 99), (8, 0)]
def obj1 : Obj := { typ := .count, control := true, ownerCtx := 1, owner := 12, value := 5 }
def zObj : State := { z with spn.sync.objs := [(4, obj1)], spn.sync.xlat := [(2, { ctx := 1, vid := 7, pid := 4 })] }
/-- Core 12 sees object 4 as VID 7 of context 0. -/
def zS : State := { zDie 5000 with spn.sync.objs := [(4, obj1)], spn.sync.xlat := [(2, { ctx := 0, vid := 7, pid := 4 })] }
def qop (op arg : Nat) : QOp := { pid := 4, ctx := 0, vid := 7, op := op, arg := arg, operand := 0, src := 0x8000000C, core := 12, timeout := 5 }
def sigM : SignalMsg := { port := 0, src := 0x21, part := 9, pepoch := 0, vid := 7, ctx := 0, op := 1, arg := 3, operand := 0, core := 4, sendDtc := 77, hops := 5 }
/-- Cores `l` enabled on barrier channel 2. -/
def zBar (l : List Nat) : State := { z with spn.banks.active := l.foldl (fun m c => memPut m (bankMask + 512 + c / 8) (BitVec.ofNat 8 (2 ^ (c % 8)))) [], spn.bar.chans := [(2, { gen := 65535 })] }
def plyM : PlyUp := { part := 9, pepoch := 1, tree := 3, c := 4, n := 0, op := 1, fmt := 0, outFmt := 0, length := 2, rmode := 0, scaled := false, empty := false, failed := false, counted := 1, tLast := 0, cause := 0, ndtie := 0, seed := 0, idx := 0, lanes := [1, 2], rank := 0, gap := false, ecc := false }
def zPly (kids : List Nat) (up : Option Nat) : State := { (zPort .crl 64 { state := .up }) with crl.epochs := [(9, 1)], cc.topo.tier := 1, crl.ply.trees := [(plyKey 9 3, { kids := kids, up := up })] }
def downM : PlyDown := { part := 9, pepoch := 1, tree := 3, c := 4, n := 2, flags := 1, counted := 1, tLast := 0, ndtie := 0, nanMask := 0, ovfMask := 0, data := [1, 2, 3, 4] }
/-- A die whose channel 2 is bound to group 3 and waits for round 2 of step 4. -/
def zRel : State := { zBar [3] with spn.banks.active := memWr (memWr (zBar [3]).spn.banks.active 0 (le 2 9)) 4 (le 4 1), spn.bar.chans := [(2, { group := some 3 })], spn.ply.held := [(3, (4, 2))] }
def wset : WhorlSet := { k := 5, ballast := 20, fceil := 9, stagger := 300, held := false, windUp := false, windDown := false, coastOk := true, coast := 6, seq := 4 }
/-- The Whorl master in period 0. -/
def zWh : State := { z with crl.whorl.master := true, crl.whorl.k := some 0, crl.whorl.started := true, crl.whorl.env := [(0x4400, 5)], cc.topo.plant := true, crl.whorl.round := some (0, List.replicate 64 7) }
/-- A plant root, of the lead plane or not, at which PLANT_TRIP has long stood. -/
def zTrip (lead : Plane) : State := { z with cc.topo.plant := true, cc.time.lead := lead, crl.plant.ins := 1, crl.plant.tripAt := some 0, cc.time.tick := 1000000 }

theorem test_hyps_step_runs_front :
    (∃ (s : State), s.pending = []) ∧
    (∃ (s : State), s.pending = []) :=
  ⟨⟨z, by decide +kernel⟩,
  ⟨z, by decide +kernel⟩⟩

theorem test_hyps_exec_answers_what_is_well_formed :
    (∃ (c : Instr), c.wellFormed = true) ∧
    (∃ (c : Instr), c.wellFormed = false) :=
  ⟨⟨.soBankApply 15, by decide +kernel⟩,
  ⟨.soBankApply 16, by decide +kernel⟩⟩

theorem test_hyps_steps_leave_only_masked_vectors_pending :
    ∃ (s : State) (t : State), step s = .next t :=
  ⟨z, _, rfl⟩

theorem test_hyps_ring_doorbell_registers :
    (∃ (n : Nat), n < 16) ∧
    (∃ (n : Nat), n < 16) ∧
    (∃ (n : Nat), n < 256) ∧
    (∃ (n : Nat), n < 256) ∧
    (∃ (p : Part) (n : Nat) (v : Word) (s : State) (ahead : Nat) (had : Nat), ahead = (v.toNat + 2 ^ 32 - (s.chan p n).cmdRead) % 2 ^ 32 ∧
      had = ((s.chan p n).cmdWrite + 2 ^ 32 - (s.chan p n).cmdRead) % 2 ^ 32 ∧ n < p.chans ∧
      ((s.chan p n).isOpen = false ∨ (s.chan p n).cmdSize = 0 ∨ (s.chan p n).cmdSize < ahead ∨ ahead < had)) ∧
    (∃ (p : Part) (n : Nat) (v : Word) (s : State) (ahead : Nat) (had : Nat), ahead = (v.toNat + 2 ^ 32 - (s.chan p n).cmdRead) % 2 ^ 32 ∧
      had = ((s.chan p n).cmdWrite + 2 ^ 32 - (s.chan p n).cmdRead) % 2 ^ 32 ∧ n < p.chans ∧ (s.chan p n).isOpen = true ∧ (s.chan p n).cmdSize ≠ 0 ∧
      ahead ≤ (s.chan p n).cmdSize ∧ had ≤ ahead) ∧
    (∃ (p : Part) (n : Nat) (v : Word) (s : State), n < p.chans ∧ s.noWaits ∧ (s.chan p n).isOpen = true ∧ (s.chan p n).cmdSize ≠ 0 ∧
      ((s.chan p n).cmdWrite + 2 ^ 32 - (s.chan p n).cmdRead) % 2 ^ 32 ≤ (s.chan p n).cmdSize ∧ v.toNat = (s.chan p n).cmdWrite) :=
  ⟨⟨15, by decide +kernel⟩,
  ⟨15, by decide +kernel⟩,
  ⟨15, by decide +kernel⟩,
  ⟨15, by decide +kernel⟩,
  ⟨.crl, 15, 0, z, _, _, rfl, rfl, by decide +kernel⟩,
  ⟨.spn, 15, 8, z.modChan .spn 15 (fun _ => ch8), _, _, rfl, rfl, by decide +kernel⟩,
  ⟨.crl, 255, 3, z.modChan .crl 255 (fun _ => { ch8 with cmdWrite := 3 }), by decide +kernel⟩⟩

theorem test_hyps_epoch_table_view :
    (∃ (n : Nat), n < 0x1_0000) ∧
    (∃ (s : State), s.crl.epochsAt ≠ s.cc.time.tick) ∧
    (∃ (n : Nat), n < 0x1_0000) :=
  ⟨⟨65535, by decide +kernel⟩,
  ⟨{ z with crl.epochsAt := 5 }, by decide +kernel⟩,
  ⟨0, by decide +kernel⟩⟩

theorem test_hyps_register_write_sets_or_clears_1 :
    (∃ (p : Part) (off : Nat), off % 4 = 0 ∧ ownEffect p off = false ∧ (((regDef p off).rw ≠ 0 ∨ (regDef p off).w1c ≠ 0))) ∧
    (∃ (p : Part) (off : Nat), off % 4 = 0 ∧ ownEffect p off = false ∧ (regDef p off).rw = 0 ∧ (regDef p off).w1c = 0) ∧
    (∃ (off : Nat) (be : BitVec 4), ((be ≠ 0xF ∨ off % 4 ≠ 0))) ∧
    (∃ (off : Nat), 0x2_0000 ≤ off ∧ off < 0x38_0000) ∧
    (∃ (off : Nat), 0xC000 ≤ off ∧ off < 0x1_0000 ∧ off % 4 = 0) ∧
    (∃ (off : Nat), (off = 0x4300 ∨ off = 0x4304 ∨ off = 0x4308)) ∧
    (∃ (v : Word), v.toNat.testBit 0 = true) ∧
    (∃ (v : Word), v.toNat.testBit 1 = true) ∧
    (∃ (v : Word), v.toNat.testBit 2 = true) ∧
    (∃ (v : Word), v.toNat.testBit 0 = true) ∧
    (∃ (v : Word), v.toNat.testBit 1 = true) ∧
    (∃ (n : Nat), n < 4) :=
  ⟨⟨.spn, 0x081C, by decide +kernel⟩,
  ⟨.spn, 0, by decide +kernel⟩,
  ⟨0, 3, by decide +kernel⟩,
  ⟨0x20000, by decide +kernel⟩,
  ⟨0xC000, by decide +kernel⟩,
  ⟨0x4308, by decide +kernel⟩,
  ⟨1, by decide +kernel⟩,
  ⟨2, by decide +kernel⟩,
  ⟨4, by decide +kernel⟩,
  ⟨1, by decide +kernel⟩,
  ⟨2, by decide +kernel⟩,
  ⟨0, by decide +kernel⟩⟩

theorem test_hyps_register_write_sets_or_clears_2 :
    (∃ (n : Nat), n < 8) ∧
    (∃ (c : Nat) (v : Word), v.toNat.testBit 0 = true ∧ c < 35) ∧
    (∃ (c : Nat) (v : Word), v.toNat.testBit 0 = true ∧ c < 11) ∧
    (∃ (c : Nat) (v : Word), v.toNat.testBit 0 = true ∧ c < 8) ∧
    (∃ (c : Nat) (v : Word), v.toNat.testBit 0 = true ∧ c < 32) ∧
    (∃ (c : Nat) (v : Word), v.toNat.testBit 1 = true ∧ c < 8) ∧
    (∃ (c : Nat) (v : Word), v.toNat.testBit 1 = true ∧ c < 32) ∧
    (∃ (p : Part) (n : Nat) (v : Word), n < p.ports ∧ v.toNat.testBit 0 = true) ∧
    (∃ (p : Part) (n : Nat) (v : Word), n < p.ports ∧ v.toNat.testBit 0 = false) ∧
    (∃ (p : Part) (n : Nat) (v : Word), n < p.ports ∧ v.toNat.testBit 1 = true) ∧
    (∃ (p : Part) (n : Nat) (v : Word), n < p.ports ∧ v.toNat.testBit 2 = true) ∧
    (∃ (v : Word), v.toNat.testBit 0 = true) :=
  ⟨⟨0, by decide +kernel⟩,
  ⟨0, 1, by decide +kernel⟩,
  ⟨0, 1, by decide +kernel⟩,
  ⟨0, 1, by decide +kernel⟩,
  ⟨0, 1, by decide +kernel⟩,
  ⟨0, 2, by decide +kernel⟩,
  ⟨0, 2, by decide +kernel⟩,
  ⟨.crl, 0, 1, by decide +kernel⟩,
  ⟨.crl, 0, 2, by decide +kernel⟩,
  ⟨.crl, 0, 2, by decide +kernel⟩,
  ⟨.crl, 0, 4, by decide +kernel⟩,
  ⟨1, by decide +kernel⟩⟩

theorem test_hyps_register_write_sets_or_clears_3 :
    ∃ (v : Word), v.toNat.testBit 0 = false :=
  ⟨2, by decide +kernel⟩

theorem test_hyps_read_clears_counter :
    (∃ (p : Part) (off : Nat), (regDef p (off / 4 * 4)).rc ≠ 0) ∧
    (∃ (p : Part) (off : Nat), (regDef p (off / 4 * 4)).rc = 0) :=
  ⟨⟨.spn, 0x0420, by decide +kernel⟩,
  ⟨.crl, 0x3000, by decide +kernel⟩⟩

theorem test_hyps_capture_takes_one_edge :
    (∃ (n : Nat) (k : Nat) (s : State), n < 4 ∧ (s.sc.time.slot n).at_ = none ∧ s.spnPart ≠ 0 ∧
      dtcOf (s.gt .spn) s.spn.banks.epochS s.spn.banks.dcor = some k) ∧
    (∃ (n : Nat) (s : State), n < 4 ∧ (s.sc.time.slot n).at_ = none ∧ s.spnPart = 0) ∧
    (∃ (n : Nat) (part : Nat) (k : Nat) (epochS : Nat) (d : Int) (s : State), n < 4 ∧ part ≠ 0 ∧ part < 0xFFFF ∧ (s.cc.time.slot n).at_ = none ∧
      tfind s.crl.held part = some (epochS, d) ∧ dtcOf (s.gt .crl) epochS d = some k) ∧
    (∃ (n : Nat) (s : State), n < 4 ∧ (s.sc.time.slot n).at_ = some s.sc.time.tick) ∧
    (∃ (v : Word), v.toNat % 16 = 0) :=
  ⟨⟨3, 5,
    { z with spn.banks.active := memWr (memWr [] bankPart (le 2 7)) bankPepoch (le 4 1), sc.time.engA.gt := 65536 * 5 + 77, spn.banks.epochS := 0 },
    by decide +kernel⟩,
  ⟨3, z, by decide +kernel⟩,
  ⟨3, 65534, 3, 0, 5, { z with crl.held := [(65534, 0, 5)], cc.time.engA.gt := 65536 * 3 + 9 }, by decide +kernel⟩,
  ⟨0, { z with sc.time.tick := 4, sc.time.slot0 := { at_ := some 4 } }, by decide +kernel⟩,
  ⟨16, by decide +kernel⟩⟩

theorem test_hyps_port_control_bits_move_port :
    (∃ (p : Part) (n : Nat) (v : Word) (s : State), n < p.ports ∧ (s.port p n).state ≠ .up ∧ ((p = .crl → s.cc.time.engA.port ≠ some n)) ∧
      (s.port p n).state = .disabled ∧ n ∉ (s.core p).topo.disabledPorts ∧ v.toNat / 2 % 4 = 0) ∧
    (∃ (p : Part) (n : Nat) (s : State), n < p.ports ∧ (s.port p n).state ≠ .up ∧ ((p = .crl → s.cc.time.engA.port ≠ some n))) ∧
    (∃ (p : Part) (n : Nat) (v : Word) (s : State), n < p.ports ∧ (s.port p n).state ≠ .up ∧ ((p = .crl → s.cc.time.engA.port ≠ some n)) ∧
      (s.port p n).state ≠ .disabled ∧ v.toNat % 2 = 1 ∧ v.toNat / 4 % 2 = 0) ∧
    (∃ (p : Part) (n : Nat) (v : Word) (s : State), n < p.ports ∧ (s.port p n).state ≠ .up ∧ ((p = .crl → s.cc.time.engA.port ≠ some n)) ∧
      (s.port p n).state = .quarantine ∧ v.toNat % 2 = 1 ∧ v.toNat / 2 % 2 = 0) :=
  ⟨⟨.crl, 128, 1, zPort .crl 128 { attempts := 3 }, by decide +kernel⟩,
  ⟨.crl, 128, zPort .crl 128 { attempts := 3 }, by decide +kernel⟩,
  ⟨.crl, 5, 3, zPort .crl 5 { state := .identify, attempts := 3 }, by decide +kernel⟩,
  ⟨.spn, 1, 5, zPort .spn 1 { state := .quarantine, attempts := 8 }, by decide +kernel⟩⟩

theorem test_hyps_bank_transaction_enters_whole :
    (∃ (w : Option Nat) (v : Word) (s : State), w.all (· < 35) = true ∧ s.spn.banks.staged w = none ∧ v.toNat / 2 % 2 = 0) ∧
    (∃ (w : Option Nat) (v : Word) (s : State) (x : Txn), w.all (· < 35) = true ∧ s.spn.banks.staged w = some x ∧ v.toNat / 2 % 4 = 0) ∧
    (∃ (w : Option Nat) (v : Word) (s : State) (x : Txn), w.all (· < 35) = true ∧ s.spn.banks.staged w = some x ∧ v.toNat % 2 = 0) ∧
    (∃ (w : Option Nat) (v : Word) (s : State), w.all (· < 35) = true ∧ s.spn.banks.staged w = none ∧ v.toNat % 2 = 0) ∧
    (∃ (w : Option Nat) (v : Word) (s : State) (x : Txn), w.all (· < 35) = true ∧ s.spn.banks.staged w = some x ∧ x.conflict = false ∧
      v.toNat / 4 % 2 = 0 ∧ v.toNat % 2 = 0 ∧ s.bankClosed = false ∧ ((∀ y ∈ x.writes, y.1 ∉ s.spn.banks.touched))) ∧
    (∃ (w : Option Nat) (v : Word) (s : State) (x : Txn), w.all (· < 35) = true ∧ s.spn.banks.staged w = some x ∧ x.conflict = false ∧
      v.toNat / 4 % 2 = 0 ∧ v.toNat % 2 = 0 ∧ s.bankClosed = true) ∧
    (∃ (w : Option Nat) (v : Word) (s : State) (x : Txn), w.all (· < 35) = true ∧ s.spn.banks.staged w = some x ∧ x.conflict = true ∧
      v.toNat / 4 % 2 = 0 ∧ v.toNat % 2 = 0) ∧
    (∃ (w : Option Nat) (v : Word) (s : State), w.all (· < 35) = true ∧ s.spn.banks.staged w = none ∧ v.toNat / 4 % 2 = 0 ∧ v.toNat % 2 = 0) ∧
    (∃ (w : Option Nat) (off : Nat) (at_ : Nat) (s : State) (x : Txn), at_ = 0x4000 * (s.bankCtl w / 16 % 4) + (off - 0xC000) ∧
      w.all (· < 35) = true ∧ 0xC000 ≤ off ∧ off < 0x1_0000 ∧ off % 4 = 0 ∧ s.spn.banks.staged w = some x ∧ (s.bankCtl w).testBit 6 = false ∧
      0x20 ≤ at_ ∧ at_ < 0x920) ∧
    (∃ (w : Option Nat) (off : Nat) (s : State), w.all (· < 35) = true ∧ 0xC000 ≤ off ∧ off < 0x1_0000 ∧ off % 4 = 0 ∧
      ((s.spn.banks.staged w = none ∨ (s.bankCtl w).testBit 6 = true))) ∧
    (∃ (w : Option Nat) (off : Nat) (at_ : Nat) (s : State) (x : Txn), at_ = 0x4000 * (s.bankCtl w / 16 % 4) + (off - 0xC000) ∧
      w.all (· < 35) = true ∧ 0xC000 ≤ off ∧ off < 0x1_0000 ∧ off % 4 = 0 ∧ s.spn.banks.staged w = some x ∧ (s.bankCtl w).testBit 6 = false ∧
      ((at_ < 0x20 ∨ 0x920 ≤ at_))) :=
  ⟨⟨none, 1, z, by decide +kernel⟩,
  ⟨none, 1, { z with spn.banks.host := some { writes := [(0x30, 1)] } }, { writes := [(0x30, 1)] }, by decide +kernel⟩,
  ⟨none, 2, { z with spn.banks.host := some { writes := [(0x30, 1)] }, spn.launch.refill := true }, { writes := [(0x30, 1)] }, by decide +kernel⟩,
  ⟨none, 4, z, by decide +kernel⟩,
  ⟨none, 2, { z with spn.banks.host := some { writes := [(0x30, 1)] } }, { writes := [(0x30, 1)] }, by decide +kernel⟩,
  ⟨none, 2, { z with spn.banks.host := some { writes := [(0x30, 1)] }, spn.launch.refill := true }, { writes := [(0x30, 1)] }, by decide +kernel⟩,
  ⟨none, 2, { z with spn.banks.host := some { writes := [(0x30, 1)], conflict := true } }, { writes := [(0x30, 1)], conflict := true },
    by decide +kernel⟩,
  ⟨some 0, 2, z, by decide +kernel⟩,
  ⟨none, 0xC91C, _, { z with spn.banks.host := some { writes := [(0x91C, 1)] } }, { writes := [(0x91C, 1)] }, rfl, by decide +kernel⟩,
  ⟨none, 0xFFFC, z, by decide +kernel⟩,
  ⟨none, 0xC01C, _, { z with spn.banks.host := some {} }, {}, rfl, by decide +kernel⟩⟩

theorem test_hyps_counter_offset_and_ageing_writes :
    (∃ (v : Word), v.toNat / 2 % 2 = 0) ∧
    (∃ (v : Word), v.toNat % 2 = 0) ∧
    (∃ (v : Word), v.toNat % 2 = 1) ∧
    (∃ (v : Word), v.toNat / 2 % 2 = 1) ∧
    (∃ (m : Nat), m < 4) :=
  ⟨⟨1, by decide +kernel⟩,
  ⟨2, by decide +kernel⟩,
  ⟨1, by decide +kernel⟩,
  ⟨2, by decide +kernel⟩,
  ⟨0, by decide +kernel⟩⟩

theorem test_hyps_trace_input_and_eoi_writes :
    (∃ (v : Word), v.toNat % 64 = 0) ∧
    (∃ (v : Word), v.toNat % 4096 = 0) ∧
    (∃ (v : Word), v.toNat % 64 ≠ 0) ∧
    (∃ (v : Word), v.toNat % 4096 ≠ 0) ∧
    (∃ (n : Nat) (s : State), n < 8 ∧ s.tiOwned n = true) ∧
    (∃ (n : Nat) (w : Nat) (v : Word) (s : State), w = (v.toNat &&& 0xFFFF_3C00) + clampThresh v.toNat ∧ n < 8 ∧ s.tiOwned n = false ∧
      s.reg .crl (tiInOff n) % 4096 ≠ w % 4096) ∧
    (∃ (n : Nat) (w : Nat) (v : Word) (s : State), w = (v.toNat &&& 0xFFFF_3C00) + clampThresh v.toNat ∧ n < 8 ∧ s.tiOwned n = false ∧
      s.reg .crl (tiInOff n) % 4096 = w % 4096) ∧
    (∃ (v : Word) (s : State), v.toNat % 512 ∉ s.vectors .crl) ∧
    (∃ (v : Word) (s : State), v.toNat % 512 ∈ s.vectors .crl ∧ s.masked (v.toNat % 512) = false ∧ s.crl.msixPend = [] ∧ s.crl.pcieDown = false) :=
  ⟨⟨64, by decide +kernel⟩,
  ⟨4096, by decide +kernel⟩,
  ⟨63, by decide +kernel⟩,
  ⟨64, by decide +kernel⟩,
  ⟨1, z.setReg .crl 0x3050 0x20, by decide +kernel⟩,
  ⟨0, _, 64, z, rfl, by decide +kernel⟩,
  ⟨0, _, 0x800, z.setReg .crl (tiInOff 0) ((0x800 &&& 0xFFFF_3C00) + clampThresh 0x800), rfl, by decide +kernel⟩,
  ⟨64, z, by decide +kernel⟩,
  ⟨511, (((z.setReg .crl 0x0104 2).setReg .crl 0x3014 1).setReg .crl 0x0140 (511 * 65536)).setReg .crl 0x381FFC 0, by decide +kernel⟩⟩

theorem test_hyps_doorbells_hand_on :
    (∃ (p : Part) (core : Nat) (s : State) (e : Bytes) (pl : Bytes), e = padTo 64 (s.mboxOf p core).msg ∧ core < p.cores ∧
      (s.mboxOf p core).busy = false ∧ (entryPayload p true e s).toOption = some pl ∧ coreDown p (owningCore p (rdLe e 0 2) pl) s = false) ∧
    (∃ (p : Part) (core : Nat) (s : State) (e : Bytes) (x : Refuse), e = padTo 64 (s.mboxOf p core).msg ∧ entryPayload p true e s = .error x ∧
      core < p.cores ∧ (s.mboxOf p core).busy = false) ∧
    (∃ (p : Part) (core : Nat) (s : State), core < p.cores ∧ (s.mboxOf p core).busy = true) :=
  ⟨⟨.crl, 10, z.modMbox .crl 10 (fun m => { m with msg := entry 1 0 [] }), _, [0, 0, 0, 0, 0, 0, 0, 0], rfl, by decide +kernel⟩,
  ⟨.spn, 34, z.modMbox .spn 34 (fun m => { m with msg := entry 0xFFFF 0 [] }), _, (257, 1), rfl, errorOf (by decide +kernel), by decide +kernel⟩,
  ⟨.spn, 34, z.modMbox .spn 34 (fun m => { m with busy := true }), by decide +kernel⟩⟩

theorem test_hyps_channel_zero_opens_and_closes :
    (∃ (p : Part) (s : State), (s.chan p 0).isOpen = false ∧ s.noWaits ∧ ringOk p (ch0Pair p 0x04 s) (s.reg p (ch0Base p + 0x0C)) = true ∧
      ringOk p (ch0Pair p 0x10 s) (s.reg p (ch0Base p + 0x18)) = true) ∧
    (∃ (p : Part) (s : State), (s.chan p 0).isOpen = false ∧
      ((ringOk p (ch0Pair p 0x04 s) (s.reg p (ch0Base p + 0x0C)) = false ∨ ringOk p (ch0Pair p 0x10 s) (s.reg p (ch0Base p + 0x18)) = false))) ∧
    (∃ (p : Part) (s : State), (s.chan p 0).isOpen = true) ∧
    (∃ (p : Part) (s : State), s.noWaits ∧ (s.chan p 0).isOpen = true ∧ s.chanIdle p 0 = true) ∧
    (∃ (p : Part) (s : State), s.noWaits ∧ (s.chan p 0).isOpen = true ∧ s.chanIdle p 0 = false) :=
  ⟨⟨.spn, (((z.setReg .spn 0x00A4 0x1000).setReg .spn 0x00AC 16).setReg .spn 0x00B0 0x2000).setReg .spn 0x00B8 16, by decide +kernel⟩,
  ⟨.crl, z, by decide +kernel⟩,
  ⟨.crl, z.modChan .crl 0 (fun _ => ch8), by decide +kernel⟩,
  ⟨.crl, z.modChan .crl 0 (fun _ => ch8), by decide +kernel⟩,
  ⟨.spn,
    (z.modChan .spn 0 (fun _ => ch8)).modCore .spn (fun c => { c with inflight := [{ via := .ring 0, seq := 0, key := 1, code := 1, core := 2, relaxed := false, notify := false }] }),
    by decide +kernel⟩⟩

theorem test_hyps_dma_starts_and_aborts :
    (∃ (p : Part) (c : Nat) (v : Word) (s : State) (d : Dma), d = dmaCtrlFields p v.toNat (s.dmaCh p c) ∧ c < p.dmas ∧ (s.dmaCh p c).busy = false ∧
      (s.dmaCh p c).halted = false ∧ v.toNat / 2 % 2 = 0 ∧ dmaInvalid p d s = false ∧ d.count ≠ 0) ∧
    (∃ (p : Part) (c : Nat) (v : Word) (s : State) (d : Dma), d = dmaCtrlFields p v.toNat (s.dmaCh p c) ∧ c < p.dmas ∧ (s.dmaCh p c).busy = false ∧
      (s.dmaCh p c).halted = false ∧ v.toNat / 2 % 2 = 0 ∧ dmaInvalid p d s = false ∧ d.count = 0) ∧
    (∃ (p : Part) (c : Nat) (v : Word) (s : State) (d : Dma), d = dmaCtrlFields p v.toNat (s.dmaCh p c) ∧ c < p.dmas ∧ (s.dmaCh p c).busy = false ∧
      (s.dmaCh p c).halted = false ∧ v.toNat / 2 % 2 = 0 ∧ dmaInvalid p d s = true) ∧
    (∃ (p : Part) (c : Nat) (v : Word) (s : State), c < p.dmas ∧ (s.dmaCh p c).busy = true ∧ v.toNat / 2 % 2 = 0) ∧
    (∃ (p : Part) (c : Nat) (v : Word) (s : State), c < p.dmas ∧ (s.dmaCh p c).busy = false ∧ (s.dmaCh p c).halted = true ∧ v.toNat / 2 % 2 = 0) ∧
    (∃ (p : Part) (c : Nat) (s : State), c < p.dmas ∧ (s.dmaCh p c).halted = false ∧ (s.dmaCh p c).busy = true ∧ (s.dmaCh p c).paused = true) ∧
    (∃ (p : Part) (c : Nat) (s : State), c < p.dmas ∧ (s.dmaCh p c).halted = true) ∧
    (∃ (p : Part) (c : Nat) (s : State), c < p.dmas ∧ (s.dmaCh p c).halted = false ∧ (s.dmaCh p c).busy = true ∧ (s.dmaCh p c).paused = false) :=
  ⟨⟨.spn, 7, 0x301, z.modDma .spn 7 (fun d => { d with src := 1, dst := 4096, count := 100 }), _, rfl, by decide +kernel⟩,
  ⟨.crl, 31, 0x301, z, _, rfl, by decide +kernel⟩,
  ⟨.crl, 2, 0x301, z.modDma .crl 2 (fun d => { d with src := 2 ^ 62, dst := 4096, count := 100 }), _, rfl, by decide +kernel⟩,
  ⟨.crl, 31, 0, z.modDma .crl 31 (fun d => { d with busy := true, paused := true }), by decide +kernel⟩,
  ⟨.crl, 31, 0, z.modDma .crl 31 (fun d => { d with halted := true }), by decide +kernel⟩,
  ⟨.crl, 31, z.modDma .crl 31 (fun d => { d with busy := true, paused := true }), by decide +kernel⟩,
  ⟨.crl, 31, z.modDma .crl 31 (fun d => { d with halted := true }), by decide +kernel⟩,
  ⟨.crl, 0, z.modDma .crl 0 (fun d => { d with busy := true }), by decide +kernel⟩⟩

theorem test_hyps_ring_engine_takes_and_returns :
    (∃ (p : Part) (ch : Nat) (s : State) (c : Chan) (e : Bytes) (pl : Bytes) (read : Nat) (a : State), c = s.chan p ch ∧
      e = s.rd p (c.cmdBase + 64 + 64 * (c.cmdRead % c.cmdSize)) 64 ∧ read = (c.cmdRead + 1) % 2 ^ 32 ∧ a = s.wr p (c.cmdBase + 8) (le 4 read) ∧
      ch < p.chans ∧ c.isOpen = true ∧ c.cmdSize ≠ 0 ∧ c.cmdRead ≠ c.cmdWrite ∧ c.full = false ∧ c.room p 1 s = true ∧ ((c.stale = false ∨ ch = 0)) ∧
      mustWait p ch (reqOf (.ring ch) e) s = false ∧ rdLe e 4 4 = c.nextSeq ∧ (c.recent.all (fun r => r.1 ≠ rdLe e 8 8)) = true ∧
      (((rdLe e 2 1).testBit 1 = false ∨ s.featureOn p 0 = true)) ∧ (entryPayload p false e a).toOption = some pl ∧
      coreDown p (owningCore p (rdLe e 0 2) pl) s = false) ∧
    (∃ (p : Part) (ch : Nat) (s : State) (c : Chan) (e : Bytes), c = s.chan p ch ∧ e = s.rd p (c.cmdBase + 64 + 64 * (c.cmdRead % c.cmdSize)) 64 ∧
      ch < p.chans ∧ c.isOpen = true ∧ c.cmdSize ≠ 0 ∧ c.cmdRead ≠ c.cmdWrite ∧ c.full = false ∧ c.room p 1 s = true ∧
      mustWait p ch (reqOf (.ring ch) e) s = false ∧ rdLe e 4 4 ≠ c.nextSeq) ∧
    (∃ (p : Part) (ch : Nat) (s : State), ch < p.chans ∧
      (((s.chan p ch).isOpen = false ∨ (s.chan p ch).cmdSize = 0 ∨ (s.chan p ch).cmdRead = (s.chan p ch).cmdWrite ∨ (s.chan p ch).full = true))) ∧
    (∃ (p : Part) (ch : Nat) (seq : Nat) (n : Nat) (s : State) (b : BJob), ch < p.chans ∧ s.jobOf p ch seq = some b ∧ coreDown p b.core s = false ∧
      b.ends s = false ∧ b.code ∉ [0x0606, 0x0406, 0x0300, 0x0301, 0x000A] ∧ b.done + n < b.total) ∧
    (∃ (p : Part) (ch : Nat) (seq : Nat) (s : State) (b : BJob), ch < p.chans ∧ s.jobOf p ch seq = some b ∧ coreDown p b.core s = false ∧
      b.aborting = true ∧ b.code = 0x0007) ∧
    (∃ (p : Part) (ch : Nat) (s : State), ch < p.chans ∧ (s.chan p ch).isOpen = true ∧ (s.chan p ch).full = true ∧ (s.chan p ch).room p 1 s = true ∧
      (s.chan p ch).lost = 0) ∧
    (∃ (p : Part) (ch : Nat) (s : State), ch < p.chans ∧ (s.chan p ch).isOpen = true ∧ (s.chan p ch).full = true ∧ (s.chan p ch).room p 1 s = true ∧
      (s.chan p ch).lost ≠ 0) :=
  ⟨⟨.crl, 1, zRing .crl (entry 1 0 []), _, _, [0, 0, 0, 0, 0, 0, 0, 0], _, _, rfl, rfl, rfl, rfl, by decide +kernel⟩,
  ⟨.crl, 1, (z.wr .crl 0x1040 (entry 1 0 [])).modChan .crl 1 (fun _ => { ch8 with cmdWrite := 1, nextSeq := 3 }), _, _, rfl, rfl, by decide +kernel⟩,
  ⟨.spn, 15, z.modChan .spn 15 (fun _ => { ch8 with full := true }), by decide +kernel⟩,
  ⟨.crl, 1, 5, 2, { z with cc.jobs := [jobB 0x0007 4] }, jobB 0x0007 4, by decide +kernel⟩,
  ⟨.spn, 1, 5, { z with sc.jobs := [{ jobB 0x0007 4 with aborting := true }] }, { jobB 0x0007 4 with aborting := true }, by decide +kernel⟩,
  ⟨.spn, 15, z.modChan .spn 15 (fun _ => { ch8 with full := true }), by decide +kernel⟩,
  ⟨.crl, 255, z.modChan .crl 255 (fun _ => { ch8 with full := true, lost := 2, lostType := 1 }), by decide +kernel⟩⟩

theorem test_hyps_host_command_refused_without_effect :
    (∃ (c : Instr) (j : Judged) (s : State) (r : Refuse), judged c = some j ∧ j.up s = true ∧ j.verdict s = .error r) ∧
    (∃ (c : Instr) (j : Judged) (s : State) (e : Nat), judged c = some j ∧ j.q.wf j.p = true ∧ (s.fwCore j.p j.core).down = some e) :=
  ⟨⟨.mgmtHello .spn q0 [16], _, z, _, rfl, by decide +kernel, rfl⟩,
  ⟨.mgmtHello .crl q0 [], _, z.modFwCore .crl 2 (fun k => { k with down := some 5 }), 5, rfl, by decide +kernel, by decide +kernel⟩⟩

theorem test_hyps_management_commands_take_effect :
    (∃ (p : Part) (q : Req) (pl : Bytes) (s : State) (c : Instr), c = .mgmtHello p q pl ∧ accepts c s = true) ∧
    (∃ (p : Part) (q : Req) (pl : Bytes) (s : State) (c : Instr), c = .chanOpen p q pl ∧ accepts c s = true) ∧
    (∃ (p : Part) (q : Req) (pl : Bytes) (s : State) (c : Instr) (b : Bytes) (x : BJob), c = .cmdAbort p q pl ∧ b = bodyOf c s ∧ accepts c s = true ∧
      x ∈ (s.core p).jobs ∧ x.q.via = .ring (rdLe b 0 2) ∧ x.q.seq = rdLe b 4 4) ∧
    (∃ (p : Part) (q : Req) (pl : Bytes) (s : State) (c : Instr) (b : Bytes), c = .cmdAbort p q pl ∧ b = bodyOf c s ∧ accepts c s = true ∧
      ((∀ x ∈ (s.core p).jobs, ¬ (x.q.via = .ring (rdLe b 0 2) ∧ x.q.seq = rdLe b 4 4)))) ∧
    (∃ (p : Part) (q : Req) (pl : Bytes) (s : State) (c : Instr), c = .fwWithdraw p q pl ∧ accepts c s = true ∧ (s.core p).fw.act = none) ∧
    (∃ (p : Part) (q : Req) (pl : Bytes) (s : State) (c : Instr) (x : Activation), c = .fwWithdraw p q pl ∧ accepts c s = true ∧
      (s.core p).fw.act = some x) :=
  ⟨⟨.spn, q0, lay [(4, 5)], z, _, rfl, by decide +kernel⟩,
  ⟨.crl, q0, lay [(2, 3), (2, 0), (2, 511), (2, 0), (8, 2 ^ 63), (4, 64), (4, 9), (8, 2 ^ 63 + 0x10000), (4, 128)], z, _, rfl, by decide +kernel⟩,
  ⟨.crl, q0, lay [(2, 1), (2, 0), (4, 3)], { z with cc.jobs := [{ jobB 0x0401 5 with q := ⟨.ring 1, 3, 9, false, false, false⟩ }] }, _, _,
    { jobB 0x0401 5 with q := ⟨.ring 1, 3, 9, false, false, false⟩ }, rfl, rfl, by decide +kernel⟩,
  ⟨.spn, q0, lay [(4, 5)], z, _, _, rfl, rfl, by decide +kernel⟩,
  ⟨.spn, q0, [], z, _, rfl, by decide +kernel⟩,
  ⟨.spn, q0, [], { z with sc.fw.act := some { todo := [1] } }, _, { todo := [1] }, rfl, by decide +kernel⟩⟩

theorem test_hyps_closing_and_fencing_wait :
    (∃ (p : Part) (q : Req) (pl : Bytes) (s : State) (c : Instr) (b : Bytes), c = .chanClose p q pl ∧ b = bodyOf c s ∧ accepts c s = true ∧
      s.noWaits ∧ s.chanIdle p (rdLe b 0 2) = true) ∧
    (∃ (p : Part) (q : Req) (pl : Bytes) (s : State) (c : Instr) (b : Bytes), c = .chanClose p q pl ∧ b = bodyOf c s ∧ accepts c s = true ∧
      s.noWaits ∧ ((takenBy c s).chanIdle p (rdLe b 0 2)) = false) ∧
    (∃ (p : Part) (q : Req) (pl : Bytes) (s : State) (c : Instr), c = .fence p q pl ∧ accepts c s = true ∧ (s.core p).inflight = []) ∧
    (∃ (p : Part) (q : Req) (pl : Bytes) (s : State) (c : Instr) (b : Bytes) (i : Inflight) (ch : Nat), c = .fence p q pl ∧ b = bodyOf c s ∧
      accepts c s = true ∧ s.noWaits ∧ i ∈ (s.core p).inflight ∧ i.taken = true ∧ i.via = .ring ch ∧ i.seq ≠ q.seq ∧
      (rdLe b 0 (match p with | .spn => 2 | .crl => 32)).testBit ch = true) :=
  ⟨⟨.crl, q0, lay [(2, 4)], z.modChan .crl 4 (fun _ => ch8), _, _, rfl, rfl, by decide +kernel⟩,
  ⟨.crl, q0, lay [(2, 1)],
    { z.modChan .crl 1 (fun _ => ch8) with cc.inflight := [{ via := .ring 1, seq := 3, key := 0, code := 0x0401, core := 2, relaxed := false, notify := false, taken := true }] },
    _, _, rfl, rfl, by decide +kernel⟩,
  ⟨.spn, q0, lay [(2, 7)], { z with sc.fw.features := 2 }, _, rfl, by decide +kernel⟩,
  ⟨.crl, q0, lay [(2, 2)],
    { z with cc.fw.features := 2, cc.inflight := [{ via := .ring 1, seq := 3, key := 0, code := 0x0401, core := 2, relaxed := false, notify := false, taken := true }] },
    _, _, { via := .ring 1, seq := 3, key := 0, code := 0x0401, core := 2, relaxed := false, notify := false, taken := true }, 1, rfl, rfl,
    by decide +kernel⟩⟩

theorem test_hyps_firmware_and_debug_commands_take_effect :
    (∃ (p : Part) (q : Req) (pl : Bytes) (s : State) (c : Instr) (n : Nat), c = .coreRestart p q pl ∧ n = rdLe (bodyOf c s) 0 1 ∧
      accepts c s = true ∧ ((n ≠ 1 ∨ s.emergency p = false))) ∧
    (∃ (p : Part) (q : Req) (pl : Bytes) (s : State) (c : Instr), c = .fwStage p q pl ∧ accepts c s = true) ∧
    (∃ (p : Part) (q : Req) (pl : Bytes) (s : State) (c : Instr), c = .fwActivate p q pl ∧ accepts c s = true) ∧
    (∃ (p : Part) (q : Req) (pl : Bytes) (s : State) (c : Instr), c = .selfTest p q pl ∧ accepts c s = true) ∧
    (∃ (p : Part) (q : Req) (pl : Bytes) (s : State) (c : Instr), c = .zeroize p q pl ∧ accepts c s = true) ∧
    (∃ (p : Part) (q : Req) (pl : Bytes) (s : State) (c : Instr) (b : Bytes), c = .debugUnlock p q pl ∧ b = bodyOf c s ∧ accepts c s = true ∧
      rdLe b 0 1 ≠ (s.core p).sec.debug ∧ rdLe b 16 4 = 0 ∧ needsToken (s.core p).sec.lifecycle (rdLe b 0 1) = true) ∧
    (∃ (p : Part) (q : Req) (pl : Bytes) (s : State) (c : Instr), c = .debugUnlock p q pl ∧ accepts c s = true ∧
      rdLe (bodyOf c s) 0 1 = (s.core p).sec.debug) ∧
    (∃ (p : Part) (q : Req) (pl : Bytes) (s : State) (c : Instr) (b : Bytes) (level : Nat), c = .debugUnlock p q pl ∧ b = bodyOf c s ∧
      level = rdLe b 0 1 ∧ accepts c s = true ∧ level ≠ (s.core p).sec.debug ∧
      ((needsToken (s.core p).sec.lifecycle level = false ∨ (rdLe b 16 4 ≠ 0 ∧ tokenFault p level (s.rd p (rdLe b 8 8) (rdLe b 16 4)) (takenBy c s) = none)))) ∧
    (∃ (p : Part) (q : Req) (pl : Bytes) (s : State) (c : Instr) (b : Bytes) (level : Nat) (cause : Nat), c = .debugUnlock p q pl ∧ b = bodyOf c s ∧
      level = rdLe b 0 1 ∧ accepts c s = true ∧ level ≠ (s.core p).sec.debug ∧ needsToken (s.core p).sec.lifecycle level = true ∧ rdLe b 16 4 ≠ 0 ∧
      tokenFault p level (s.rd p (rdLe b 8 8) (rdLe b 16 4)) (takenBy c s) = some cause) :=
  ⟨⟨.crl, q0, lay [(1, 1)], { z with cc.sec.debug := 1 }, _, _, rfl, rfl, by decide +kernel⟩,
  ⟨.spn, q0, lay [(1, 2)], z, _, rfl, by decide +kernel⟩,
  ⟨.spn, q0, lay [(8, 5)],
    { z with sc.fw.flash := [⟨1, kindOfCore .spn 2, false, .staged, [0,0,0,0,0,0,0,0,0,0,0,1]⟩, ⟨1, kindOfCore .spn 0, false, .staged, [0,0,0,0,0,0,0,0,0,0,0,1]⟩] },
    _, rfl, by decide +kernel⟩,
  ⟨.crl, q0, lay [(8, 2 ^ 63), (4, 0)], z, _, rfl, by decide +kernel⟩,
  ⟨.crl, q0, [], z, _, rfl, by decide +kernel⟩,
  ⟨.spn, q0, lay [(1, 2)], { z with sc.sec.lifecycle := 1 }, _, _, rfl, rfl, by decide +kernel⟩,
  ⟨.crl, q0, lay [(1, 1)], { z with cc.sec.debug := 1 }, _, rfl, by decide +kernel⟩,
  ⟨.spn, q0, lay [(1, 2)], z, _, _, _, rfl, rfl, rfl, by decide +kernel⟩,
  ⟨.spn, q0, lay [(1, 1), (7, 0), (8, 0x1000), (4, 4800)], { z with sc.sec.lifecycle := 2, sc.mem := [(0x1007, 1)] }, _, _, _, 2, rfl, rfl, rfl,
    by decide +kernel⟩⟩

theorem test_hyps_time_commands_take_effect :
    (∃ (p : Part) (q : Req) (pl : Bytes) (s : State) (c : Instr), c = .timeSet p q pl ∧ accepts c s = true) ∧
    (∃ (p : Part) (q : Req) (pl : Bytes) (s : State) (c : Instr) (b : Bytes), c = .timePhaseStep p q pl ∧ b = bodyOf c s ∧ accepts c s = true ∧
      rdLe b 0 1 = 0) ∧
    (∃ (p : Part) (q : Req) (pl : Bytes) (s : State) (c : Instr) (b : Bytes), c = .timePhaseStep p q pl ∧ b = bodyOf c s ∧ accepts c s = true ∧
      rdLe b 0 1 = 1) ∧
    (∃ (p : Part) (q : Req) (pl : Bytes) (s : State) (c : Instr), c = .timeLeadSet p q pl ∧ accepts c s = true) ∧
    (∃ (p : Part) (q : Req) (pl : Bytes) (s : State) (c : Instr) (n : Nat), c = .portRetrain p q pl ∧ n = rdLe (bodyOf c s) 0 2 ∧
      accepts c s = true ∧ (s.port p n).state ≠ .disabled ∧ (s.port p n).state ≠ .up ∧ ((p = .crl → s.cc.time.engA.port ≠ some n))) ∧
    (∃ (p : Part) (q : Req) (pl : Bytes) (s : State) (c : Instr) (n : Nat), c = .portRetrain p q pl ∧ n = rdLe (bodyOf c s) 0 2 ∧
      accepts c s = true ∧ (s.port p n).state ≠ .disabled) ∧
    (∃ (p : Part) (q : Req) (pl : Bytes) (s : State) (c : Instr), c = .portRetrain p q pl ∧ accepts c s = true ∧
      (s.port p (rdLe (bodyOf c s) 0 2)).state = .disabled) :=
  ⟨⟨.crl, q0, lay [(8, 7), (4, 999999999)], { zLead with crl.ref.cls := 3 }, _, rfl, by decide +kernel⟩,
  ⟨.crl, q0, lay [(8, 0), (8, 2 ^ 64 - 5)], zLead, _, _, rfl, rfl, by decide +kernel⟩,
  ⟨.crl, q0, lay [(8, 1), (8, 5)], zLead, _, _, rfl, rfl, by decide +kernel⟩,
  ⟨.crl, q0, lay [(8, 3)],
    { zLead.modPort .crl 128 (fun _ => { state := .up, exch := { lockedAt := some 0, heard := some { root := 0, s := 1, tq := 0x10, lead := false, rootLost := false, hb := 0 } } }) with cc.time.engA.gt := 65536000000000, cc.time.tick := 2000000000 },
    _, rfl, by decide +kernel⟩,
  ⟨.crl, q0, lay [(2, 128)], zPort .crl 128 { state := .keyExchange, attempts := 3 }, _, _, rfl, rfl, by decide +kernel⟩,
  ⟨.crl, q0, lay [(2, 128)], zPort .crl 128 { state := .keyExchange, attempts := 3 }, _, _, rfl, rfl, by decide +kernel⟩,
  ⟨.crl, q0, lay [(8, 3)],
    { zLead.modPort .crl 128 (fun _ => { state := .up, exch := { lockedAt := some 0, heard := some { root := 0, s := 1, tq := 0x10, lead := false, rootLost := false, hb := 0 } } }) with cc.time.engA.gt := 65536000000000, cc.time.tick := 2000000000 },
    _, rfl, by decide +kernel⟩⟩

theorem test_hyps_interval_commands_take_effect :
    (∃ (p : Part) (q : Req) (pl : Bytes) (s : State) (c : Instr), c = .tiArm p q pl ∧ accepts c s = true) ∧
    (∃ (p : Part) (q : Req) (pl : Bytes) (s : State) (c : Instr), c = .tiCancel p q pl ∧ accepts c s = true) ∧
    (∃ (p : Part) (q : Req) (pl : Bytes) (s : State) (c : Instr), c = .tiCal p q pl ∧ accepts c s = true) :=
  ⟨⟨.crl, q0, lay [(2, 3), (2, 7), (1, 2), (3, 0), (3, 99), (1, 0), (2, 5), (2, 0), (2, 0x10), (3, 4), (2, 6), (3, 9)],
    { z with crl.ti.linValid := true }, _, rfl, by decide +kernel⟩,
  ⟨.crl, q0, lay [(2, 3)],
    { z with crl.ti.jobs := [{ tag := 3, start := 1, stops := [], timeout := 1, armTo := 1, armed := 0 }, { tag := 4, start := 1, stops := [], timeout := 1, armTo := 1, armed := 0 }] },
    _, rfl, by decide +kernel⟩,
  ⟨.crl, q0, [], z, _, rfl, by decide +kernel⟩⟩

theorem test_hyps_partition_commands_take_effect :
    (∃ (p : Part) (q : Req) (pl : Bytes) (s : State) (c : Instr), c = .partitionCreate p q pl ∧ accepts c s = true) ∧
    (∃ (p : Part) (q : Req) (pl : Bytes) (s : State) (c : Instr) (b : Bytes) (e : RegEntry), c = .partitionTeardown p q pl ∧ b = bodyOf c s ∧
      accepts c s = true ∧ tfind s.crl.registry (rdLe b 0 2) = some e) ∧
    (∃ (p : Part) (q : Req) (pl : Bytes) (s : State) (c : Instr) (b : Bytes) (r : PRoot) (i : Nat), c = .memberJoin p q pl ∧ b = bodyOf c s ∧
      accepts c s = true ∧ s.proot (rdLe b 0 2) = some r ∧ i < rdLe b 16 4) ∧
    (∃ (p : Part) (q : Req) (pl : Bytes) (s : State) (c : Instr) (b : Bytes) (r : PRoot) (i : Nat), c = .memberLeave p q pl ∧ b = bodyOf c s ∧
      accepts c s = true ∧ s.proot (rdLe b 0 2) = some r ∧ i < rdLe b 16 4) ∧
    (∃ (p : Part) (q : Req) (pl : Bytes) (s : State) (c : Instr) (b : Bytes) (r : PRoot), c = .freqRequest p q pl ∧ b = bodyOf c s ∧
      accepts c s = true ∧ s.proot (rdLe b 0 2) = some r) ∧
    (∃ (p : Part) (q : Req) (pl : Bytes) (s : State) (c : Instr) (b : Bytes) (r : PRoot), c = .ledgerRead p q pl ∧ b = bodyOf c s ∧
      accepts c s = true ∧ s.proot (rdLe b 0 2) = some r) :=
  ⟨⟨.crl, q0, lay [(2, 7), (1, 0), (1, 2), (4, 0x7E0), (4, 0), (12, 0), (1, 0xFF), (1, 0), (2, 0), (2, 1), (2, 2), (8, 2 ^ 63), (4, 1)],
    zList root1 [0x102], _, rfl, by decide +kernel⟩,
  ⟨.crl, q0, lay [(2, 9), (2, 0), (4, 1)], { zReg root1 with crl.registry := [(9, { lastEpoch := 1, live := true, root := 0x7E0 })] }, _, _,
    { lastEpoch := 1, live := true, root := 0x7E0 }, rfl, rfl, by decide +kernel⟩,
  ⟨.crl, q0, lay [(2, 9), (2, 0), (4, 4), (8, 2 ^ 63), (4, 1)], zList { root1 with launch.pend := [rp 200000 4], launch.commitNo := 4 } [0x102, 1],
    _, _, { root1 with launch.pend := [rp 200000 4], launch.commitNo := 4 }, 0, rfl, rfl, by decide +kernel⟩,
  ⟨.crl, q0, lay [(2, 9), (2, 0), (4, 4), (8, 2 ^ 63), (4, 1)],
    zList { root1 with members := [{ hea := 0x100, rank := 0 }, { hea := 0x101, rank := 1 }], launch.pend := [rp 200000 4], launch.commitNo := 4 } [0x101],
    _, _, { root1 with members := [{ hea := 0x100, rank := 0 }, { hea := 0x101, rank := 1 }], launch.pend := [rp 200000 4], launch.commitNo := 4 },
    0, rfl, rfl, by decide +kernel⟩,
  ⟨.crl, q0, lay [(2, 9), (1, 5)], zReg root1, _, _, root1, rfl, rfl, by decide +kernel⟩,
  ⟨.crl, q0, lay [(2, 9), (6, 0), (8, 2 ^ 63)], zReg root1, _, _, root1, rfl, rfl, by decide +kernel⟩⟩

theorem test_hyps_launch_commands_take_effect :
    (∃ (p : Part) (q : Req) (pl : Bytes) (s : State) (c : Instr) (b : Bytes) (r : PRoot), c = .launchCommit p q pl ∧ b = bodyOf c s ∧
      accepts c s = true ∧ s.proot (rdLe b 0 2) = some r) ∧
    (∃ (p : Part) (q : Req) (pl : Bytes) (s : State) (c : Instr) (b : Bytes) (r : PRoot) (x : RPend), c = .launchWithdraw p q pl ∧ b = bodyOf c s ∧
      accepts c s = true ∧ s.proot (rdLe b 0 2) = some r ∧ r.launch.pend.find? (fun y => y.l = rdLe b 8 8) = some x) ∧
    (∃ (p : Part) (q : Req) (pl : Bytes) (s : State) (c : Instr), c = .seedSet p q pl ∧ accepts c s = true) ∧
    (∃ (p : Part) (q : Req) (pl : Bytes) (s : State) (c : Instr), c = .digestExpect p q pl ∧ accepts c s = true) ∧
    (∃ (p : Part) (q : Req) (pl : Bytes) (s : State) (c : Instr), c = .whorlResume p q pl ∧ accepts c s = true ∧ s.crl.whorl.tripped = true) ∧
    (∃ (p : Part) (q : Req) (pl : Bytes) (s : State) (c : Instr), c = .whorlResume p q pl ∧ accepts c s = true ∧ s.crl.whorl.tripped = false) :=
  ⟨⟨.crl, q0, lay [(2, 9), (2, 4095), (4, 0), (8, 150000)], zReg root1, _, _, root1, rfl, rfl, by decide +kernel⟩,
  ⟨.crl, q0, lay [(2, 9), (6, 0), (8, 200000)], zReg { root1 with launch.pend := [rp 200000 4], launch.commitNo := 4 }, _, _,
    { root1 with launch.pend := [rp 200000 4], launch.commitNo := 4 }, rp 200000 4, rfl, rfl, by decide +kernel⟩,
  ⟨.spn, q0, lay [(1, 2), (3, 0), (4, 4), (8, 5), (8, 77), (8, 6), (8, 78)], z, _, rfl, by decide +kernel⟩,
  ⟨.spn, q0, lay [(8, 0), (8, 0x1000), (4, 3)], { z with sc.fw.features := 8 }, _, rfl, by decide +kernel⟩,
  ⟨.crl, q0, [], { z with crl.whorl.tripped := true, crl.whorl.master := true }, _, rfl, by decide +kernel⟩,
  ⟨.crl, q0, [], { z with crl.whorl.master := true }, _, rfl, by decide +kernel⟩⟩

theorem test_hyps_sync_commands_take_effect :
    (∃ (p : Part) (q : Req) (pl : Bytes) (s : State) (c : Instr) (b : Bytes) (m : Mapping), c = .soMap p q pl ∧ b = bodyOf c s ∧ m = mappingAt b 8 ∧
      accepts c s = true ∧ rdLe b 0 1 = 1 ∧ m.share = false) ∧
    (∃ (p : Part) (q : Req) (pl : Bytes) (s : State) (c : Instr) (b : Bytes) (m : Mapping), c = .soMap p q pl ∧ b = bodyOf c s ∧ m = mappingAt b 8 ∧
      accepts c s = true ∧ rdLe b 0 1 = 1 ∧ m.share = true) ∧
    (∃ (p : Part) (q : Req) (pl : Bytes) (s : State) (c : Instr), c = .soMapBulk p q pl ∧ accepts c s = true) ∧
    (∃ (p : Part) (q : Req) (pl : Bytes) (s : State) (c : Instr) (b : Bytes) (idx : Nat) (x : Xlat), c = .soUnmap p q pl ∧ b = bodyOf c s ∧
      accepts c s = true ∧ s.xlatFind (bits (rdLe b 0 4) 20 6) (bits (rdLe b 0 4) 0 20) = some (idx, x) ∧ s.waitersOf x.pid = [] ∧
      (tdel s.spn.sync.xlat idx).any (fun e => e.2.pid = x.pid) = false ∧ s.heldShares.contains x.pid = false) ∧
    (∃ (p : Part) (q : Req) (pl : Bytes) (s : State) (c : Instr) (b : Bytes) (op : QOp), c = .soSignal p q pl ∧ b = bodyOf c s ∧
      op = { pid := 0, ctx := bits (rdLe b 0 4) 20 6, vid := bits (rdLe b 0 4) 0 20, op := rdLe b 4 1, arg := rdLe b 6 2, operand := rdLe b 8 8, src := hostSrc, core := 0xFFFF, cmd := some q } ∧
      accepts c s = true ∧ (takeSignal op true s).2 = none) ∧
    (∃ (p : Part) (q : Req) (pl : Bytes) (s : State) (c : Instr), c = .ctxSwitch p q pl ∧ accepts c s = true) ∧
    (∃ (p : Part) (q : Req) (pl : Bytes) (s : State) (c : Instr) (pid : Nat) (o : Obj), c = .ctxReset p q pl ∧ accepts c s = true ∧
      s.obj pid = some o ∧ o.ownerCtx = rdLe (bodyOf c s) 0 1 ∧ o.orphaned = false) ∧
    (∃ (p : Part) (q : Req) (pl : Bytes) (s : State) (c : Instr), c = .skeinDump p q pl ∧ accepts c s = true) :=
  ⟨⟨.spn, q0, smap, z, _, _, _, rfl, rfl, rfl, by decide +kernel⟩,
  ⟨.spn, q0, lay [(1, 1), (7, 0), (4, 2 ^ 26 + 2 * 2 ^ 20 + 9), (12, 0), (4, 2 ^ 20 + 7), (4, 0)], zObj, _, _, _, rfl, rfl, rfl, by decide +kernel⟩,
  ⟨.spn, q0, lay [(8, 0x1000), (4, 1)], z.wr .spn 0x1000 (smap.drop 8), _, rfl, by decide +kernel⟩,
  ⟨.spn, q0, lay [(4, 2 ^ 20 + 7)], zObj, _, _, 2, { ctx := 1, vid := 7, pid := 4 }, rfl, rfl, by decide +kernel⟩,
  ⟨.spn, q0, lay [(4, 2 ^ 20 + 7), (1, 1), (1, 0), (2, 3), (8, 9)], zObj, _, _, _, rfl, rfl, rfl, by decide +kernel⟩,
  ⟨.spn, q0, lay [(8, 0x1000), (4, 1)], z.wr .spn 0x1000 (smap.drop 8), _, rfl, by decide +kernel⟩,
  ⟨.spn, q0, [1], zObj, _, 4, obj1, rfl, by decide +kernel⟩,
  ⟨.spn, q0, lay [(8, 0x1000), (4, 1)], z.wr .spn 0x1000 (smap.drop 8), _, rfl, by decide +kernel⟩⟩

theorem test_hyps_ply_and_output_commands_take_effect :
    (∃ (p : Part) (q : Req) (pl : Bytes) (s : State) (c : Instr) (b : Bytes) (r : PRoot), c = .plyArm p q pl ∧ b = bodyOf c s ∧ accepts c s = true ∧
      s.proot (rdLe b 0 2) = some r) ∧
    (∃ (p : Part) (q : Req) (pl : Bytes) (s : State) (c : Instr) (b : Bytes) (r : PRoot), c = .plyDisarm p q pl ∧ b = bodyOf c s ∧
      accepts c s = true ∧ s.proot (rdLe b 0 2) = some r) ∧
    (∃ (p : Part) (q : Req) (pl : Bytes) (s : State) (c : Instr) (b : Bytes) (r : PRoot), c = .samplerBind p q pl ∧ b = bodyOf c s ∧
      accepts c s = true ∧ s.proot (rdLe b 0 2) = some r) ∧
    (∃ (p : Part) (q : Req) (pl : Bytes) (s : State) (c : Instr) (b : Bytes) (r : PRoot), c = .outputCfg p q pl ∧ b = bodyOf c s ∧
      accepts c s = true ∧ s.proot (rdLe b 0 2) = some r) ∧
    (∃ (p : Part) (q : Req) (pl : Bytes) (s : State) (c : Instr), c = .bobbinTest p q pl ∧ accepts c s = true) ∧
    (∃ (p : Part) (q : Req) (pl : Bytes) (s : State) (c : Instr), c = .planCfg p q pl ∧ accepts c s = true) :=
  ⟨⟨.crl, q0, lay [(2, 9), (1, 5), (1, 1), (1, 0), (1, 0), (1, 64), (1, 0), (1, 0), (1, 7), (10, 0), (4, 0)], zReg root1, _, _, root1, rfl, rfl,
    by decide +kernel⟩,
  ⟨.crl, q0, lay [(2, 9), (1, 3)], zReg { root1 with groups := [(3, gTop)] }, _, _, { root1 with groups := [(3, gTop)] }, rfl, rfl,
    by decide +kernel⟩,
  ⟨.crl, q0, lay [(2, 9), (1, 3)], zReg { root1 with groups := [(3, gTop)] }, _, _, { root1 with groups := [(3, gTop)] }, rfl, rfl,
    by decide +kernel⟩,
  ⟨.crl, q0, lay [(2, 9), (1, 3)], zReg { root1 with groups := [(3, gTop)] }, _, _, { root1 with groups := [(3, gTop)] }, rfl, rfl,
    by decide +kernel⟩,
  ⟨.crl, q0, lay [(8, 5), (4, 6), (8, 7), (4, 8)], z, _, rfl, by decide +kernel⟩,
  ⟨.crl, q0, lay [(2, 9), (2, 5), (4, 1), (4, 2), (2, 1), (1, 1), (1, 0), (2, 0xFFFF), (1, 0)], zReg root1, _, rfl, by decide +kernel⟩⟩

theorem test_hyps_request_commands_take_effect :
    (∃ (p : Part) (q : Req) (pl : Bytes) (s : State) (c : Instr), c = .reqSubmit p q pl ∧ accepts c s = true) ∧
    (∃ (p : Part) (q : Req) (pl : Bytes) (s : State) (c : Instr) (b : Bytes) (idx : Nat) (e : ReqEnt), c = .reqCancel p q pl ∧ b = bodyOf c s ∧
      accepts c s = true ∧ s.reqById (rdLe b 0 2) (rdLe b 4 4) = some (idx, e) ∧ tfind s.crl.planner.reqs idx = some e ∧
      ((e.state = .queued ∨ e.state = .moving))) ∧
    (∃ (p : Part) (q : Req) (pl : Bytes) (s : State) (c : Instr) (b : Bytes) (idx : Nat) (e : ReqEnt), c = .reqCancel p q pl ∧ b = bodyOf c s ∧
      accepts c s = true ∧ s.reqById (rdLe b 0 2) (rdLe b 4 4) = some (idx, e) ∧ tfind s.crl.planner.reqs idx = some e ∧ e.state ≠ .queued ∧
      e.state ≠ .moving) ∧
    (∃ (p : Part) (q : Req) (pl : Bytes) (s : State) (c : Instr) (b : Bytes) (idx : Nat) (e : ReqEnt), c = .reqResume p q pl ∧ b = bodyOf c s ∧
      accepts c s = true ∧ s.reqById (rdLe b 0 2) (rdLe b 4 4) = some (idx, e) ∧ tfind s.crl.planner.reqs idx = some e) ∧
    (∃ (p : Part) (q : Req) (pl : Bytes) (s : State) (c : Instr) (b : Bytes) (idx : Nat) (e : ReqEnt), c = .reqQuery p q pl ∧ b = bodyOf c s ∧
      accepts c s = true ∧ s.reqById (rdLe b 0 2) (rdLe b 4 4) = some (idx, e)) ∧
    (∃ (p : Part) (q : Req) (pl : Bytes) (s : State) (c : Instr) (b : Bytes) (ins : State → State × Nat × InsEnd), c = .prefixInsert p q pl ∧
      b = bodyOf c s ∧ ins = insertFor (rdLe b 0 4) (rdLe b 4 4) (rdLe b 8 4) (rdLe b 12 4) ∧ accepts c s = true ∧ (ins (takenBy c s)).2.2 = .ok) ∧
    (∃ (p : Part) (q : Req) (pl : Bytes) (s : State) (c : Instr) (b : Bytes) (x : State × Nat × InsEnd), c = .prefixInsert p q pl ∧ b = bodyOf c s ∧
      x = insertFor (rdLe b 0 4) (rdLe b 4 4) (rdLe b 8 4) (rdLe b 12 4) (takenBy c s) ∧ accepts c s = true ∧ x.2.2 ≠ .ok) ∧
    (∃ (p : Part) (q : Req) (pl : Bytes) (s : State) (c : Instr), c = .prefixInsertBulk p q pl ∧ accepts c s = true) ∧
    (∃ (p : Part) (q : Req) (pl : Bytes) (s : State) (c : Instr), c = .prefixRemove p q pl ∧ accepts c s = true) ∧
    (∃ (p : Part) (q : Req) (pl : Bytes) (s : State) (c : Instr) (b : Bytes) (r : PRoot), c = .adapterPublish p q pl ∧ b = bodyOf c s ∧
      accepts c s = true ∧ s.proot (rdLe b 0 2) = some r ∧ r.adapters.find? (fun x => x.id = rdLe b 4 4) = none) ∧
    (∃ (p : Part) (q : Req) (pl : Bytes) (s : State) (c : Instr) (b : Bytes) (r : PRoot) (x : Adapter), c = .adapterPublish p q pl ∧ b = bodyOf c s ∧
      accepts c s = true ∧ s.proot (rdLe b 0 2) = some r ∧ x ∈ r.adapters ∧ x.id = rdLe b 4 4) ∧
    (∃ (p : Part) (q : Req) (pl : Bytes) (s : State) (c : Instr), c = .adapterRebind p q pl ∧ accepts c s = true) :=
  ⟨⟨.crl, q0, lay [(2, 9), (1, 1), (1, 0), (4, 6), (4, 0), (4, 0), (8, 77), (8, 0xA0000000), (8, 0xA0001000), (4, 640), (4, 0), (8, 0)],
    (zReg { root1 with plan := { quota := 1 } }).wr .crl 0xA0000000 (lay [(20, 0), (4, 1), (4, 1)]), _, rfl, by decide +kernel⟩,
  ⟨.crl, q0, lay [(2, 9), (2, 0), (4, 5)], zReq .queued, _, _, 3, rq .queued, rfl, rfl, by decide +kernel⟩,
  ⟨.crl, q0, lay [(2, 9), (2, 0), (4, 5)], zReq .running, _, _, 3, rq .running, rfl, rfl, by decide +kernel⟩,
  ⟨.crl, q0, lay [(2, 9), (2, 0), (4, 5)], zReq .moving, _, _, 3, rq .moving, rfl, rfl, by decide +kernel⟩,
  ⟨.crl, q0, lay [(2, 9), (2, 0), (4, 5), (8, 2 ^ 63)], zReq .moving, _, _, 3, rq .moving, rfl, rfl, by decide +kernel⟩,
  ⟨.crl, q0, lay [(4, 3), (4, 1), (4, 0x100), (4, 1)], zReq .running, _, _, _, rfl, rfl, rfl, by decide +kernel⟩,
  ⟨.crl, q0, lay [(4, 3), (4, 2), (4, 0x100), (4, 1)],
    { zReq .running with crl.planner.reqs := [(3, { rq .running with hit := 1, pins := [(7)] })] }, _, _, _, rfl, rfl, rfl, by decide +kernel⟩,
  ⟨.crl, q0, lay [(8, 2 ^ 63), (4, 1)], (zReq .running).wr .crl (2 ^ 63) (lay [(4, 3), (4, 1), (4, 0x100), (4, 1)]), _, rfl, by decide +kernel⟩,
  ⟨.crl, q0, lay [(4, 12)],
    { zReg root1 with crl.planner.nodes := [(12, { hash := 1, parent := 0, block := 0, hea := 0x100, page := 1, ns := 0, use := 0 })] }, _, rfl,
    by decide +kernel⟩,
  ⟨.crl, q0, lay [(2, 9), (2, 4), (4, 77)], zReg root1, _, _, root1, rfl, rfl, by decide +kernel⟩,
  ⟨.crl, q0, lay [(2, 9), (2, 4), (4, 77)], zReg { root1 with adapters := [{ id := 77, cur := 3 }] }, _, _,
    { root1 with adapters := [{ id := 77, cur := 3 }] }, { id := 77, cur := 3 }, rfl, rfl, by decide +kernel⟩,
  ⟨.crl, q0, lay [(2, 9), (2, 0), (4, 77)], zReg { root1 with adapters := [{ id := 77, cur := 3 }] }, _, rfl, by decide +kernel⟩⟩

theorem test_hyps_firmware_cores_go_down_and_run :
    (∃ (p : Part) (n : Nat) (s : State) (c : Instr), ((c = .coreWatchdogExpiry p n ∨ c = .coreException p n)) ∧ n < p.cores ∧
      coreDown p n s = false ∧ ((n ≠ 1 ∨ s.emergency p = false))) ∧
    (∃ (p : Part) (s : State), coreDown p 1 s = false ∧ s.emergency p = true ∧ s.WorkInFlight p) ∧
    (∃ (p : Part) (s : State), coreDown p 1 s = false ∧ s.emergency p = true ∧ s.WorkInFlight p) ∧
    (∃ (p : Part) (n : Nat) (s : State) (c : Instr), ((c = .coreWatchdogExpiry p n ∨ c = .coreException p n)) ∧ n < p.cores ∧ coreDown p n s = true ∧
      s.WorkInFlight p) ∧
    (∃ (p : Part) (n : Nat) (s : State), n < p.cores ∧ (s.fwCore p n).down.isSome = true) ∧
    (∃ (p : Part) (n : Nat) (s : State), n < p.cores ∧ (s.fwCore p n).down = none) ∧
    (∃ (p : Part) (s : State) (x : Activation) (n : Nat) (rest : List Nat), (s.core p).fw.act = some x ∧ x.deferred = false ∧ x.todo = n :: rest ∧
      (s.core p).cores.any (fun c => c.2.down.isSome) = false ∧ s.emergency p = false) ∧
    (∃ (p : Part) (s : State) (x : Activation), (s.core p).fw.act = some x ∧ x.deferred = false ∧
      (s.core p).cores.any (fun c => c.2.down.isSome) = false ∧ s.emergency p = true ∧ s.WorkInFlight p) ∧
    (∃ (p : Part) (s : State), (s.core p).fw.act = none ∧ s.WorkInFlight p) :=
  ⟨⟨.crl, 10, { z with cc.jobs := [{ jobB 7 4 with core := 10 }, jobB 8 4] }, .coreWatchdogExpiry .crl 10, by decide +kernel⟩,
  ⟨.crl, { z with cc.fw.emergency := [.trip] }, by decide +kernel⟩,
  ⟨.crl, { z with cc.fw.emergency := [.trip] }, by decide +kernel⟩,
  ⟨.spn, 34, z.modFwCore .spn 34 (fun c => { c with down := some 5 }), .coreException .spn 34, by decide +kernel⟩,
  ⟨.spn, 34, z.modFwCore .spn 34 (fun c => { c with down := some 5, restartQ := some q0 }), by decide +kernel⟩,
  ⟨.crl, 10, { z with cc.jobs := [{ jobB 7 4 with core := 10 }, jobB 8 4] }, by decide +kernel⟩,
  ⟨.crl, { z with cc.fw.act := some { todo := [3, 0] } }, { todo := [3, 0] }, 3, [0], by decide +kernel⟩,
  ⟨.crl, { z with cc.fw.act := some { todo := [1, 0] }, cc.fw.emergency := [.trip] }, { todo := [1, 0] }, by decide +kernel⟩,
  ⟨.crl, { z with cc.fw.emergency := [.trip] }, by decide +kernel⟩⟩

theorem test_hyps_emergency_and_resets :
    (∃ (p : Part) (s : State), s.tripped p = false ∧ (s.core p).fw.emergency ≠ [] ∧ (s.fwCore p 1).wdHeld = false ∧ s.WorkInFlight p) ∧
    (∃ (p : Part) (s : State), s.tripped p = false ∧ (s.core p).fw.emergency ≠ [] ∧ (s.fwCore p 1).wdHeld = true) ∧
    (∃ (p : Part) (s : State), s.tripped p = true ∧ s.WorkInFlight p) ∧
    (∃ (p : Part) (s : State) (x : Nat), (s.core p).fw.clearedAt = some x ∧ x + 1_000_000_000 ≤ s.tick p ∧ s.emergency p = false) ∧
    (∃ (c : Instr), ((c = .moduleColdReset ∨ c = .moduleInputLoss))) ∧
    (∃ (p : Part) (s : State), (s.core p).fw.bootStep = 0 ∧ (s.core p).fw.bootFail = false ∧ s.slotsOf p 1 0 = []) ∧
    (∃ (x : Nat) (d : Bytes) (s : State), x + d.length ≤ 0x10_0000_0000 ∧ s.crl.pcieDown = false ∧ 0xA000_0000 ≤ x) ∧
    (∃ (x : Nat) (d : Bytes) (s : State), x + d.length ≤ 0x10_0000_0000 ∧ s.crl.pcieDown = false ∧ x < 0xA000_0000) :=
  ⟨⟨.crl, { z with cc.fw.emergency := [.temperature] }, by decide +kernel⟩,
  ⟨.crl, { (z.modFwCore .crl 1 (fun c => { c with wdHeld := true })) with cc.fw.emergency := [.temperature] }, by decide +kernel⟩,
  ⟨.crl, { z with crl.whorl.tripped := true }, by decide +kernel⟩,
  ⟨.spn, { z with sc.fw.clearedAt := some 1, sc.time.tick := 1000000001, sc.fw.act := some { todo := [1], deferred := true } }, 1, by decide +kernel⟩,
  ⟨.moduleColdReset, by decide +kernel⟩,
  ⟨.crl, { (z.modFwCore .crl 1 (fun c => { c with wdHeld := true })) with cc.fw.emergency := [.temperature] }, by decide +kernel⟩,
  ⟨0xA0000000, [1, 2], z, by decide +kernel⟩,
  ⟨0x9FFFFFFF, [1, 2], z, by decide +kernel⟩⟩

theorem test_hyps_boot_takes_its_steps :
    ∃ (p : Part) (s : State), (s.core p).fw.bootStep = 0 ∧ (s.core p).fw.bootFail = false :=
  ⟨.crl, z, by decide +kernel⟩

theorem test_hyps_power_and_debug_port :
    (∃ (p : Part) (s : State) (x : Nat), (s.core p).sec.power = 0 ∧ s.workless p = true ∧ (s.core p).sec.gateTick = some x ∧ x + 1000 ≤ s.tick p) ∧
    (∃ (s : State) (x : Nat), s.cc.time.held = true ∧ s.upPorts .crl = [] ∧ s.cc.sec.downTick = some x ∧ x + 1_000_000 ≤ s.cc.time.tick) ∧
    (∃ (p : Part) (space : Nat) (addr : Nat) (s : State), space < 3 ∧ addr < 2 ^ 56 ∧ (s.core p).sec.debug = 0) ∧
    (∃ (p : Part) (addr : Nat) (s : State), addr < 2 ^ 56 ∧ 1 ≤ (s.core p).sec.debug) ∧
    (∃ (p : Part) (addr : Nat) (s : State), addr < 2 ^ 56 ∧ badAddr p addr = false ∧ 1 ≤ (s.core p).sec.debug) ∧
    (∃ (p : Part) (space : Nat) (addr : Nat) (s : State), space < 3 ∧ addr < 2 ^ 56 ∧ (s.core p).sec.debug < 2) ∧
    (∃ (p : Part) (addr : Nat) (s : State), addr < 2 ^ 56 ∧ badAddr p addr = false ∧ (s.core p).sec.debug = 2) ∧
    (∃ (p : Part) (addr : Nat) (s : State), addr < 2 ^ 56 ∧ (s.core p).sec.debug = 2) ∧
    (∃ (p : Part) (addr : Nat) (s : State), addr < 2 ^ 56 ∧ (s.core p).sec.debug = 2) ∧
    (∃ (addr : Nat), addr < 2 ^ 56) :=
  ⟨⟨.crl, { z with cc.sec.gateTick := some 0, cc.time.tick := 1000 }, 0, by decide +kernel⟩,
  ⟨{ z with cc.time.held := true, cc.sec.downTick := some 0, cc.time.tick := 1000000 }, 0, by decide +kernel⟩,
  ⟨.crl, 0, 8, z, by decide +kernel⟩,
  ⟨.crl, 0x104, { z with cc.sec.debug := 1 }, by decide +kernel⟩,
  ⟨.crl, 0x104, { z with cc.sec.debug := 1 }, by decide +kernel⟩,
  ⟨.crl, 0, 8, z, by decide +kernel⟩,
  ⟨.spn, 8, { z with sc.sec.debug := 2 }, by decide +kernel⟩,
  ⟨.spn, 8, { z with sc.sec.debug := 2 }, by decide +kernel⟩,
  ⟨.spn, 8, { z with sc.sec.debug := 2 }, by decide +kernel⟩,
  ⟨8, by decide +kernel⟩⟩

theorem test_hyps_dma_units_copy_retry_and_halt :
    (∃ (p : Part) (c : Nat) (s : State) (d : Dma), d = s.dmaCh p c ∧ c < p.dmas ∧ d.busy = true ∧ d.paused = false ∧ d.failTick = none ∧
      d.msg = none ∧ d.remote = false) ∧
    (∃ (p : Part) (c : Nat) (n : Nat) (s : State) (d : Dma), d = s.dmaCh p c ∧ n < d.count ∧ d.abortDue = false) ∧
    (∃ (p : Part) (c : Nat) (n : Nat) (s : State) (d : Dma), d = s.dmaCh p c ∧ n < d.count ∧ d.abortDue = true) ∧
    (∃ (p : Part) (c : Nat) (s : State) (d : Dma), d = s.dmaCh p c ∧ c < p.dmas ∧ d.busy = true ∧ d.paused = false ∧ d.failTick = none ∧
      d.msg = none ∧ d.remote = true) ∧
    (∃ (p : Part) (c : Nat) (x : Nat) (s : State) (d : Dma), d = s.dmaCh p c ∧ c < p.dmas ∧ d.busy = true ∧ d.paused = false ∧ d.msg = none ∧
      d.remote = false ∧ d.failTick = some x ∧ x + 1000 ≤ s.tick p) ∧
    (∃ (p : Part) (c : Nat) (s : State) (d : Dma), d = s.dmaCh p c ∧ c < p.dmas ∧ d.busy = true ∧ d.paused = false ∧ d.failTick = none ∧
      d.msg = none ∧ d.retry ≠ 0) ∧
    (∃ (p : Part) (c : Nat) (s : State) (d : Dma), d = s.dmaCh p c ∧ c < p.dmas ∧ d.busy = true ∧ d.paused = false ∧ d.failTick = none ∧
      d.msg = none ∧ d.retry = 0) ∧
    (∃ (p : Part) (c : Nat) (x : Nat) (s : State) (d : Dma), d = s.dmaCh p c ∧ c < p.dmas ∧ d.busy = true ∧ d.failTick = some x ∧
      x + 1000 ≤ s.tick p ∧ d.tries + 1 < d.retry) ∧
    (∃ (p : Part) (c : Nat) (x : Nat) (s : State) (d : Dma), d = s.dmaCh p c ∧ c < p.dmas ∧ d.busy = true ∧ d.failTick = some x ∧
      x + 1000 ≤ s.tick p ∧ d.retry ≤ d.tries + 1) ∧
    (∃ (p : Part) (c : Nat) (s : State) (d : Dma), d = s.dmaCh p c ∧ c < p.dmas ∧ d.busy = true ∧ d.paused = true ∧ ringFill p d s ≤ d.low) :=
  ⟨⟨.spn, 7, z.modDma .spn 7 (fun d => { d with src := 0, dst := 4096, count := 100, busy := true, abortDue := true }), _, rfl, by decide +kernel⟩,
  ⟨.spn, 0, 0, z.modDma .spn 0 (fun d => { d with src := 0, dst := 2 ^ 56, count := 100, busy := true, remote := true }), _, rfl, by decide +kernel⟩,
  ⟨.spn, 7, 64, z.modDma .spn 7 (fun d => { d with src := 0, dst := 4096, count := 100, busy := true, abortDue := true }), _, rfl, by decide +kernel⟩,
  ⟨.spn, 0, z.modDma .spn 0 (fun d => { d with src := 0, dst := 2 ^ 56, count := 100, busy := true, remote := true }), _, rfl, by decide +kernel⟩,
  ⟨.crl, 0, 0, { z with cc.time.tick := 1000, cc.dma := [(0, { busy := true, count := 3, failTick := some 0, tries := 1 })] }, _, rfl,
    by decide +kernel⟩,
  ⟨.spn, 0, z.modDma .spn 0 (fun d => { d with src := 0, dst := 2 ^ 56, count := 100, busy := true, remote := true }), _, rfl, by decide +kernel⟩,
  ⟨.crl, 31, z.modDma .crl 31 (fun d => { d with count := 6, busy := true, retry := 0, src := 77 }), _, rfl, by decide +kernel⟩,
  ⟨.crl, 0, 0, { z with cc.time.tick := 1000, cc.dma := [(0, { busy := true, count := 3, failTick := some 0, tries := 1 })] }, _, rfl,
    by decide +kernel⟩,
  ⟨.spn, 0, 0, { z with sc.time.tick := 1000, sc.dma := [(0, { busy := true, count := 3, failTick := some 0, tries := 2 })] }, _, rfl,
    by decide +kernel⟩,
  ⟨.spn, 0, z.modDma .spn 0 (fun d => { d with busy := true, count := 5, paused := true }), _, rfl, by decide +kernel⟩⟩

theorem test_hyps_bulk_messages_are_acknowledged :
    (∃ (p : Part) (n : Nat) (m : BulkMsg), n < p.ports ∧ m.ok = true ∧ bulkLands p m.addr m.data.length = true) ∧
    (∃ (p : Part) (n : Nat) (m : BulkMsg), n < p.ports ∧ m.ok = true ∧ bulkLands p m.addr m.data.length = false) ∧
    (∃ (p : Part) (n : Nat) (m : BulkMsg), n < p.ports ∧ m.ok = false) ∧
    (∃ (p : Part) (c : Nat) (no : Nat) (n : Nat) (x : Nat) (s : State), c < p.dmas ∧ (s.dmaCh p c).msg = some (no, n, x)) ∧
    (∃ (p : Part) (c : Nat) (no : Nat) (n : Nat) (x : Nat) (st : Nat) (s : State), c < p.dmas ∧ (s.dmaCh p c).msg = some (no, n, x) ∧ st ≠ 0 ∧
      (s.dmaCh p c).tries < (s.dmaCh p c).retry) ∧
    (∃ (p : Part) (c : Nat) (no : Nat) (n : Nat) (x : Nat) (m : Nat) (s : State), c < p.dmas ∧ (s.dmaCh p c).msg = some (no, n, x) ∧ m ≠ no) ∧
    (∃ (p : Part) (c : Nat) (no : Nat) (n : Nat) (x : Nat) (s : State), c < p.dmas ∧ (s.dmaCh p c).msg = some (no, n, x) ∧ x + 200_000 ≤ s.tick p ∧
      (s.dmaCh p c).tries < (s.dmaCh p c).retry) ∧
    (∃ (p : Part) (c : Nat) (no : Nat) (n : Nat) (x : Nat) (s : State), c < p.dmas ∧ (s.dmaCh p c).msg = some (no, n, x) ∧ x + 200_000 ≤ s.tick p ∧
      (s.dmaCh p c).retry ≤ (s.dmaCh p c).tries) :=
  ⟨⟨.crl, 128, ⟨0x100, 0x90000000, [1, 2], 3, 4, true⟩, by decide +kernel⟩,
  ⟨.crl, 128, ⟨0x100, 0xFFFFFFFFFFF, [1, 2], 3, 4, true⟩, by decide +kernel⟩,
  ⟨.spn, 1, ⟨0x100, 64, [1, 2], 3, 4, false⟩, by decide +kernel⟩,
  ⟨.crl, 31, 4, 10, 0, z.modDma .crl 31 (fun d => { d with count := 16, busy := true, remote := true, msg := some (4, 10, 0) }), by decide +kernel⟩,
  ⟨.crl, 31, 4, 10, 0, 1, z.modDma .crl 31 (fun d => { d with count := 16, busy := true, remote := true, retry := 3, msg := some (4, 10, 0) }),
    by decide +kernel⟩,
  ⟨.crl, 31, 4, 10, 0, 0, z.modDma .crl 31 (fun d => { d with count := 16, busy := true, remote := true, retry := 3, msg := some (4, 10, 0) }),
    by decide +kernel⟩,
  ⟨.spn, 0, 4, 10, 0, { z with sc.time.tick := 200000, sc.dma := [(0, { busy := true, count := 16, remote := true, msg := some (4, 10, 0) })] },
    by decide +kernel⟩,
  ⟨.spn, 0, 4, 10, 0,
    { z with sc.time.tick := 200000, sc.dma := [(0, { busy := true, count := 16, remote := true, tries := 3, msg := some (4, 10, 0) })] },
    by decide +kernel⟩⟩

theorem test_hyps_training_follows_the_states_1 :
    (∃ (p : Part) (n : Nat) (s : State), n < p.ports ∧ (s.port p n).state = .down ∧ trainerDown p n s = false ∧
      (((s.port p n).attempts = 0 ∨ (s.port p n).since + 2 ^ (s.port p n).attempts * 1_000_000 ≤ s.tick p))) ∧
    (∃ (p : Part) (n : Nat) (s : State), n < p.ports ∧ (s.port p n).state = .down ∧ (s.port p n).attempts ≠ 0 ∧
      s.tick p < (s.port p n).since + 2 ^ (s.port p n).attempts * 1_000_000) ∧
    (∃ (p : Part) (n : Nat) (s : State), n < p.ports ∧ (s.port p n).state = .trainPhy ∧ (s.port p n).looped = false ∧ 64 ≤ (s.port p n).goodMarks ∧
      (s.port p n).peerMarks = true ∧ trainerDown p n s = false) ∧
    (∃ (p : Part) (n : Nat) (s : State), n < p.ports ∧
      (((s.port p n).looped = true ∨ (s.port p n).goodMarks < 64 ∨ (s.port p n).peerMarks = false ∨ trainerDown p n s = true))) ∧
    (∃ (p : Part) (n : Nat) (s : State), n < p.ports ∧ (s.port p n).state = .fecLock ∧ 1024 ≤ (s.port p n).goodBlocks ∧ s.hea p ≠ noHea) ∧
    (∃ (p : Part) (n : Nat) (s : State), n < p.ports ∧ (s.port p n).state = .fecLock ∧ 1024 ≤ (s.port p n).goodBlocks ∧ s.hea p = noHea) ∧
    (∃ (p : Part) (n : Nat) (m : Ident) (s : State), n < p.ports ∧ trainerDown p n s = false ∧ (s.port p n).state = .identify ∧
      identMatches p n m s = true ∧ m.major = 1 ∧ (s.port p n).annHea.isSome = true ∧ ((∀ c ∈ (s.port p n).tx, c.typ ≠ typIdentify))) ∧
    (∃ (p : Part) (n : Nat) (m : Ident) (s : State) (c : Cell), n < p.ports ∧ trainerDown p n s = false ∧ (s.port p n).state = .identify ∧
      identMatches p n m s = true ∧ m.major = 1 ∧ (s.port p n).annHea.isSome = true ∧ c ∈ (s.port p n).tx ∧ c.typ = typIdentify) ∧
    (∃ (p : Part) (n : Nat) (m : Ident) (s : State), n < p.ports ∧ trainerDown p n s = false ∧ (s.port p n).state = .identify ∧
      identMatches p n m s = true ∧ m.major = 1 ∧ (s.port p n).annHea = none) ∧
    (∃ (p : Part) (n : Nat) (m : Ident) (s : State), n < p.ports ∧ trainerDown p n s = false ∧ (s.port p n).state = .identify ∧
      identMatches p n m s = false) ∧
    (∃ (p : Part) (n : Nat) (m : Ident) (s : State), n < p.ports ∧ trainerDown p n s = false ∧ (s.port p n).state = .identify ∧
      identMatches p n m s = true ∧ m.major ≠ 1) ∧
    (∃ (n : Nat) (s : State), n < 129 ∧ trainerDown .crl n s = true) :=
  ⟨⟨.spn, 1, { zPort .spn 1 { state := .down, since := 5, attempts := 2 } with sc.time.tick := 4000005 }, by decide +kernel⟩,
  ⟨.spn, 1, { zPort .spn 1 { state := .down, since := 5, attempts := 2 } with sc.time.tick := 4000004 }, by decide +kernel⟩,
  ⟨.crl, 128, zPort .crl 128 { state := .trainPhy, goodMarks := 64, peerMarks := true }, by decide +kernel⟩,
  ⟨.spn, 1, { zPort .spn 1 { state := .down, since := 5, attempts := 2 } with sc.time.tick := 4000004 }, by decide +kernel⟩,
  ⟨.crl, 5, { zPort .crl 5 { state := .fecLock, goodBlocks := 1024 } with cc.topo.hea := 0x55 }, by decide +kernel⟩,
  ⟨.spn, 0, zPort .spn 0 { state := .fecLock, goodBlocks := 1024 }, by decide +kernel⟩,
  ⟨.crl, 3, { major := 1, hea := 0x123, plane := 0, tier := 0, port := 7, minor := 0, feat := 15, grants := [9, 9, 9, 9, 9] },
    { zPort .crl 3 { state := .identify, annHea := some 0x55 } with cc.topo.links := [(3, { hea := 0x123, plane := 0, tier := 0, port := 7 })] },
    by decide +kernel⟩,
  ⟨.crl, 3, { major := 1, hea := 0x123, plane := 0, tier := 0, port := 7, minor := 0, feat := 15, grants := [9, 9, 9, 9, 9] },
    { zPort .crl 3 { state := .identify, annHea := some 0x55, tx := [{ cls := 2, typ := typIdentify }] } with cc.topo.links := [(3, { hea := 0x123, plane := 0, tier := 0, port := 7 })] },
    { cls := 2, typ := typIdentify }, by decide +kernel⟩,
  ⟨.crl, 3, { hea := 0x123, plane := 0, tier := 0, port := 7, major := 1, minor := 0, feat := 15, grants := [9, 9, 9, 9, 9] },
    { zPort .crl 3 { state := .identify } with cc.topo.links := [(3, { hea := 0x123, plane := 0, tier := 0, port := 7 })] }, by decide +kernel⟩,
  ⟨.crl, 3, { hea := 0x123, plane := 0, tier := 0, port := 7, major := 1, minor := 0, feat := 15, grants := [9, 9, 9, 9, 9] },
    zPort .crl 3 { state := .identify }, by decide +kernel⟩,
  ⟨.crl, 3, { major := 2, hea := 0x123, plane := 0, tier := 0, port := 7, minor := 0, feat := 15, grants := [9, 9, 9, 9, 9] },
    { zPort .crl 3 { state := .identify, annHea := some 0x55 } with cc.topo.links := [(3, { hea := 0x123, plane := 0, tier := 0, port := 7 })] },
    by decide +kernel⟩,
  ⟨5, z.modFwCore .crl (pccOf 5) (fun c => { c with down := some 5 }), by decide +kernel⟩⟩

theorem test_hyps_training_follows_the_states_2 :
    (∃ (p : Part) (n : Nat) (ms : Nat) (s : State), n < p.ports ∧ stateLimit (s.port p n).state = some ms ∧
      (s.port p n).since + ms * 1_000_000 ≤ s.tick p ∧ (s.port p n).looped = false ∧ (s.port p n).attempts < 7) ∧
    (∃ (p : Part) (n : Nat) (ms : Nat) (s : State), n < p.ports ∧ stateLimit (s.port p n).state = some ms ∧
      (s.port p n).since + ms * 1_000_000 ≤ s.tick p ∧ (s.port p n).looped = false ∧ 7 ≤ (s.port p n).attempts) ∧
    (∃ (p : Part) (n : Nat) (s : State), n < p.ports ∧ (s.port p n).looped = true) ∧
    (∃ (p : Part) (n : Nat) (s : State), n < p.ports ∧ (s.port p n).state = .calibrate ∧ 1088 ≤ (s.port p n).exch.done ∧ trainerDown p n s = false) :=
  ⟨⟨.spn, 0, 10, { zPort .spn 0 { state := .trainPhy, attempts := 6 } with sc.time.tick := 10000000 }, by decide +kernel⟩,
  ⟨.spn, 0, 1, { zPort .spn 0 { state := .fecLock, attempts := 7 } with sc.time.tick := 1000000 }, by decide +kernel⟩,
  ⟨.spn, 0, zPort .spn 0 { state := .trainPhy, looped := true }, by decide +kernel⟩,
  ⟨.spn, 1, zPort .spn 1 { state := .calibrate, attempts := 3, exch := { done := 1088 } }, by decide +kernel⟩⟩

theorem test_hyps_links_leave_up_and_degrade :
    (∃ (p : Part) (n : Nat) (s : State), n < p.ports ∧ (s.port p n).state = .up ∧ 8 ≤ (s.port p n).bad) ∧
    (∃ (p : Part) (n : Nat) (s : State), n < p.ports ∧ (((s.port p n).state ≠ .up ∨ (s.port p n).bad < 8))) ∧
    (∃ (p : Part) (n : Nat) (s : State) (x : Nat), n < p.ports ∧ (s.port p n).state = .up ∧ x ∈ (s.port p n).authFails ∧
      16 ≤ ((s.port p n).authFails.filter (fun u => x ≤ u && u ≤ x + 1_000_000)).length) ∧
    (∃ (p : Part) (n : Nat) (a : Nat) (b : Nat) (s : State), n < p.ports ∧ (s.port p n).state = .up ∧ a < b * 100_000) ∧
    (∃ (p : Part) (n : Nat) (a : Nat) (b : Nat) (s : State), n < p.ports ∧ (s.port p n).state = .up ∧ b * 100_000 ≤ a) ∧
    (∃ (p : Part) (n : Nat) (s : State), n < p.ports ∧ (s.port p n).state ≠ .up) ∧
    (∃ (p : Part) (n : Nat) (m : LcbMsg), n < p.ports ∧ m.state = 7) ∧
    (∃ (p : Part) (n : Nat) (m : LcbMsg) (s : State), n < p.ports ∧ (s.port p n).state = .up ∧ m.state ≠ 7) ∧
    (∃ (p : Part) (n : Nat) (m : LcbMsg) (s : State), n < p.ports ∧ (stateLimit (s.port p n).state).isSome = true ∧ m.state = 1 ∧
      (s.port p n).attempts < 7) ∧
    (∃ (p : Part) (n : Nat), n < p.ports) ∧
    (∃ (p : Part) (n : Nat) (k : Nat) (s : State) (c : Cell), n < p.ports ∧ k < 3 ∧ 2 ≤ (s.port p n).noCred.getD k 0 ∧ c ∈ (s.port p n).tx ∧
      c.cls = k ∧ (s.port p n).cred.left k = 0) ∧
    (∃ (p : Part) (n : Nat) (k : Nat) (s : State), n < p.ports ∧ k < 5 ∧ ((3 ≤ k ∨ (s.port p n).noCred.getD k 0 < 2 ∨ 0 < (s.port p n).cred.left k))) :=
  ⟨⟨.spn, 1, zPort .spn 1 { state := .up, keys := { rolls := 1 }, tx := [{ cls := 2, typ := 3 }], bad := 8 }, by decide +kernel⟩,
  ⟨.crl, 0, z, by decide +kernel⟩,
  ⟨.spn, 0, zPort .spn 0 { state := .up, keys := { rolls := 1 }, tx := [{ cls := 2, typ := 3 }], authFails := List.replicate 16 5 }, 5,
    by decide +kernel⟩,
  ⟨.crl, 5, 100000, 2, zPort .crl 5 { state := .up }, by decide +kernel⟩,
  ⟨.spn, 1, 0, 0, zPort .spn 1 { state := .up, keys := { rolls := 1 }, tx := [{ cls := 2, typ := 3 }], bad := 8 }, by decide +kernel⟩,
  ⟨.crl, 0, z, by decide +kernel⟩,
  ⟨.spn, 0, { state := 7, kpAck := false, degraded := false, credits := [1, 2, 3, 4, 65537], corr := 0 }, by decide +kernel⟩,
  ⟨.spn, 0, { state := 1, kpAck := false, degraded := false, credits := [], corr := 0 },
    zPort .spn 0 { state := .up, keys := { rolls := 1 }, tx := [{ cls := 2, typ := 3 }] }, by decide +kernel⟩,
  ⟨.spn, 0, { state := 1, kpAck := false, degraded := false, credits := [], corr := 0 }, zPort .spn 0 { state := .calibrate, attempts := 2 },
    by decide +kernel⟩,
  ⟨.spn, 1, by decide +kernel⟩,
  ⟨.spn, 1, 2, zPort .spn 1 { state := .up, noCred := [0, 0, 2], tx := [{ cls := 2, typ := 3 }] }, { cls := 2, typ := 3 }, by decide +kernel⟩,
  ⟨.spn, 1, 0, zPort .spn 1 { state := .up, keys := { rolls := 1 }, tx := [{ cls := 2, typ := 3 }], bad := 8 }, by decide +kernel⟩⟩

theorem test_hyps_blocks_and_cells_move_1 :
    (∃ (p : Part) (n : Nat) (s : State), n < p.ports ∧ (s.port p n).state = .trainPhy) ∧
    (∃ (p : Part) (n : Nat) (s : State) (st : LinkState), st = (s.port p n).state ∧ n < p.ports ∧ ((st = .down ∨ st = .fecLock ∨ st = .quarantine))) ∧
    (∃ (p : Part) (n : Nat) (s : State), n < p.ports ∧ (s.port p n).state = .disabled) ∧
    (∃ (p : Part) (n : Nat) (s : State) (q : Port), q = s.port p n ∧ n < p.ports ∧ q.state = .up ∧ q.tx = [] ∧ q.lcbOwed = false ∧ q.lcbDue ≠ 0) ∧
    (∃ (p : Part) (n : Nat) (s : State) (q : Port), q = s.port p n ∧ n < p.ports ∧ q.state = .up ∧ q.tx = [] ∧ ((q.lcbOwed = true ∨ q.lcbDue = 0))) ∧
    (∃ (p : Part) (n : Nat) (s : State) (q : Port) (c : Cell), q = s.port p n ∧ n < p.ports ∧ q.state = .up ∧ q.tx = [c] ∧ c.cls < 5 ∧
      c.admitted .up = true ∧ ((c.tagged = true → q.keys.txTagged < 2 ^ 32 - 1)) ∧ q.keys.txNext = none ∧ 0 < q.cred.left c.cls ∧ q.lcbOwed = false ∧
      q.lcbDue ≠ 0) ∧
    (∃ (p : Part) (n : Nat) (x : BitVec 640) (s : State), n < p.ports ∧ (s.port p n).state ≠ .disabled ∧ rsDecode (le 80 x.toNat) = none ∧
      rdLe (le 80 x.toNat) 0 1 % 16 ≠ 5) ∧
    (∃ (p : Part) (n : Nat) (s : State), n < p.ports ∧ (s.port p n).state = .disabled) ∧
    (∃ (p : Part) (n : Nat) (x : BitVec 640) (s : State) (b : Bytes) (k : Nat), n < p.ports ∧ (s.port p n).state ≠ .disabled ∧
      rsDecode (le 80 x.toNat) = some (b, k) ∧ rdLe b 0 2 = 0x9E3A) ∧
    (∃ (k : Nat) (n : Nat) (s : State) (c : Cell) (rest : List Cell), k < 129 ∧ (s.port .crl k).rx = c :: rest ∧ c.tree = false ∧ c.local_ = false ∧
      c.src ≠ 0 ∧ routePort s.cc.topo c.dst = some n ∧ n ≠ k ∧ (s.port .crl n).state = .up ∧ (s.port .crl n).keys.peerUntrusted = false ∧
      c.admitted .up = true ∧ ((c.cls = clsCtl → c.typ = typPortSat → (s.port .crl n).feat.testBit 0 = true))) ∧
    (∃ (k : Nat) (s : State) (c : Cell) (rest : List Cell), k < 129 ∧ (s.port .crl k).rx = c :: rest ∧ c.tree = false ∧
      routePort s.cc.topo c.dst = none) ∧
    (∃ (k : Nat) (s : State), k < 129 ∧ (s.port .crl k).rx = []) :=
  ⟨⟨.spn, 1, zPort .spn 1 { state := .trainPhy }, by decide +kernel⟩,
  ⟨.spn, 1, zPort .spn 1 { state := .down }, _, rfl, by decide +kernel⟩,
  ⟨.crl, 0, z, by decide +kernel⟩,
  ⟨.crl, 128, zPort .crl 128 { state := .up, cred := { freed := [1, 2, 3, 4, 5] } }, _, rfl, by decide +kernel⟩,
  ⟨.crl, 128, zPort .crl 128 { state := .up, lcbOwed := true, cred := { freed := [1, 2, 3, 4, 5] } }, _, rfl, by decide +kernel⟩,
  ⟨.spn, 0, zPort .spn 0 { state := .up, cred := { grant := [5, 5, 5, 5, 5] }, tx := [{ cls := 3, typ := 0 }], ccNext := 4 }, _,
    { cls := 3, typ := 0 }, rfl, by decide +kernel⟩,
  ⟨.crl, 128, BitVec.ofNat 640 0x123456789ABCDEF1, zPort .crl 128 { state := .up }, by decide +kernel⟩,
  ⟨.crl, 0, z, by decide +kernel⟩,
  ⟨.crl, 4, blockOf 0xA (lay [(2, 1), (2, 2), (2, 3), (2, 4), (2, 5)]), zPort .crl 4 { state := .up, bad := 3 },
    (le 80 (blockOf 0xA (lay [(2, 1), (2, 2), (2, 3), (2, 4), (2, 5)])).toNat), 0, by decide +kernel⟩,
  ⟨2, 5,
    { (zPort .crl 2 { state := .up, rx := [{ cls := 3, typ := 0, dst := 0x100, src := 0x44 }] }).modPort .crl 5 (fun _ => { state := .up }) with cc.topo.tier := 1, cc.topo.portMap := [(5, 0x100)] },
    { cls := 3, typ := 0, dst := 0x100, src := 0x44 }, [], by decide +kernel⟩,
  ⟨2, { z with cc.ports := [(2, { state := .up, rx := [{ cls := 3, typ := 0, dst := 0x100, src := 0x44 }] })], cc.topo.tier := 1 },
    { cls := 3, typ := 0, dst := 0x100, src := 0x44 }, [], by decide +kernel⟩,
  ⟨0, z, by decide +kernel⟩⟩

theorem test_hyps_blocks_and_cells_move_2 :
    (∃ (p : Part) (n : Nat) (s : State) (q : Port), q = s.port p n ∧ n < p.ports ∧ 65536 ≤ q.slot) ∧
    (∃ (p : Part) (n : Nat) (s : State), n < p.ports ∧ (s.port p n).slot < 65536) ∧
    (∃ (part : Nat) (n : Nat), part < 0x1_0000 ∧ n < 129) :=
  ⟨⟨.spn, 0, zPort .spn 0 { state := .up, slot := 65536, satWin := 60000 }, _, rfl, by decide +kernel⟩,
  ⟨.spn, 1, zPort .spn 1 { state := .down }, by decide +kernel⟩,
  ⟨0, 0, by decide +kernel⟩⟩

theorem test_hyps_key_exchange_authenticates_1 :
    (∃ (p : Part) (n : Nat) (b : Bytes) (s : State), n < p.ports ∧ coreDown p 0 s = false ∧ (s.port p n).state = .keyExchange ∧
      s.lowerEnd p n = false ∧ b.length = 1697) ∧
    (∃ (p : Part) (n : Nat) (b : Bytes) (s : State), n < p.ports ∧ coreDown p 0 s = false ∧ (s.port p n).state = .keyExchange ∧
      s.lowerEnd p n = true ∧ b.length = 1697 ∧ (s.port p n).keys.init ≠ [] ∧ (s.port p n).keys.peerOk = false) ∧
    (∃ (p : Part) (n : Nat) (b : Bytes) (s : State), n < p.ports ∧ coreDown p 0 s = false ∧ (s.port p n).state = .keyExchange ∧
      (s.port p n).keys.prk ≠ [] ∧ (s.port p n).keys.failing = false ∧ authRejected p n b s = none ∧
      (((s.port p n).keys.sentAuth = false ∨ (s.port p n).kxWaits = true))) ∧
    (∃ (p : Part) (n : Nat) (b : Bytes) (s : State), n < p.ports ∧ coreDown p 0 s = false ∧ (s.port p n).state = .keyExchange ∧
      (s.port p n).keys.prk ≠ [] ∧ (s.port p n).keys.failing = false ∧ authRejected p n b s = none ∧ (s.port p n).keys.sentAuth = true ∧
      (s.port p n).kxWaits = false) ∧
    (∃ (p : Part) (n : Nat) (k : Nat) (b : Bytes) (s : State), n < p.ports ∧ coreDown p 0 s = false ∧ (s.port p n).state = .keyExchange ∧
      (s.port p n).keys.prk ≠ [] ∧ (s.port p n).keys.failing = false ∧ authRejected p n b s = some k) ∧
    (∃ (p : Part) (n : Nat) (s : State), n < p.ports ∧ (s.port p n).state = .keyExchange ∧ (s.port p n).keys.failing = true ∧
      (((s.port p n).keys.sentAuth = false ∨ (s.port p n).keys.peerOk = false)) ∧ (s.port p n).tx = [] ∧ (s.port p n).attempts < 7) ∧
    (∃ (p : Part) (n : Nat) (s : State), n < p.ports ∧ (s.port p n).state = .keyExchange ∧ (s.port p n).attempts < 7) ∧
    (∃ (p : Part) (n : Nat) (s : State), n < p.ports ∧ (s.port p n).state ≠ .keyExchange) ∧
    (∃ (p : Part) (n : Nat) (s : State), n < p.ports ∧ coreDown p 0 s = true) ∧
    (∃ (p : Part) (n : Nat) (s : State), n < p.ports ∧ coreDown p 0 s = true) ∧
    (∃ (p : Part) (n : Nat) (s : State), n < p.ports ∧ coreDown p 0 s = true) ∧
    (∃ (p : Part) (n : Nat) (s : State), n < p.ports ∧ coreDown p 0 s = true) :=
  ⟨⟨.crl, 3, List.replicate 1697 3, zPort .crl 3 { state := .keyExchange }, by decide +kernel⟩,
  ⟨.spn, 1, List.replicate 1697 3, zPort .spn 1 { state := .keyExchange, keys := { init := List.replicate 1697 1, priv := [1, 2] } },
    by decide +kernel⟩,
  ⟨.crl, 3, untrusted64, zPort .crl 3 { state := .keyExchange, keys := { prk := [1] } }, by decide +kernel⟩,
  ⟨.crl, 3, untrusted64, zPort .crl 3 { state := .keyExchange, keys := { prk := [1], sentAuth := true } }, by decide +kernel⟩,
  ⟨.crl, 128, 6, untrusted64, zPort .crl 128 { state := .keyExchange, keys := { prk := [1] }, attempts := 6 }, by decide +kernel⟩,
  ⟨.crl, 128, zPort .crl 128 { state := .keyExchange, keys := { failing := true } }, by decide +kernel⟩,
  ⟨.crl, 128, zPort .crl 128 { state := .keyExchange, keys := { failing := true } }, by decide +kernel⟩,
  ⟨.spn, 1, z.modFwCore .spn 0 (fun c => { c with down := some 5 }), by decide +kernel⟩,
  ⟨.spn, 1, z.modFwCore .spn 0 (fun c => { c with down := some 5 }), by decide +kernel⟩,
  ⟨.spn, 1, z.modFwCore .spn 0 (fun c => { c with down := some 5 }), by decide +kernel⟩,
  ⟨.spn, 1, z.modFwCore .spn 0 (fun c => { c with down := some 5 }), by decide +kernel⟩,
  ⟨.spn, 1, z.modFwCore .spn 0 (fun c => { c with down := some 5 }), by decide +kernel⟩⟩

theorem test_hyps_key_exchange_authenticates_2 :
    (∃ (p : Part) (n : Nat) (s : State), n < p.ports ∧ coreDown p 0 s = true) ∧
    (∃ (p : Part) (n : Nat) (s : State), n < p.ports ∧ coreDown p 0 s = true) :=
  ⟨⟨.spn, 1, z.modFwCore .spn 0 (fun c => { c with down := some 5 }), by decide +kernel⟩,
  ⟨.spn, 1, z.modFwCore .spn 0 (fun c => { c with down := some 5 }), by decide +kernel⟩⟩

theorem test_hyps_session_keys_roll_over :
    (∃ (p : Part) (n : Nat) (s : State), n < p.ports ∧ (s.port p n).state = .up ∧ (s.port p n).keys.rolling = false ∧ coreDown p 0 s = false ∧
      (s.port p n).feat.testBit 1 = true) ∧
    (∃ (p : Part) (n : Nat) (s : State), n < p.ports ∧ (s.port p n).state = .up ∧ (s.port p n).keys.rolling = false ∧ coreDown p 0 s = false ∧
      (s.port p n).feat.testBit 1 = false) ∧
    (∃ (p : Part) (n : Nat) (b : Bytes) (s : State), n < p.ports ∧ (s.port p n).state = .up ∧ coreDown p 0 s = false ∧ b.length = 1665) ∧
    (∃ (p : Part) (n : Nat) (b : Bytes) (s : State), n < p.ports ∧ (s.port p n).state = .up ∧ coreDown p 0 s = false ∧
      (s.port p n).keys.rolling = true ∧ b.length = 1665) ∧
    (∃ (p : Part) (n : Nat) (s : State) (q : Port) (c : Cell) (k : LinkKey), q = s.port p n ∧ n < p.ports ∧ q.state = .up ∧ q.tx = [c] ∧ c.cls < 5 ∧
      c.admitted .up = true ∧ ((c.tagged = true → q.keys.txTagged < 2 ^ 32 - 1)) ∧ ((c.cls = clsCtl → c.typ ≠ typRekey)) ∧ q.keys.txNext = some k ∧
      0 < q.cred.left c.cls ∧ q.lcbOwed = false ∧ q.lcbDue ≠ 0) ∧
    (∃ (p : Part) (n : Nat) (k : Nat) (s : State), n < p.ports ∧ (s.port p n).keys.newSeen = some k ∧ 65536 ≤ k) ∧
    (∃ (p : Part) (n : Nat) (s : State), n < p.ports ∧ (s.port p n).keys.newSeen.all (fun k => k < 65536) = true) :=
  ⟨⟨.spn, 1, zPort .spn 1 { state := .up, feat := 2 }, by decide +kernel⟩,
  ⟨.spn, 1, zPort .spn 1 { state := .up, feat := 1, keys := { rolls := 2 } }, by decide +kernel⟩,
  ⟨.crl, 128, List.replicate 1665 2, zPort .crl 128 { state := .up, txSeq := 9, keys := { rolls := 2, rx := some ⟨[1], [2]⟩, prk := [3] } },
    by decide +kernel⟩,
  ⟨.spn, 0, List.replicate 1665 2, zPort .spn 0 { state := .up, txSeq := 9, keys := { rolling := true, rolls := 2, prk := [3] } }, by decide +kernel⟩,
  ⟨.crl, 128,
    zPort .crl 128 { state := .up, cred := { grant := [5, 5, 5, 5, 5] }, tx := [{ cls := 2, typ := 3 }], keys := { tx := some ⟨[5], [6]⟩, txNext := some ⟨[1], [2]⟩ } },
    _, { cls := 2, typ := 3 }, ⟨[1], [2]⟩, rfl, by decide +kernel⟩,
  ⟨.crl, 0, 65536, zPort .crl 0 { state := .up, keys := { newSeen := some 65536 } }, by decide +kernel⟩,
  ⟨.spn, 1, zPort .spn 1 { state := .up, feat := 2 }, by decide +kernel⟩⟩

theorem test_hyps_time_exchanges_run :
    (∃ (p : Part) (n : Nat) (s : State) (x : Exch), x = (s.port p n).exch ∧ ((∀ u, x.sentAt = some u → u + 1000 ≤ s.tick p)) ∧ n < p.ports ∧
      (s.port p n).timed = true) ∧
    (∃ (p : Part) (n : Nat) (s : State) (u : Nat), n < p.ports ∧ (s.port p n).exch.sentAt = some u ∧ s.tick p < u + 1000) ∧
    (∃ (p : Part) (n : Nat) (s : State), n < p.ports ∧ (s.port p n).timed = true) ∧
    (∃ (p : Part) (n : Nat) (a : Nat) (t1 : Nat) (m : TimeMsg) (s : State) (o : OpenReq), n < p.ports ∧ (s.port p n).timed = true ∧ m.t2 = some a ∧
      (s.port p n).exch.open_.find? (fun y => y.n = m.n) = some o ∧ o.t1 = some (t1 : Int)) ∧
    (∃ (p : Part) (n : Nat) (t3 : Nat) (m : TimeMsg) (s : State) (h : Half) (c : Int) (d : Rat),
      d = ((h.t4 - h.t1) - ((m.secHi : Int) * stampWindow + t3 - h.t2) : Int) ∧ n < p.ports ∧ (s.port p n).timed = true ∧
      (s.port p n).exch.prev = some h ∧ (h.n + 1) % 2 ^ 32 = m.n ∧ m.t3 = some t3 ∧ h.corr = some c ∧ d - (s.port p n).exch.dAvg ≤ ns16 (1 / 20) ∧
      (s.port p n).exch.dAvg - d ≤ ns16 (1 / 20)) ∧
    (∃ (p : Part) (n : Nat) (s : State), n < p.ports ∧ (s.port p n).timed = false) ∧
    (∃ (p : Part) (n : Nat) (s : State), n < p.ports ∧ (s.port p n).timed = false) ∧
    (∃ (p : Part) (n : Nat) (s : State), n < p.ports ∧ (s.port p n).timed = false) ∧
    (∃ (p : Part) (n : Nat) (s : State), n < p.ports ∧ (s.port p n).timed = false) ∧
    (∃ (p : Part) (n : Nat) (s : State), n < p.ports ∧ (s.port p n).timed = true ∧ 64 ≤ (s.port p n).exch.seen) ∧
    (∃ (p : Part) (n : Nat) (s : State), n < p.ports ∧ (s.port p n).exch.seen < 64) :=
  ⟨⟨.crl, 128, zPort .crl 128 { state := .up }, _, rfl, allSome (by decide +kernel), by decide +kernel⟩,
  ⟨.spn, 0, zPort .spn 0 { exch := { sentAt := some 0 } }, 0, by decide +kernel⟩,
  ⟨.crl, 3, zPort .crl 3 { state := .up }, by decide +kernel⟩,
  ⟨.crl, 3, 3000, 1000, msg 5, zPort .crl 3 { state := .up, exch := { open_ := [{ n := 5, t1 := some 1000, asym := 0, rxlat := 3, txlat := 4 }] } },
    { n := 5, t1 := some 1000, asym := 0, rxlat := 3, txlat := 4 }, by decide +kernel⟩,
  ⟨.crl, 3, 2000, msg 5,
    zPort .crl 3 { state := .up, exch := { prev := some { n := 4, t1 := 1000, t2 := 1500, t4 := 2500, asym := 7, corr := some 3 }, dAvg := 1000 } },
    { n := 4, t1 := 1000, t2 := 1500, t4 := 2500, asym := 7, corr := some 3 }, 3, _, rfl, by decide +kernel⟩,
  ⟨.crl, 3, z, by decide +kernel⟩,
  ⟨.crl, 3, z, by decide +kernel⟩,
  ⟨.crl, 3, z, by decide +kernel⟩,
  ⟨.crl, 3, z, by decide +kernel⟩,
  ⟨.spn, 0, zPort .spn 0 { state := .up, exch := { seen := 64, k := 40, acc := 3 } }, by decide +kernel⟩,
  ⟨.spn, 0, zPort .spn 0 { exch := { sentAt := some 0 } }, by decide +kernel⟩⟩

theorem test_hyps_lead_changes_and_phase_steps_1 :
    (∃ (s : State) (h : Heard), ((∀ u, s.sc.time.leadLostTick = some u → u + 1_000_000 ≤ s.sc.time.tick)) ∧
      (s.port .spn (planeNat s.sc.time.lead)).exch.heard = some h ∧ h.rootLost = true ∧ h.root = s.sc.topo.timeRoot s.sc.time.lead ∧
      (s.port .spn (planeNat (otherPlane s.sc.time.lead))).state = .up ∧
      (s.port .spn (planeNat (otherPlane s.sc.time.lead))).keys.peerUntrusted = false) ∧
    (∃ (s : State), ((∀ h, (s.port .spn (planeNat s.sc.time.lead)).exch.heard = some h → h.rootLost = false))) ∧
    (∃ (src : Nat) (s : State), s.isFollowRoot = true ∧ spnHea src = true) ∧
    (∃ (src : Nat) (root : Nat) (pl : Nat) (s : State),
      (s.isFollowRoot = false ∨ pl ≠ planeNat s.cc.time.lead ∨ root ≠ s.cc.topo.timeRoot s.cc.time.lead ∨ spnHea src = false)) ∧
    (∃ (p : Part) (n : Nat) (pl : Plane) (s : State), n < p.ports ∧ (s.core p).time.leadChange = none ∧ (s.core p).time.lead ≠ pl) ∧
    (∃ (p : Part) (n : Nat) (pl : Plane) (s : State), n < p.ports ∧
      ((s.core p).time.leadChange.map (·.2) = some pl ∨ ((s.core p).time.leadChange = none ∧ (s.core p).time.lead = pl))) ∧
    (∃ (p : Part) (sec : Nat) (pl : Plane) (s : State), (s.core p).time.leadChange = some (sec, pl) ∧ (sec : Int) * unitsPerSec ≤ s.gt p) ∧
    (∃ (p : Part) (s : State), ((∀ e, (s.core p).time.leadChange = some e → s.gt p < (e.1 : Int) * unitsPerSec))) ∧
    (∃ (p : Part) (n : Nat) (num : Nat) (s : State), n < p.ports ∧ (s.core p).time.knowsStep num = false ∧ ((p = .crl → s.isLeadRoot = false))) ∧
    (∃ (p : Part) (n : Nat) (num : Nat) (s : State), n < p.ports ∧ ((s.core p).time.knowsStep num = true ∨ (p = .crl ∧ s.isLeadRoot = true))) ∧
    (∃ (s : State) (st : PStep), s.sc.time.pendSteps = [st] ∧ (st.sec : Int) * unitsPerSec ≤ s.gt .spn) ∧
    (∃ (s : State) (st : PStep), s.cc.time.pendSteps = [st] ∧ (st.sec : Int) * unitsPerSec ≤ s.gt .crl) :=
  ⟨⟨{ (zPort .spn 0 { state := .up, exch := { heard := some { root := 0x55, s := 3, tq := 0x10, lead := true, rootLost := true, hb := 0 } } }).modPort .spn 1 (fun _ => { state := .up }) with sc.topo.timeRootA := 0x55 },
    { root := 0x55, s := 3, tq := 0x10, lead := true, rootLost := true, hb := 0 }, allSome (by decide +kernel), by decide +kernel⟩,
  ⟨z, allSome (by decide +kernel)⟩,
  ⟨0x21, zFollow, by decide +kernel⟩,
  ⟨0x21, 0, 0, zFollow, by decide +kernel⟩,
  ⟨.spn, 1, .b, z, by decide +kernel⟩,
  ⟨.crl, 0, .b, { z with cc.time.leadChange := some (0, .b) }, by decide +kernel⟩,
  ⟨.crl, 0, .b, { z with cc.time.leadChange := some (0, .b) }, by decide +kernel⟩,
  ⟨.crl, z, allSome (by decide +kernel)⟩,
  ⟨.crl, 3, 7, zPort .crl 9 { state := .up }, by decide +kernel⟩,
  ⟨.spn, 1, 5, { z with sc.time.applied := [⟨4, 5, 5⟩] }, by decide +kernel⟩,
  ⟨{ z with sc.time.pendSteps := [⟨1, 70000, 7⟩], sc.time.engA.gt := 65536000000000, spn.banks.active := memWr [] bankPart (le 2 7) }, ⟨1, 70000, 7⟩,
    by decide +kernel⟩,
  ⟨{ z with cc.time.pendSteps := [⟨0, -70000, 7⟩], cc.time.engA.gt := 65536000000000, crl.held := [(7, 0, 5), (9, 1, -4)] }, ⟨0, -70000, 7⟩,
    by decide +kernel⟩⟩

theorem test_hyps_lead_changes_and_phase_steps_2 :
    ∃ (p : Part) (s : State), ((∀ e ∈ (s.core p).time.pendSteps, s.gt p < (e.sec : Int) * unitsPerSec)) :=
  ⟨.crl, z, by decide +kernel⟩

theorem test_hyps_root_steps_and_qwords_1 :
    (∃ (s : State) (r : RootStep), s.crl.ref.step = some r ∧ r.sentDown = false ∧ s.cc.time.tick ≤ r.issued + 1_000_000) ∧
    (∃ (s : State) (r : RootStep), s.crl.ref.step = some r ∧ r.sentDown = false ∧ r.issued + 1_000_000 < s.cc.time.tick) ∧
    (∃ (s : State) (num : Nat), ((∀ r, s.crl.ref.step = some r → r.step.num ≠ num ∨ r.sentDown = true))) ∧
    (∃ (s : State) (num : Nat), ((∀ r, s.crl.ref.step = some r → r.step.num ≠ num ∨ r.sentDown = true))) ∧
    (∃ (s : State) (r : RootStep), s.crl.ref.step = some r ∧ r.sentDown = false ∧ r.issued + 1_000_000 ≤ s.cc.time.tick) ∧
    (∃ (s : State) (r : RootStep), s.crl.ref.step = some r ∧ s.cc.time.tick < r.issued + 1_000_000) ∧
    (∃ (s : State), ((∀ x, s.crl.ref.qwordAt = some x → x + 1_024_000 ≤ s.cc.time.tick)) ∧ s.isTimeRoot = true) ∧
    (∃ (s : State), (s.isTimeRoot = false ∨ (∃ x, s.crl.ref.qwordAt = some x ∧ s.cc.time.tick < x + 1_024_000))) ∧
    (∃ (n : Nat), n < 2) ∧
    (∃ (n : Nat) (s : State), n < 129 ∧ n ≠ pxPort ∧ s.cc.time.engA.port = some n ∧ s.isTimeRoot = false) ∧
    (∃ (n : Nat) (s : State), n < 129 ∧ n ≠ pxPort ∧ (s.cc.time.engA.port ≠ some n ∨ s.isTimeRoot = true)) ∧
    (∃ (s : State), (s.ref 7).lastEsmc + 2_048_000 ≤ s.cc.time.tick ∧ (s.ref 7).state ≠ .disabled ∧ (s.ref 7).state ≠ .failed) :=
  ⟨⟨{ zLead with crl.ref.step := some { step := ⟨4, 5, 6⟩, q := some q0, code := 0x100 } }, { step := ⟨4, 5, 6⟩, q := some q0, code := 0x100 },
    by decide +kernel⟩,
  ⟨{ zLead with crl.ref.step := some { step := ⟨4, 5, 6⟩ }, cc.time.tick := 1000001 }, { step := ⟨4, 5, 6⟩ }, by decide +kernel⟩,
  ⟨zLead, 0, allSome (by decide +kernel)⟩,
  ⟨zLead, 0, allSome (by decide +kernel)⟩,
  ⟨{ zLead with crl.ref.step := some { step := ⟨4, 5, 6⟩ }, cc.time.tick := 1000001 }, { step := ⟨4, 5, 6⟩ }, by decide +kernel⟩,
  ⟨{ zLead with crl.ref.step := some { step := ⟨4, 5, 6⟩, q := some q0, code := 0x100 } }, { step := ⟨4, 5, 6⟩, q := some q0, code := 0x100 },
    by decide +kernel⟩,
  ⟨zLead, allSome (by decide +kernel), by decide +kernel⟩,
  ⟨zRef 7 2048000 { state := .qualified }, by decide +kernel⟩,
  ⟨0, by decide +kernel⟩,
  ⟨64, { zPort .crl 3 { state := .up } with cc.time.engA.port := some 64 }, by decide +kernel⟩,
  ⟨0, zFollow, by decide +kernel⟩,
  ⟨zRef 7 2048000 { state := .qualified }, by decide +kernel⟩⟩

theorem test_hyps_root_steps_and_qwords_2 :
    ∃ (s : State), (s.cc.time.tick < (s.ref 7).lastEsmc + 2_048_000 ∨ (s.ref 7).state = .disabled ∨ (s.ref 7).state = .failed) :=
  ⟨zLead, by decide +kernel⟩

theorem test_hyps_interval_unit_runs :
    (∃ (src : Nat) (port : Nat) (fine : Nat) (s : State), src ≤ 0x10 ∧ port < 129 ∧ s.crl.ti.linValid = true ∧ ((src < 8 →
      (∀ x, (s.tiIn src).lastEdge = some x → x + s.deadTime src ≤ edgeSeen src fine s) ∧ ∀ x, (s.tiIn src).injected = some x →
      x + 200 ≤ s.cc.time.tick)) ∧ ((0x0C ≤ src → src ≤ 0x0F → (s.port .crl port).timed = true))) ∧
    (∃ (src : Nat) (port : Nat) (fine : Nat) (s : State), src ≤ 0x10 ∧ port < 129 ∧ (s.crl.ti.linValid = false ∨ (src < 8 ∧ ∃ x,
      (s.tiIn src).lastEdge = some x ∧ edgeSeen src fine s < x + s.deadTime src) ∨ (0x0C ≤ src ∧ src ≤ 0x0F ∧ (s.port .crl port).timed = false))) ∧
    (∃ (n : Nat) (port : Nat) (fine : Nat) (x : Nat) (s : State), ((∀ y, (s.tiIn n).lastEdge = some y → y + s.deadTime n ≤ edgeSeen n fine s)) ∧
      n < 8 ∧ port < 129 ∧ s.crl.ti.linValid = true ∧ (s.tiIn n).injected = some x ∧ s.cc.time.tick < x + 200) ∧
    (∃ (n : Nat), n < 8) :=
  ⟨⟨7, 128, 255, { z with crl.ti.linValid := true, cc.time.tick := 9 }, by decide +kernel⟩,
  ⟨0, 0, 0, z, by decide +kernel⟩,
  ⟨7, 0, 3, 5, { z with crl.ti.linValid := true, crl.ti.inputs := [(7, { injected := some 5 })], cc.time.tick := 204 }, allSome (by decide +kernel),
    by decide +kernel⟩,
  ⟨7, by decide +kernel⟩⟩

theorem test_hyps_calibration_follows_measurement :
    (∃ (ch : Nat) (hits : List Nat) (s : State), ch < 17 ∧ s.inbandCal = true ∧ hits.length = 256 ∧ hits.sum = 2 ^ 20) ∧
    (∃ (ch : Nat) (hits : List Nat) (s : State), ch < 17 ∧ s.inbandCal = false ∧ hits.length = 256 ∧ hits.sum = 2 ^ 20) ∧
    (∃ (n : Nat) (s : State), n < 8 ∧ s.inbandCal = true ∧ ((s.tiOwned n = false ∧ (s.reg .crl (tiInOff n)).testBit 13 = true ∧
      2_000_000_000 ≤ s.cc.time.tick ∧ ∀ x, (s.tiIn n).lastEdge = some x →
      x + 2_000_000_000 * 65536 ≤ s.cc.time.tick * 65536) ∨ (∃ x ∈ (s.tiIn n).recent, x + 400_000_000 ≤ s.cc.time.tick ∧
      s.cc.time.tick ≤ x + 600_000_000))) ∧
    (∃ (n : Nat) (s : State), n < 8 ∧ (s.inbandCal = false ∨ ((∀ x ∈ (s.tiIn n).recent, x + 600_000_000 < s.cc.time.tick) ∧
      ((s.tiOwned n = true ∨ (s.reg .crl (tiInOff n)).testBit 13 = false))))) ∧
    (∃ (n : Nat) (txs : List Int) (rxs : List Int) (s : State) (tx : Int) (rx : Int) (a : Int × Int), a = (mean64 txs, mean64 rxs) ∧
      tx = a.1 + (tget (0, 0) s.cc.topo.ktrims n).1 ∧ rx = a.2 + (tget (0, 0) s.cc.topo.ktrims n).2 ∧ n < 129 ∧ txs.length = 64 ∧ rxs.length = 64 ∧
      s.inbandCal = true ∧ (s.port .crl n).timed = true ∧ coreDown .crl (pccOf n) s = false ∧
      (tx - (tget (0, 0) s.cc.topo.trims n).1).natAbs * 10 ≤ 131072 ∧ (rx - (tget (0, 0) s.cc.topo.trims n).2).natAbs * 10 ≤ 131072) ∧
    (∃ (n : Nat) (txs : List Int) (rxs : List Int) (s : State), n < 129 ∧ txs.length = 64 ∧ rxs.length = 64 ∧ s.inbandCal = true ∧
      (s.port .crl n).timed = true ∧ coreDown .crl (pccOf n) s = false ∧
      131072 < (mean64 txs + (tget (0, 0) s.cc.topo.ktrims n).1 - (tget (0, 0) s.cc.topo.trims n).1).natAbs * 10) ∧
    (∃ (n : Nat) (txs : List Int) (rxs : List Int) (s : State), n < 129 ∧ txs.length = 64 ∧ rxs.length = 64 ∧
      (s.inbandCal = false ∨ (s.port .crl n).timed = false ∨ coreDown .crl (pccOf n) s = true)) ∧
    (∃ (p : Part) (n : Nat) (s : State) (l : TopoLink), n < p.ports ∧ tfind (s.core p).topo.links n = some l ∧ l.alpha ≠ -0x8000_0000 ∧
      s.lowerEnd p n = true ∧ (s.port p n).timed = true ∧ (s.port p n).asymHost ≠ some (s.tick p)) ∧
    (∃ (p : Part) (n : Nat) (s : State), ((∀ l, tfind (s.core p).topo.links n = some l →
      l.alpha = -0x8000_0000 ∨ s.lowerEnd p n = false ∨ (s.port p n).timed = false ∨ (s.port p n).asymHost = some (s.tick p))) ∧ n < p.ports) :=
  ⟨⟨16, List.replicate 256 4096, z.setReg .crl 0x3400 1, by decide +kernel⟩,
  ⟨16, List.replicate 256 4096, z.setReg .crl 0x3400 0, by decide +kernel⟩,
  ⟨7, ((z.setReg .crl 0x3400 1).setReg .crl (tiInOff 7) 0x2000).modTime .crl (fun t => { t with tick := 2000000000 }), by decide +kernel⟩,
  ⟨0, z.setReg .crl 0x3400 0, by decide +kernel⟩,
  ⟨128, List.replicate 64 30, List.replicate 64 70, (zPort .crl 128 { state := .up }).setReg .crl 0x3400 1, _, _, _, rfl, rfl, rfl,
    by decide +kernel⟩,
  ⟨0, List.replicate 64 13108, List.replicate 64 70, (zPort .crl 0 { state := .calibrate }).setReg .crl 0x3400 1, by decide +kernel⟩,
  ⟨0, List.replicate 64 3, List.replicate 64 70, z, by decide +kernel⟩,
  ⟨.crl, 64,
    { zPort .crl 64 { state := .up, exch := { dAvg := 900000 } } with cc.topo.tier := 1, cc.topo.links := [(64, { hea := 1, plane := 0, tier := 0, port := 0, alpha := -5000 })] },
    { hea := 1, plane := 0, tier := 0, port := 0, alpha := -5000 }, by decide +kernel⟩,
  ⟨.crl, 7, ((z.setReg .crl 0x3400 1).setReg .crl (tiInOff 7) 0x2000).modTime .crl (fun t => { t with tick := 2000000000 }),
    allSome (by decide +kernel), by decide +kernel⟩⟩

theorem test_hyps_references_fail :
    (∃ (n : Nat) (l : Int) (s : State), n < 2 ∧ (s.ref n).lastAt = some l ∧ l + 1100 * 65_536_000_000 ≤ (s.cc.time.tick : Int) * 65536) ∧
    (∃ (n : Nat) (s : State), ((∀ l, (s.ref n).lastAt = some l → (s.cc.time.tick : Int) * 65536 < l + 1100 * 65_536_000_000)) ∧ n < 2) ∧
    (∃ (n : Nat), n < 2) ∧
    (∃ (e : Nat) (s : State), e < 4 ∧ (s.ref (2 + e)).lastAnn + 375_000_000 ≤ s.cc.time.tick) ∧
    (∃ (e : Nat) (s : State), e < 4 ∧ s.cc.time.tick < (s.ref (2 + e)).lastAnn + 375_000_000) ∧
    (∃ (e : Nat) (s : State), e < 4 ∧ (s.ref (2 + e)).lastEsmc + 5_000_000_000 ≤ s.cc.time.tick) ∧
    (∃ (e : Nat) (s : State), e < 4 ∧ s.cc.time.tick < (s.ref (2 + e)).lastEsmc + 5_000_000_000) ∧
    (∃ (e : Nat), e < 4) :=
  ⟨⟨1, 0, zRef 1 1100000000 { state := .qualified, lastAt := some 0 }, by decide +kernel⟩,
  ⟨1, zRef 1 0 { fstate := .wtr }, allSome (by decide +kernel), by decide +kernel⟩,
  ⟨1, by decide +kernel⟩,
  ⟨3, zRef 5 375000000 { state := .qualified, slave := true }, by decide +kernel⟩,
  ⟨0, zRef 2 374999999 { state := .qualified }, by decide +kernel⟩,
  ⟨3, zRef 5 5000000000 { fstate := .qualified }, by decide +kernel⟩,
  ⟨3, zRef 5 375000000 { state := .qualified, slave := true }, by decide +kernel⟩,
  ⟨3, by decide +kernel⟩⟩

theorem test_hyps_frequency_references_qualify :
    (∃ (n : Nat) (ppb : Int) (s : State), n < 6 ∧ ppb.natAbs ≤ (if n < 2 then 1000 else 4600) ∧ ((2 ≤ n → (s.ref n).fiq ≠ 0xF)) ∧
      ((s.ref n).fstate = .qualifying ∨ (s.ref n).fstate = .failed)) ∧
    (∃ (n : Nat) (ppb : Int), n < 2 ∧ 2000 < ppb.natAbs) ∧
    (∃ (n : Nat) (ppb : Int) (short : Bool) (s : State), n < 8 ∧ ((n < 2 ∧ short = true ∧ ppb.natAbs ≤ 2000) ∨ (n < 2 ∧ short = false ∧
      1000 < ppb.natAbs) ∨ (2 ≤ n ∧ (short = true ∨ 6 ≤ n ∨ 4600 < ppb.natAbs ∨ (s.ref n).fiq = 0xF)))) ∧
    (∃ (n : Nat), n < 8) ∧
    (∃ (e : Nat) (m : EsmcMsg), e < 4 ∧ m.secured = true) ∧
    (∃ (e : Nat) (m : EsmcMsg), e < 4 ∧ m.secured = false) ∧
    (∃ (e : Nat), e < 4) :=
  ⟨⟨1, -1000, zRef 1 0 { fstate := .qualifying }, by decide +kernel⟩,
  ⟨0, 2001, by decide +kernel⟩,
  ⟨0, 2001, false, zRef 0 0 { fstate := .qualified }, by decide +kernel⟩,
  ⟨7, by decide +kernel⟩,
  ⟨3, { ssm := 2 }, by decide +kernel⟩,
  ⟨3, { secured := false, ssm := 2 }, by decide +kernel⟩,
  ⟨3, by decide +kernel⟩⟩

theorem test_hyps_time_of_day_labels :
    (∃ (m : Bytes) (s : State), todValid m = true ∧ todInTime (rdLe m 16 1) s = true) ∧
    (∃ (m : Bytes) (s : State), (todValid m = false ∨ todInTime (rdLe m 16 1) s = false)) ∧
    (∃ (n : Nat) (l : Int) (s : State), n < 2 ∧ (s.todPair n = true ∨ n = s.crl.ref.todPf) ∧ (s.ref n).lastAt = some l ∧
      l + 900 * 65_536_000_000 ≤ (s.cc.time.tick : Int) * 65536 ∧ ((s.ref 6).lastAnn : Int) * 65536 < l ∧ (s.ref 6).state ≠ .disabled) ∧
    (∃ (s : State), (s.ref 6).state = .disabled ∨ (∀ n l, n < 2 → s.todPair n = true ∨ n = s.crl.ref.todPf → (s.ref n).lastAt = some l →
      (s.cc.time.tick : Int) * 65536 < l + 900 * 65_536_000_000 ∨ l ≤ ((s.ref 6).lastAnn : Int) * 65536)) :=
  ⟨⟨tod, zRef 6 5 { state := .qualified }, by decide +kernel⟩,
  ⟨[], z, by decide +kernel⟩,
  ⟨1, 65536,
    { (zRef 6 900000001 { state := .qualified }).modRef 1 (fun _ => { lastAt := some 65536 }) with crl.ref.todBad := 1, cc.regs := [(0x3050, 0x440)] },
    by decide +kernel⟩,
  ⟨z, .inl (by decide +kernel)⟩⟩

theorem test_hyps_ptp_ports_measure_1 :
    (∃ (e : Nat) (m : AnnounceMsg) (s : State), ((∀ x, (s.ref (2 + e)).parent = some x → x.1 = m.sender ∨ rankLess (announceRank m) x.2 = true)) ∧
      e < 4 ∧ m.secured = true ∧ 24 ≤ m.domain ∧ m.domain ≤ 43) ∧
    (∃ (e : Nat) (m : AnnounceMsg) (s : State), e < 4 ∧ (m.secured = false ∨ m.domain < 24 ∨ 43 < m.domain ∨ (∃ x, (s.ref (2 + e)).parent = some x ∧
      x.1 ≠ m.sender ∧ rankLess (announceRank m) x.2 = false))) ∧
    (∃ (e : Nat) (s : State), e < 4 ∧ (s.ref (2 + e)).slave = true ∧ (s.ref (2 + e)).macsec = true) ∧
    (∃ (e : Nat) (seq : Nat) (x : Int) (s : State), e < 4 ∧ (s.ref (2 + e)).lastSync = some (seq, none, x) ∧ (s.ref (2 + e)).macsec = true) ∧
    (∃ (e : Nat) (s : State), e < 4 ∧ (s.ref (2 + e)).slave = true) ∧
    (∃ (e : Nat) (s : State), e < 4 ∧ (s.ref (2 + e)).slave = false) ∧
    (∃ (e : Nat) (s : State), e < 4 ∧ (s.ref (2 + e)).slave = false) ∧
    (∃ (e : Nat) (s : State), e < 4 ∧ (s.ref (2 + e)).slave = false) ∧
    (∃ (e : Nat) (seq : Nat) (k : Nat) (t1 : Int) (t2 : Int) (t3 : Int) (s : State) (r : Ref), r = s.ref (2 + e) ∧ e < 4 ∧ r.slave = true ∧
      r.macsec = true ∧ r.lastSync = some (k, some t1, t2) ∧ r.delayT3 = some t3 ∧ r.delaySeq = seq) ∧
    (∃ (e : Nat) (seq : Nat) (s : State), e < 4 ∧ ((s.ref (2 + e)).delaySeq ≠ seq ∨ (s.ref (2 + e)).macsec = false ∨ (s.ref (2 + e)).delayT3 = none)) ∧
    (∃ (e : Nat) (s : State), e < 4 ∧ (s.ref (2 + e)).master = true ∧ s.rootClass .crl ≠ 0xF) ∧
    (∃ (e : Nat) (s : State), e < 4 ∧ (((s.ref (2 + e)).master = false ∨ s.rootClass .crl = 0xF))) :=
  ⟨⟨3, { domain := 43, clockClass := 6, utcOff := 37, utcValid := true, leapPlus := false, leapMinus := false }, z, allSome (by decide +kernel),
    by decide +kernel⟩,
  ⟨3, { domain := 23, clockClass := 6, utcOff := 37, utcValid := true, leapPlus := false, leapMinus := false }, z, by decide +kernel⟩,
  ⟨3, zRef 5 0 { slave := true }, by decide +kernel⟩,
  ⟨0, 7, 9, zRef 2 0 { lastSync := some (7, none, 9) }, by decide +kernel⟩,
  ⟨3, zRef 5 0 { slave := true, delaySeq := 65535 }, by decide +kernel⟩,
  ⟨3, z, by decide +kernel⟩,
  ⟨3, z, by decide +kernel⟩,
  ⟨3, z, by decide +kernel⟩,
  ⟨3, 4, 7, 10, 500, 600,
    zRef 5 0 { state := .qualified, slave := true, lastSync := some (7, some 10, 500), delayT3 := some 600, delaySeq := 4, good := 3 }, _, rfl,
    by decide +kernel⟩,
  ⟨3, 0, zRef 5 0 { slave := true, delaySeq := 65535 }, by decide +kernel⟩,
  ⟨3, { zRef 5 0 { master := true } with cc.time.rootClass := 1 }, by decide +kernel⟩,
  ⟨3, zRef 5 0 { slave := true, delaySeq := 65535 }, by decide +kernel⟩⟩

theorem test_hyps_ptp_ports_measure_2 :
    (∃ (e : Nat) (s : State), e < 4 ∧ (s.ref (2 + e)).master = true ∧ (s.ref (2 + e)).macsec = true) ∧
    (∃ (e : Nat) (s : State), e < 4 ∧ ((s.ref (2 + e)).master = false ∨ (s.ref (2 + e)).macsec = false)) :=
  ⟨⟨3, { zRef 5 0 { master := true } with cc.time.rootClass := 1 }, by decide +kernel⟩,
  ⟨3, zRef 5 0 { slave := true, delaySeq := 65535 }, by decide +kernel⟩⟩

theorem test_hyps_unit_locks_holds_and_learns :
    (∃ (x : Nat) (s : State), s.crl.ref.within = some x ∧ s.crl.ref.state = .acquire ∧ x + 60_000_000_000 ≤ s.cc.time.tick) ∧
    (∃ (s : State), (s.crl.ref.state ≠ .acquire ∨ (∀ x, s.crl.ref.within = some x → s.cc.time.tick < x + 60_000_000_000))) ∧
    (∃ (temp : Int) (s : State), s.crl.ref.state = .holdover ∧ s.crl.ref.cls = 1 ∧
      ((28_800_000_000_000 < s.crl.ref.hoElapsed s.cc.time.tick ∨ 200 < (temp - s.crl.ref.hoTemp).natAbs))) ∧
    (∃ (temp : Int) (s : State), (s.crl.ref.state ≠ .holdover ∨ s.crl.ref.cls ≠ 1 ∨ (s.crl.ref.hoElapsed s.cc.time.tick ≤ 28_800_000_000_000 ∧
      (temp - s.crl.ref.hoTemp).natAbs ≤ 200))) ∧
    (∃ (x : Nat) (s : State), s.crl.ref.iq1Since = some x ∧ s.crl.ref.state = .locked ∧ x + 14_400_000_000_000 ≤ s.cc.time.tick) ∧
    (∃ (s : State), (s.crl.ref.state ≠ .locked ∨ (∀ x, s.crl.ref.iq1Since = some x → s.cc.time.tick < x + 14_400_000_000_000))) ∧
    (∃ (s : State), (s.reg .crl 0x3000).testBit 5 = true ∧ s.crl.ref.state = .locked ∧ s.crl.ref.lastAge + 3_600_000_000_000 ≤ s.cc.time.tick) ∧
    (∃ (s : State), ((s.reg .crl 0x3000).testBit 5 = false ∨ s.crl.ref.state ≠ .locked ∨ s.cc.time.tick < s.crl.ref.lastAge + 3_600_000_000_000)) :=
  ⟨⟨0, { zLead with crl.ref.within := some 0, crl.ref.state := .acquire, cc.time.tick := 60000000000 }, by decide +kernel⟩,
  ⟨z, by decide +kernel⟩,
  ⟨0, { z with crl.ref.state := .holdover, crl.ref.cls := 1, crl.ref.hoStart := some 0, cc.time.tick := 28800000000001 }, by decide +kernel⟩,
  ⟨0, z, by decide +kernel⟩,
  ⟨0, { z with crl.ref.iq1Since := some 0, crl.ref.state := .locked, cc.time.tick := 14400000000000 }, by decide +kernel⟩,
  ⟨z, by decide +kernel⟩,
  ⟨{ z with crl.ref.state := .locked, cc.time.tick := 3600000000000 }, by decide +kernel⟩,
  ⟨z, by decide +kernel⟩⟩

theorem test_hyps_pulse_outputs_drive :
    (∃ (m : Nat) (s : State) (o : POut), o = s.pout m ∧ m < 4 ∧ o.pendOff = none ∧ o.pendSrc = none) ∧
    (∃ (m : Nat) (s : State) (o : POut), o = s.pout m ∧ m < 4 ∧ m ≠ 1 ∧ o.pendOff = none ∧ o.pendSrc = none ∧ o.src = 0 ∧ s.outDrives m = true) ∧
    (∃ (m : Nat) (s : State) (o : POut) (x : Int), o = s.pout m ∧ m < 4 ∧ o.pendOff = none ∧ o.pendSrc = none ∧ o.src ≠ 0 ∧ o.lastIn = some x ∧
      s.outDrives m = true) ∧
    (∃ (m : Nat) (x : Nat) (v : Int) (s : State), m < 4 ∧ (s.pout m).pendOff = some (x, v)) ∧
    (∃ (m : Nat) (x : Nat) (k : Nat) (s : State), m < 4 ∧ (s.pout m).pendSrc = some (x, k) ∧ x + 1_000_000 ≤ s.cc.time.tick) ∧
    (∃ (m : Nat) (x : Nat) (k : Nat) (s : State), m < 4 ∧ (s.pout m).pendSrc = some (x, k) ∧ s.cc.time.tick < x + 1_000_000) :=
  ⟨⟨3, { z with crl.ref.outs := [(3, { src := 2 })], cc.regs := [(0x3130, 1)] }, _, rfl, by decide +kernel⟩,
  ⟨2, (z.setReg .crl (outOff 2) 0x10021).modTime .crl (fun t => { t with engA := { t.engA with gt := 65536 * 1700000 } }), _, rfl, by decide +kernel⟩,
  ⟨3, { z with crl.ref.outs := [(3, { src := 2, lastIn := some 70, offset := 5 })], cc.regs := [(0x3130, 1)] }, _, 70, rfl, by decide +kernel⟩,
  ⟨3, 0, 99, { z with crl.ref.outs := [(3, { pendOff := some (0, 99) })], cc.time.tick := 1000000 }, by decide +kernel⟩,
  ⟨0, 0, 4, { z with crl.ref.outs := [(0, { pendSrc := some (0, 4), fly := true })], cc.time.tick := 1000000 }, by decide +kernel⟩,
  ⟨0, 0, 4, { z with crl.ref.outs := [(0, { pendSrc := some (0, 4), fly := true })], cc.time.tick := 999999 }, by decide +kernel⟩⟩

theorem test_hyps_launch_cells_move_pending :
    (∃ (c : Nat) (s : State), s.pendingC c = false) ∧
    (∃ (c : Nat) (s : State), s.pendingC c = true) ∧
    (∃ (l : Nat) (s : State) (p : Pend), p ∈ s.spn.launch.pend ∧ p.l = l) ∧
    (∃ (l : Nat) (s : State), ((∀ p ∈ s.spn.launch.pend, p.l ≠ l))) ∧
    (∃ (n : Nat) (hea : Nat) (reason : Nat), n < 2 ^ 32 ∧ hea < 2 ^ 32 ∧ reason < 256) :=
  ⟨⟨4, { zDie 3000 with spn.launch.pend := [pn 20000 3] }, by decide +kernel⟩,
  ⟨3, { zDie 3000 with spn.launch.pend := [pn 20000 3] }, by decide +kernel⟩,
  ⟨20000, { zDie 3000 with spn.launch.pend := [pn 20000 3, pn 30000 4] }, pn 20000 3, by decide +kernel⟩,
  ⟨20001, { zDie 3000 with spn.launch.pend := [pn 20000 3] }, by decide +kernel⟩,
  ⟨0, 0, 0, by decide +kernel⟩⟩

theorem test_hyps_members_report_readiness :
    (∃ (l : Nat) (n : Nat) (s : State) (p : Pend), n = planeNat s.spn.banks.plane ∧ s.spn.launch.pend.find? (fun y => y.l = l) = some p ∧
      p.sent = false ∧ s.serves.1 ≠ 0 ∧ (l ≤ s.ldtc + s.spn.launch.trdy ∨ (notReadyFor l s = none ∧ s.spn.launch.next_ = none ∧
      s.nextPend.map (·.l) = some l)) ∧ (s.port .spn n).state = .up ∧ (s.port .spn n).keys.peerUntrusted = false) ∧
    (∃ (l : Nat) (s : State) (p : Pend), s.spn.launch.pend.find? (fun y => y.l = l) = some p ∧ (p.sent = true ∨ (s.ldtc + s.spn.launch.trdy < l ∧
      ((notReadyFor l s).isSome = true ∨ s.spn.launch.next_.isSome = true ∨ s.nextPend.map (·.l) ≠ some l)))) ∧
    (∃ (s : State), s.timeReady = false) ∧
    (∃ (c : Nat) (s : State), c < 32 ∧ (s.cluster c).running = true ∧ ((∀ core ∈ s.cores, s.cluOf core = c → s.fenced core = false →
      s.coreWaits core = false ∧ ∀ ch, ch < 8 → core ∉ (s.bchan ch).arrived))) ∧
    (∃ (c : Nat) (core : Nat) (s : State), c < 32 ∧ ((s.cluster c).running = false ∨ (core ∈ s.cores ∧ s.cluOf core = c ∧ s.fenced core = false ∧
      (s.coreWaits core = true ∨ ∃ ch, ch < 8 ∧ core ∈ (s.bchan ch).arrived)))) :=
  ⟨⟨5000, _, { zDie 3000 with spn.launch.pend := [pn 5000 3] }, pn 5000 3, rfl, by decide +kernel⟩,
  ⟨5000, { zDie 3000 with spn.launch.pend := [{ pn 5000 3 with sent := true }] }, { pn 5000 3 with sent := true }, by decide +kernel⟩,
  ⟨z, by decide +kernel⟩,
  ⟨2, zStep, by decide +kernel⟩,
  ⟨31, 5, z, by decide +kernel⟩⟩

theorem test_hyps_doff_and_launch :
    (∃ (s : State), ((∀ p, s.nextPend = some p → s.ldtc + 256 < p.at_ ∨ s.spn.launch.next_.isSome = true))) ∧
    (∃ (s : State) (p : Pend), s.nextPend = some p ∧ p.at_ ≤ s.ldtc + 256 ∧ s.spn.launch.next_ = none ∧ (p.go = none ∨ s.launchTime = false)) ∧
    (∃ (s : State) (p : Pend) (at_ : Nat) (idx : Nat), s.nextPend = some p ∧ p.go = some (at_, idx) ∧ at_ ≤ s.ldtc + 256 ∧
      s.spn.launch.next_ = none ∧ s.launchTime = true) ∧
    (∃ (p : Pend), p.retryOf = none) ∧
    (∃ (s : State), ((∀ n, s.spn.launch.next_ = some n → s.ldtc < n.l))) ∧
    (∃ (s : State) (n : Cur), s.spn.launch.next_ = some n ∧ n.l ≤ s.ldtc) :=
  ⟨⟨z, allSome (by decide +kernel)⟩,
  ⟨{ zDie 4744 with spn.launch.pend := [pn 5000 3, pn 9000 5] }, pn 5000 3, by decide +kernel⟩,
  ⟨{ zDie 4744 with sc.sec.power := 1, spn.launch.pend := [{ pn 4000 3 with go := some (5000, 7) }], spn.banks.shadow := memWr [] 0 (le 2 9) },
    { pn 4000 3 with go := some (5000, 7) }, 5000, 7, by decide +kernel⟩,
  ⟨pn 5 3, by decide +kernel⟩,
  ⟨z, allSome (by decide +kernel)⟩,
  ⟨{ zDie 5000 with spn.launch.next_ := some { curN with desc := some ⟨0, 0, 0, 2, 100, 5, 0, 0, 0, 0, 0⟩ }, spn.clocks.regions := [(1, { present := true })] },
    curN, by decide +kernel⟩⟩

theorem test_hyps_transactions_enter_whole :
    (∃ (s : State), s.spn.launch.refill = false) ∧
    (∃ (s : State), s.spn.launch.refill = true) ∧
    (∃ (m : BankWriteMsg) (s : State), s.spn.banks.ptxns = [] ∧ m.tree = false) ∧
    (∃ (m : BankWriteMsg) (s : State) (x : PTxn), s.spn.banks.ptxns = [x] ∧ m.tree = false ∧ x.tno = m.tno ∧ x.part = m.part ∧ x.pepoch = m.pepoch ∧
      x.entered = false ∧ x.total ≠ some x.cells.length ∧ x.total ≠ some (x.cells.length + 1)) ∧
    (∃ (m : BankWriteMsg) (e : BankEndMsg) (s : State), bankNames s.spn.banks.active m.part m.pepoch = false ∧
      bankNames s.spn.banks.shadow m.part m.pepoch = false ∧ m.tree = true ∧ e.tree = true ∧ e.part = m.part ∧ e.pepoch = m.pepoch) ∧
    (∃ (m : BankWriteMsg) (e : BankEndMsg) (s : State), bankNames s.spn.banks.active m.part m.pepoch = false ∧
      bankNames s.spn.banks.shadow m.part m.pepoch = false ∧ m.tree = true ∧ e.tree = true ∧ e.part = m.part ∧ e.pepoch = m.pepoch) ∧
    (∃ (m : BankEndMsg) (s : State) (x : PTxn), s.spn.banks.ptxns = [x] ∧ m.tree = false ∧ x.tno = m.tno ∧ x.part = m.part ∧ x.pepoch = m.pepoch ∧
      x.entered = false ∧ (x.cells.length ≠ m.cells ∨ (x.target ≠ 0 ∧ (s.bankClosed = true ∨ ∃ p, s.nextPend = some p ∧ p.l < x.target)))) ∧
    (∃ (m : BankEndMsg) (s : State) (x : PTxn), s.spn.banks.ptxns = [x] ∧ m.tree = false ∧ x.tno = m.tno ∧ x.part = m.part ∧ x.pepoch = m.pepoch ∧
      (x.target = 0 ∨ (s.bankClosed = false ∧ ∀ p, s.nextPend = some p → x.target ≤ p.l)) ∧ x.entered = false ∧ x.cells.length = m.cells ∧
      x.mine s = true ∧ (x.writes.map (·.1)).Nodup ∧ ((∀ w ∈ x.writes, partScope w.1 = true))) ∧
    (∃ (m : BankEndMsg) (s : State) (x : PTxn), s.spn.banks.ptxns = [x] ∧ m.tree = false ∧ x.tno = m.tno ∧ x.part = m.part ∧ x.pepoch = m.pepoch ∧
      x.target = 0 ∧ x.entered = false ∧ x.cells.length = m.cells ∧ (x.mine s = false ∨ ¬ (x.writes.map (·.1)).Nodup)) :=
  ⟨⟨z, by decide +kernel⟩,
  ⟨{ zDie 5 with spn.launch.refill := true, spn.banks.heldTxns := [[(5, 6)]] }, by decide +kernel⟩,
  ⟨{ part := 9, pepoch := 0, tree := false, target := 0, tno := 3, off := 0x1000, data := [1, 2] }, zDie 5, by decide +kernel⟩,
  ⟨{ part := 9, pepoch := 0, tree := false, target := 0, tno := 3, off := 0x1000, data := [1, 2] }, { zDie 5 with spn.banks.ptxns := [ptx] }, ptx,
    by decide +kernel⟩,
  ⟨{ part := 8, pepoch := 0, tree := true, target := 0, tno := 3, off := 0, data := [1] },
    { part := 8, pepoch := 0, tree := true, target := 0, tno := 3, cells := 1 }, zDie 5, by decide +kernel⟩,
  ⟨{ part := 8, pepoch := 0, tree := true, target := 0, tno := 3, off := 0, data := [1] },
    { part := 8, pepoch := 0, tree := true, target := 0, tno := 3, cells := 1 }, zDie 5, by decide +kernel⟩,
  ⟨{ part := 9, pepoch := 0, tree := false, target := 0, tno := 3, cells := 3 }, { zDie 5 with spn.banks.ptxns := [ptx] }, ptx, by decide +kernel⟩,
  ⟨{ part := 9, pepoch := 0, tree := false, target := 0, tno := 3, cells := 1 }, { zDie 5 with spn.banks.ptxns := [ptx] }, ptx, by decide +kernel⟩,
  ⟨{ part := 9, pepoch := 0, tree := false, target := 0, tno := 3, cells := 2 },
    { zDie 5 with spn.banks.ptxns := [{ ptx with cells := [(0x1000, [1, 2]), (0x1001, [4])] }] },
    { ptx with cells := [(0x1000, [1, 2]), (0x1001, [4])] }, by decide +kernel⟩⟩

theorem test_hyps_creels_combine_reports :
    (∃ (part : Nat) (port : Nat) (up : Nat) (m : ReadyMsg) (a : ReadyMsg) (other : Nat) (s : State) (x : Tree), part < 0x1_0000 ∧ port < 129 ∧
      other ≠ port ∧ tfind s.crl.ply.trees (plyKey part launchTree) = some x ∧ x.up = some up ∧ x.kids = [other, port] ∧
      tget [] s.crl.combine part = [(other, a)] ∧ a.l = m.l ∧ (s.port .crl up).state = .up ∧ (s.port .crl up).keys.peerUntrusted = false) ∧
    (∃ (part : Nat) (port : Nat) (up : Nat) (other : Nat) (s : State) (x : Tree), part < 0x1_0000 ∧ port < 129 ∧ other ≠ port ∧
      tfind s.crl.ply.trees (plyKey part launchTree) = some x ∧ x.up = some up ∧ x.kids = [other, port] ∧ tget [] s.crl.combine part = []) ∧
    (∃ (part : Nat) (port : Nat) (up : Nat) (m : VoteMsg) (a : VoteMsg) (other : Nat) (s : State) (x : Tree), part < 0x1_0000 ∧ port < 129 ∧
      other ≠ port ∧ tfind s.crl.ply.trees (plyKey part launchTree) = some x ∧ x.up = some up ∧ x.kids = [other, port] ∧
      tget [] s.crl.voting part = [(other, a)] ∧ a.l = m.l ∧ (s.port .crl up).state = .up ∧ (s.port .crl up).keys.peerUntrusted = false) ∧
    (∃ (part : Nat) (port : Nat) (up : Nat) (other : Nat) (s : State) (x : Tree), part < 0x1_0000 ∧ port < 129 ∧ other ≠ port ∧
      tfind s.crl.ply.trees (plyKey part launchTree) = some x ∧ x.up = some up ∧ x.kids = [other, port] ∧ tget [] s.crl.voting part = []) ∧
    (∃ (part : Nat) (port : Nat) (s : State), ((∀ x, tfind s.crl.ply.trees (plyKey part launchTree) = some x → x.up = none ∨ port ∉ x.kids)) ∧
      part < 0x1_0000 ∧ port < 129) ∧
    (∃ (part : Nat) (port : Nat) (s : State), ((∀ x, tfind s.crl.ply.trees (plyKey part launchTree) = some x → x.up = none ∨ port ∉ x.kids)) ∧
      part < 0x1_0000 ∧ port < 129) :=
  ⟨⟨9, 5, 64, rm 4 true, rm 4 false, 3, { kid with crl.combine := [(9, [(3, rm 4 false)])] }, { kids := [3, 5], up := some 64 }, by decide +kernel⟩,
  ⟨9, 5, 64, 3, kid, { kids := [3, 5], up := some 64 }, by decide +kernel⟩,
  ⟨9, 5, 64, vm 4 true, vm 4 false, 3, { kid with crl.voting := [(9, [(3, vm 4 false)])] }, { kids := [3, 5], up := some 64 }, by decide +kernel⟩,
  ⟨9, 5, 64, 3, kid, { kids := [3, 5], up := some 64 }, by decide +kernel⟩,
  ⟨9, 128, zPly [5] none, allSome (by decide +kernel), by decide +kernel⟩,
  ⟨9, 128, zPly [5] none, allSome (by decide +kernel), by decide +kernel⟩⟩

theorem test_hyps_roots_decide_launches :
    (∃ (part : Nat) (port : Nat) (m : ReadyMsg) (s : State) (r : PRoot) (p : RPend), part < 0x1_0000 ∧ port < 129 ∧ s.proot part = some r ∧
      r.launch.pend = [p] ∧ p.l = m.l ∧ p.decided = false ∧ p.reports = [] ∧ s.rootPorts r (r.awaited p) = [port] ∧ m.ready = true ∧
      s.ownReason r p = none) ∧
    (∃ (part : Nat) (port : Nat) (m : ReadyMsg) (s : State) (r : PRoot) (p : RPend), part < 0x1_0000 ∧ port < 129 ∧ s.proot part = some r ∧
      r.launch.pend = [p] ∧ p.l = m.l ∧ p.decided = false ∧ p.reports = [] ∧ s.rootPorts r (r.awaited p) = [port] ∧
      (m.ready = false ∨ (s.ownReason r p).isSome = true) ∧ p.slips < r.slipMax) ∧
    (∃ (part : Nat) (port : Nat) (m : ReadyMsg) (s : State) (r : PRoot) (p : RPend), part < 0x1_0000 ∧ port < 129 ∧ s.proot part = some r ∧
      r.launch.pend = [p] ∧ p.l = m.l ∧ p.decided = false ∧ p.reports = [] ∧ s.rootPorts r (r.awaited p) = [port] ∧
      (m.ready = false ∨ (s.ownReason r p).isSome = true) ∧ r.slipMax ≤ p.slips) ∧
    (∃ (part : Nat) (l : Nat) (s : State) (r : PRoot) (p : RPend) (n : Nat), part < 0x1_0000 ∧ s.proot part = some r ∧
      100 * l ≤ 100 * (s.crlDtc part + 306) + r.dn ∧ r.launch.pend = [p] ∧ p.l = l ∧ p.decided = false ∧ p.reports = [] ∧
      n ∈ s.rootPorts r (r.awaited p) ∧ p.slips < r.slipMax ∧ r.fast = false) ∧
    (∃ (part : Nat) (l : Nat) (s : State), ((∀ r, s.proot part = some r → 100 * (s.crlDtc part + 306) + r.dn < 100 * l)) ∧ part < 0x1_0000) ∧
    (∃ (part : Nat) (kind : Nat) (s : State) (r : PRoot), part < 0x1_0000 ∧ kind < 256 ∧ s.proot part = some r) ∧
    (∃ (part : Nat) (port : Nat) (kind : Nat) (s : State), part < 0x1_0000 ∧ port < 129 ∧ kind < 256 ∧ s.proot part = none) ∧
    (∃ (part : Nat) (port : Nat) (kind : Nat) (s : State), part < 0x1_0000 ∧ port < 129 ∧ kind < 256 ∧ s.proot part = none) :=
  ⟨⟨9, 5, rm 60000 true, zRoot 50000 { root1 with launch.pend := [rp 60000 4] }, { root1 with launch.pend := [rp 60000 4] }, rp 60000 4,
    by decide +kernel⟩,
  ⟨9, 5, rm 60000 false, zRoot 50000 { root1 with launch.pend := [rp 60000 4] }, { root1 with launch.pend := [rp 60000 4] }, rp 60000 4,
    by decide +kernel⟩,
  ⟨9, 5, rm 200000 false, zRoot 5 { root1 with slipMax := 0, launch.pend := [rp 200000 4] },
    { root1 with slipMax := 0, launch.pend := [rp 200000 4] }, rp 200000 4, by decide +kernel⟩,
  ⟨9, 60000, zRoot 59694 { root1 with launch.pend := [rp 60000 4] }, { root1 with launch.pend := [rp 60000 4] }, rp 60000 4, 5, by decide +kernel⟩,
  ⟨0, 0, z, allSome (by decide +kernel), by decide +kernel⟩,
  ⟨9, 0, zRoot 59693 { root1 with launch.pend := [rp 60000 4] }, { root1 with launch.pend := [rp 60000 4] }, by decide +kernel⟩,
  ⟨65535, 128, 2, z, by decide +kernel⟩,
  ⟨65535, 128, 2, z, by decide +kernel⟩⟩

theorem test_hyps_roots_doff_and_confirm :
    (∃ (part : Nat) (s : State) (r : PRoot) (p : RPend) (rest : List RPend), part < 0x1_0000 ∧ s.proot part = some r ∧ r.launch.pend = p :: rest ∧
      p.decided = true ∧ p.launchAt ≤ s.crlDtc part + 256 ∧ r.tearC ≠ some p.c ∧ r.tearing = false) ∧
    (∃ (part : Nat) (s : State) (r : PRoot) (p : RPend) (rest : List RPend), part < 0x1_0000 ∧ s.proot part = some r ∧ r.launch.pend = p :: rest ∧
      p.decided = true ∧ p.launchAt ≤ s.crlDtc part + 256 ∧ r.tearC = some p.c) ∧
    (∃ (part : Nat) (s : State), part < 0x1_0000 ∧ ∀ r p, s.proot part = some r → r.launch.pend.head? = some p →
      p.decided = false ∨ s.crlDtc part + 256 < p.launchAt) ∧
    (∃ (part : Nat) (hea : Nat) (k : Nat) (pl : Plane) (s : State) (r : PRoot) (m : Member), part < 0x1_0000 ∧ k < 16 ∧ s.proot part = some r ∧
      r.members = [m] ∧ m.hea = hea ∧ ((pl = .b ∧ m.confA = true) ∨ (pl = .a ∧ m.confB = true)) ∧ r.inService = false ∧ r.tearing = false) ∧
    (∃ (part : Nat) (hea : Nat) (k : Nat) (s : State) (r : PRoot), part < 0x1_0000 ∧ k < 16 ∧ s.proot part = some r ∧
      (r.inService = true ∨ r.tearing = true ∨ (∃ x ∈ r.members, x.hea ≠ hea ∧ (x.confA = false ∨ x.confB = false)))) ∧
    (∃ (part : Nat) (k : Nat) (s : State), part < 0x1_0000 ∧ k < 16 ∧ s.proot part = none) :=
  ⟨⟨9, zRoot 60244 { root1 with launch.pend := [{ rp 60000 4 with decided := true, launchAt := 60500 }] },
    { root1 with launch.pend := [{ rp 60000 4 with decided := true, launchAt := 60500 }] }, { rp 60000 4 with decided := true, launchAt := 60500 },
    [], by decide +kernel⟩,
  ⟨9,
    zRoot 4744 { root1 with tearing := true, tearC := some 4, launch.pend := [{ rp 5000 4 with decided := true, launchAt := 5000, who := [0x100] }] },
    { root1 with tearing := true, tearC := some 4, launch.pend := [{ rp 5000 4 with decided := true, launchAt := 5000, who := [0x100] }] },
    { rp 5000 4 with decided := true, launchAt := 5000, who := [0x100] }, [], by decide +kernel⟩,
  ⟨9, zRoot 5 root1, by decide, fun r p h g => by obtain rfl : root1 = r := Option.some.inj h; cases g⟩,
  ⟨9, 0x100, 9, .b, zRoot 5 { root1 with inService := false, members := [{ hea := 0x100, rank := 0, confA := true }] },
    { root1 with inService := false, members := [{ hea := 0x100, rank := 0, confA := true }] }, { hea := 0x100, rank := 0, confA := true },
    by decide +kernel⟩,
  ⟨9, 0x100, 3, zRoot 5 root1, root1, by decide +kernel⟩,
  ⟨65535, 0, z, by decide +kernel⟩⟩

theorem test_hyps_members_vote_and_take_verdicts :
    (∃ (s : State) (u : Uncommitted) (x : Nat) (n : Nat), n = planeNat s.spn.banks.plane ∧ s.spn.launch.past = [u] ∧ u.voted = false ∧
      u.endedAt = some x ∧ x + 1100 ≤ (dtcOf (s.gt .spn) s.spn.banks.epochS s.spn.banks.dcor).getD 0 ∧ (s.port .spn n).state = .up ∧
      (s.port .spn n).keys.peerUntrusted = false) ∧
    (∃ (s : State), ((∀ u ∈ s.spn.launch.past, (u.voted = true → u.part = s.serves.1 ∧ u.dead = false) ∧
      (u.voted = false → ∀ x, u.endedAt = some x → (dtcOf (s.gt .spn) s.spn.banks.epochS s.spn.banks.dcor).getD 0 < x + 1100)))) ∧
    (∃ (m : CommitMsg) (s : State) (u : Uncommitted), m.committed = true ∧ s.spn.launch.past.find? (fun y => y.l = m.l) = some u) ∧
    (∃ (m : CommitMsg) (s : State), m.committed = true ∧ ((∀ u ∈ s.spn.launch.past, u.l ≠ m.l))) ∧
    (∃ (m : CommitMsg) (s : State) (u : Uncommitted) (ws : List Uncommitted), m.committed = false ∧ m.rl ≠ 0 ∧ s.spn.launch.past = u :: ws ∧
      u.l = m.l ∧ ws.length ≤ 1 ∧ ((∀ v ∈ ws, m.l < v.l))) ∧
    (∃ (m : CommitMsg) (s : State) (u : Uncommitted) (ws : List Uncommitted), m.committed = false ∧ m.rl = 0 ∧ s.spn.launch.past = u :: ws ∧
      u.l = m.l ∧ ws.length ≤ 1 ∧ ((∀ v ∈ ws, m.l < v.l))) ∧
    (∃ (s : State), s.spnPart ≠ 0) ∧
    (∃ (s : State), s.spnPart = 0) :=
  ⟨⟨{ zDie 10000 with spn.launch.past := [{ unc 5000 with endedAt := some 8900 }] }, { unc 5000 with endedAt := some 8900 }, 8900, _, rfl,
    by decide +kernel⟩,
  ⟨{ zDie 9999 with spn.launch.past := [{ unc 5000 with endedAt := some 8900 }] }, by decide +kernel⟩,
  ⟨{ l := 5000, committed := true, cause := 0, c := 4, hea := 0, rl := 0, sigma := 0, rc := 0 },
    { zDie 9999 with spn.launch.past := [{ unc 5000 with endedAt := some 8900 }] }, { unc 5000 with endedAt := some 8900 }, by decide +kernel⟩,
  ⟨{ l := 5000, committed := true, rl := 0, cause := 3, c := 4, hea := 0x100, sigma := 2, rc := 7 }, zDie 5, by decide +kernel⟩,
  ⟨{ l := 5000, committed := false, rl := 9000, cause := 3, c := 4, hea := 0x100, sigma := 2, rc := 7 },
    { zDie 5 with spn.launch.past := [unc 5000] }, unc 5000, [], by decide +kernel⟩,
  ⟨{ l := 5000, committed := false, rl := 0, cause := 3, c := 4, hea := 0x100, sigma := 2, rc := 7 },
    { zDie 5 with spn.launch.past := [unc 5000, unc 6000] }, unc 5000, [unc 6000], by decide +kernel⟩,
  ⟨{ zDie 9999 with spn.launch.past := [{ unc 5000 with endedAt := some 8900 }] }, by decide +kernel⟩,
  ⟨z, by decide +kernel⟩⟩

theorem test_hyps_roots_decide_steps :
    (∃ (part : Nat) (port : Nat) (m : VoteMsg) (s : State) (r : PRoot) (x : RStep), part < 0x1_0000 ∧ port < 129 ∧ s.proot part = some r ∧
      r.launch.run = [x] ∧ x.l = m.l ∧ x.endD.isSome = true ∧ x.ignore = false ∧ x.votes = [] ∧ x.mustFail = none ∧ s.rootPorts r x.who = [port] ∧
      m.ok = true) ∧
    (∃ (part : Nat) (port : Nat) (m : VoteMsg) (s : State) (r : PRoot) (x : RStep), part < 0x1_0000 ∧ port < 129 ∧ s.proot part = some r ∧
      r.launch.run = [x] ∧ x.l = m.l ∧ x.endD.isSome = true ∧ x.ignore = false ∧ x.votes = [] ∧ x.mustFail = none ∧ s.rootPorts r x.who = [port] ∧
      m.ok = false ∧ m.cause ≠ 11 ∧ m.noRetry = false ∧ x.attempt < 7 ∧ r.launch.holding = false ∧ r.tearing = false) ∧
    (∃ (part : Nat) (port : Nat) (m : VoteMsg) (s : State) (r : PRoot) (x : RStep), part < 0x1_0000 ∧ port < 129 ∧ s.proot part = some r ∧
      r.launch.run = [x] ∧ x.l = m.l ∧ x.endD.isSome = true ∧ x.ignore = false ∧ x.votes = [] ∧ x.mustFail = none ∧ s.rootPorts r x.who = [port] ∧
      m.ok = false ∧ m.cause ≠ 11 ∧ (m.noRetry = true ∨ 7 ≤ x.attempt) ∧ r.launch.holding = false ∧ r.tearing = false) ∧
    (∃ (part : Nat) (l : Nat) (d : Nat) (n : Nat) (s : State) (r : PRoot) (x : RStep), part < 0x1_0000 ∧ s.proot part = some r ∧ r.launch.run = [x] ∧
      x.l = l ∧ x.endD = some d ∧ d + r.tcmt ≤ s.crlDtc part ∧ x.ignore = false ∧ x.votes = [] ∧ x.mustFail = none ∧ n ∈ s.rootPorts r x.who ∧
      x.attempt < 7 ∧ r.launch.holding = false ∧ r.tearing = false) ∧
    (∃ (part : Nat) (l : Nat) (s : State), ((∀ r, s.proot part = some r → ∀ x ∈ r.launch.run, x.l = l → ∀ d, x.endD = some d →
      s.crlDtc part < d + r.tcmt)) ∧ part < 0x1_0000) ∧
    (∃ (part : Nat) (port : Nat) (s : State), part < 0x1_0000 ∧ port < 129 ∧ s.proot part = none) :=
  ⟨⟨9, 5, vm 60000 true, zRoot 61000 { root1 with launch.run := [rst 60000 4], launch.commitNo := 9 },
    { root1 with launch.run := [rst 60000 4], launch.commitNo := 9 }, rst 60000 4, by decide +kernel⟩,
  ⟨9, 5, vm 60000 false, zRoot 61000 { root1 with launch.run := [rst 60000 4], launch.commitNo := 2 ^ 32 - 1 },
    { root1 with launch.run := [rst 60000 4], launch.commitNo := 2 ^ 32 - 1 }, rst 60000 4, by decide +kernel⟩,
  ⟨9, 5, { vm 5000 false with noRetry := true }, zRoot 5 { root1 with launch.run := [rst 5000 4], launch.commitNo := 4, launch.pend := [rp 9000 5] },
    { root1 with launch.run := [rst 5000 4], launch.commitNo := 4, launch.pend := [rp 9000 5] }, rst 5000 4, by decide +kernel⟩,
  ⟨9, 60000, 100, 5, zRoot 61000 { root1 with launch.run := [rst 60000 4], launch.commitNo := 9 },
    { root1 with launch.run := [rst 60000 4], launch.commitNo := 9 }, rst 60000 4, by decide +kernel⟩,
  ⟨0, 0, z, allSome (by decide +kernel), by decide +kernel⟩,
  ⟨65535, 128, z, by decide +kernel⟩⟩

theorem test_hyps_trees_break_and_roots_take_over :
    (∃ (part : Nat) (port : Nat), part < 0x1_0000 ∧ port < 129) ∧
    (∃ (part : Nat) (s : State) (r : PRoot), part < 0x1_0000 ∧ s.proot part = some r ∧ r.repair = true ∧ r.broken = [] ∧ ((∀ h ∈ r.heas,
      (routePort s.cc.topo h).isSome = true))) ∧
    (∃ (part : Nat) (s : State), ((∀ r, s.proot part = some r → r.repair = false)) ∧ part < 0x1_0000) ∧
    (∃ (part : Nat) (hea : Nat) (s : State), part < 0x1_0000 ∧ hea < 2 ^ 32 ∧ tfind s.crl.mirror part = none) ∧
    (∃ (part : Nat) (hea : Nat) (s : State) (x : Mirror) (m : Member), part < 0x1_0000 ∧ hea < 2 ^ 32 ∧ tfind s.crl.mirror part = some x ∧
      x.root.members = [m] ∧ m.hea = hea ∧ s.pxLost = true) ∧
    (∃ (part : Nat) (hea : Nat) (s : State) (x : Mirror), part < 0x1_0000 ∧ hea < 2 ^ 32 ∧ tfind s.crl.mirror part = some x ∧
      (s.pxLost = false ∨ (tget [] s.crl.lostRep part = [] ∧ 2 ≤ x.root.members.length))) :=
  ⟨⟨9, 128, by decide +kernel⟩,
  ⟨9, zRoot 5 { root1 with repair := true, lostMembers := [5] }, { root1 with repair := true, lostMembers := [5] }, by decide +kernel⟩,
  ⟨0, z, allSome (by decide +kernel), by decide +kernel⟩,
  ⟨9, 0x100, zRoot 5 root1, by decide +kernel⟩,
  ⟨9, 0x100, { z with crl.mirror := [(9, { root := root1, cm := 5 })], cc.time.tick := 1000000 }, { root := root1, cm := 5 },
    { hea := 0x100, rank := 0 }, by decide +kernel⟩,
  ⟨9, 0x100, { z with crl.mirror := [(9, { root := root1, cm := 5 })], cc.time.tick := 999999 }, { root := root1, cm := 5 }, by decide +kernel⟩⟩

theorem test_hyps_regions_stretch_and_settle_1 :
    (∃ (c : Nat) (pushes : List Nat) (pops : List Nat) (s : State), c < 32 ∧ ((∀ d ∈ pushes, d < 32)) ∧ ((∀ d ∈ pops, d < 32)) ∧ s.inStep c = false) ∧
    (∃ (c : Nat) (x : Nat) (pushes : List Nat) (pops : List Nat) (s : State), c < 32 ∧ ((∀ d ∈ pushes, d < 32)) ∧ ((∀ d ∈ pops, d < 32)) ∧
      s.inStep c = true ∧ s.stretchThr ≤ x) ∧
    (∃ (w : Nat) (r : Nat) (s : State), s.crossing w r = true ∧ w < 32 ∧ r < 32) ∧
    (∃ (w : Nat) (r : Nat) (s : State), s.crossing w r = false) ∧
    (∃ (c : Nat) (cyc : Nat) (x : Nat) (pushes : List Nat) (pops : List Nat) (s : State), c < 32 ∧ ((∀ d ∈ pushes, d < 32)) ∧ ((∀ d ∈ pops,
      d < 32)) ∧ s.inStep c = true ∧ x < s.stretchThr ∧ (s.region c).cyc ≤ cyc ∧ s.debtAt c (cyc + 1) ≤ 33) ∧
    (∃ (c : Nat) (cyc : Nat) (x : Nat) (s : State), c < 32 ∧ s.inStep c = true ∧ x < s.stretchThr ∧ (s.region c).cyc ≤ cyc ∧
      33 < s.debtAt c (cyc + 1)) ∧
    (∃ (a : Nat) (b : Nat) (full : Bool) (cyc : Nat) (c : Nat) (s : State), c = (if full then a else b) ∧ a < 32 ∧ b < 32 ∧ s.inStep c = true ∧
      s.crossing a b = true ∧ (s.region c).cyc < cyc ∧ s.debtAt c cyc ≤ 33) ∧
    (∃ (a : Nat) (b : Nat) (full : Bool) (cyc : Nat) (c : Nat) (s : State), c = (if full then a else b) ∧ a < 32 ∧ b < 32 ∧ s.inStep c = true ∧
      s.crossing a b = true ∧ (s.region c).cyc < cyc ∧ 33 < s.debtAt c cyc ∧ (s.reg .spn 0x0A10).testBit 31 = false) ∧
    (∃ (a : Nat) (b : Nat) (full : Bool) (cyc : Nat) (c : Nat) (s : State), c = (if full then a else b) ∧ a < 32 ∧ b < 32 ∧ s.inStep c = true ∧
      s.crossing a b = true ∧ cyc ≤ (s.region c).cyc) ∧
    (∃ (a : Nat) (b : Nat) (full : Bool) (s : State), a < 32 ∧ b < 32 ∧ (s.inStep (if full then a else b) = false ∨ s.crossing a b = false)) ∧
    (∃ (c : Nat) (s : State), c < 32 ∧ (s.region c).stopped = true) ∧
    (∃ (c : Nat) (s : State), c < 32 ∧ (s.region c).stopped = false) :=
  ⟨⟨2, [], [], z, by decide +kernel⟩,
  ⟨2, 40, [], [], zStep, by decide +kernel⟩,
  ⟨2, 5, { z with spn.clocks.regions := [(2, { present := true, gated := false }), (5, { present := true, gated := false, cyc := 0 })] },
    by decide +kernel⟩,
  ⟨0, 0, z, by decide +kernel⟩,
  ⟨2, 0, 31, [], [], zStep, by decide +kernel⟩,
  ⟨2, 0, 3, { zStep with spn.clocks.regions := [(2, { present := true, gated := false, debt := 34 })] }, by decide +kernel⟩,
  ⟨2, 5, true, 4, _,
    { zStep with spn.clocks.regions := [(2, { present := true, gated := false }), (5, { present := true, gated := false, cyc := 0 })] }, rfl,
    by decide +kernel⟩,
  ⟨5, 2, false, 4, _, { zStep with spn.clocks.regions := [(2, { present := true, gated := false, debt := 50 }), (5, { present := true })] }, rfl,
    by decide +kernel⟩,
  ⟨2, 5, true, 4, _, { zStep with spn.clocks.regions := [(2, { present := true, gated := false, cyc := 9 }), (5, { present := true })] }, rfl,
    by decide +kernel⟩,
  ⟨2, 5, true, zStep, by decide +kernel⟩,
  ⟨2, { z with spn.clocks.regions := [(2, { stopped := true })] }, by decide +kernel⟩,
  ⟨31, z, by decide +kernel⟩⟩

theorem test_hyps_regions_stretch_and_settle_2 :
    (∃ (c : Nat) (d : Nat) (s : State), c < 32 ∧ (s.region c).stopped = true ∧ s.spn.clocks.doffAt = some d ∧ d + 190 ≤ s.sc.time.tick ∧
      c ∉ s.spn.clocks.settleFail) ∧
    (∃ (c : Nat) (s : State), c < 32 ∧ ((s.region c).stopped = false ∨ c ∈ s.spn.clocks.settleFail ∨ (∀ d, s.spn.clocks.doffAt = some d →
      s.sc.time.tick < d + 190))) ∧
    (∃ (part : Nat) (v : Nat) (s : State) (r : PRoot), part < 0x1_0000 ∧ v < 16 ∧ s.proot part = some r) ∧
    (∃ (part : Nat) (v : Nat) (s : State), part < 0x1_0000 ∧ v < 16 ∧ s.proot part = none) :=
  ⟨⟨2, 0, { z with spn.clocks.regions := [(2, { stopped := true })], spn.clocks.doffAt := some 0, sc.time.tick := 190 }, by decide +kernel⟩,
  ⟨2, { z with spn.clocks.regions := [(2, { stopped := true })] }, by decide +kernel⟩,
  ⟨9, 3, zRoot 5 root1, root1, by decide +kernel⟩,
  ⟨0, 0, z, by decide +kernel⟩⟩

theorem test_hyps_core_operations_queue :
    (∃ (core : Nat) (a : Word64) (s : State) (op : Nat) (v : Nat) (pid : Nat), op = a.toNat % 16 ∧ v = a.toNat / 256 % 2 ^ 20 ∧
      s.corePresent core = true ∧ s.syncStalled core = false ∧ s.syncBusy core = false ∧ ((op ∈ [0x4, 0x5, 0x6] →
      (s.cport core).barPending = false)) ∧ s.fenced core = false ∧ a.toNat / 16 % 16 = 0 ∧ a.toNat / 2 ^ 28 % 16 = 0 ∧ 1 ≤ op ∧ op ≤ 0xA ∧
      s.xlatPid (s.ctxOf core) v = some pid ∧ (tget [] s.spn.sync.queues (pid % 16)).length < 64 ∧
      (s.fastMode = false ∨ (s.reg .spn 0x0D04).testBit 3 = false)) ∧
    (∃ (core : Nat) (a : Word64) (s : State) (op : Nat) (v : Nat) (pid : Nat), op = a.toNat % 16 ∧ v = a.toNat / 256 % 2 ^ 20 ∧
      s.corePresent core = true ∧ s.syncStalled core = false ∧ s.syncBusy core = false ∧ ((op ∈ [0x4, 0x5, 0x6] →
      (s.cport core).barPending = false)) ∧ s.fenced core = false ∧ a.toNat / 16 % 16 = 0 ∧ a.toNat / 2 ^ 28 % 16 = 0 ∧ 1 ≤ op ∧ op ≤ 0xA ∧
      s.xlatPid (s.ctxOf core) v = some pid ∧ (tget [] s.spn.sync.queues (pid % 16)).length < 64) ∧
    (∃ (core : Nat) (a : Word64) (s : State) (op : Nat) (v : Nat) (pid : Nat), op = a.toNat % 16 ∧ v = a.toNat / 256 % 2 ^ 20 ∧
      s.corePresent core = true ∧ s.syncStalled core = false ∧ s.syncBusy core = false ∧ ((op ∈ [0x4, 0x5, 0x6] →
      (s.cport core).barPending = false)) ∧ s.fenced core = false ∧ a.toNat / 16 % 16 = 0 ∧ a.toNat / 2 ^ 28 % 16 = 0 ∧ 1 ≤ op ∧ op ≤ 0xA ∧
      s.xlatPid (s.ctxOf core) v = some pid ∧ 64 ≤ (tget [] s.spn.sync.queues (pid % 16)).length) ∧
    (∃ (core : Nat) (a : Word64) (s : State) (op : Nat) (v : Nat) (st : Nat) (busy : Bool), op = a.toNat % 16 ∧ v = a.toNat / 256 % 2 ^ 20 ∧
      busy = (s.syncBusy core || ((4 ≤ op && op ≤ 6) && (s.cport core).barPending)) ∧ s.corePresent core = true ∧ s.syncStalled core = false ∧
      op ≠ 0xC ∧ ((busy = true ∧ st = 0x0A) ∨ (busy = false ∧ s.fenced core = true ∧ st = 0x0C) ∨ (busy = false ∧ s.fenced core = false ∧
      (a.toNat / 16 % 16 ≠ 0 ∨ a.toNat / 2 ^ 28 % 16 ≠ 0 ∨ op = 0 ∨ 0xA < op) ∧ st = 0x08) ∨ (busy = false ∧ s.fenced core = false ∧
      a.toNat / 16 % 16 = 0 ∧ a.toNat / 2 ^ 28 % 16 = 0 ∧ 1 ≤ op ∧ op ≤ 0xA ∧ s.xlatPid (s.ctxOf core) v = none ∧ st = 0x06)) ∧ op ∉ [0x1, 0x2, 0x3,
      0xA]) ∧
    (∃ (core : Nat) (a : Word64) (s : State) (op : Nat) (v : Nat) (st : Nat) (busy : Bool), op = a.toNat % 16 ∧ v = a.toNat / 256 % 2 ^ 20 ∧
      busy = (s.syncBusy core || ((4 ≤ op && op ≤ 6) && (s.cport core).barPending)) ∧ s.corePresent core = true ∧ s.syncStalled core = false ∧
      op ≠ 0xC ∧ ((busy = true ∧ st = 0x0A) ∨ (busy = false ∧ s.fenced core = true ∧ st = 0x0C) ∨ (busy = false ∧ s.fenced core = false ∧
      (a.toNat / 16 % 16 ≠ 0 ∨ a.toNat / 2 ^ 28 % 16 ≠ 0 ∨ op = 0 ∨ 0xA < op) ∧ st = 0x08) ∨ (busy = false ∧ s.fenced core = false ∧
      a.toNat / 16 % 16 = 0 ∧ a.toNat / 2 ^ 28 % 16 = 0 ∧ 1 ≤ op ∧ op ≤ 0xA ∧ s.xlatPid (s.ctxOf core) v = none ∧ st = 0x06))) ∧
    (∃ (core : Nat) (s : State), core < 2048 ∧ (s.corePresent core = false ∨ s.syncStalled core = true)) ∧
    (∃ (core : Nat) (a : Word64) (op : Nat), op = a.toNat % 16 ∧ core < 2048 ∧ op = 0xC) :=
  ⟨⟨12, BitVec.ofNat 64 (1 + 7 * 256 + 3 * 2 ^ 32 + 5 * 2 ^ 48 + 0), zS, _, _, 4, rfl, rfl, by decide +kernel⟩,
  ⟨12, BitVec.ofNat 64 (1 + 7 * 256 + 3 * 2 ^ 32 + 5 * 2 ^ 48 + 0), zS, _, _, 4, rfl, rfl, by decide +kernel⟩,
  ⟨12, BitVec.ofNat 64 (1 + 7 * 256 + 3 * 2 ^ 32 + 5 * 2 ^ 48 + 0), { zS with spn.sync.queues := [(4, List.replicate 64 (qop 1 3))] }, _, _, 4, rfl,
    rfl, by decide +kernel⟩,
  ⟨12, BitVec.ofNat 64 (4 + 7 * 256 + 3 * 2 ^ 32 + 5 * 2 ^ 48 + 0), { zS with spn.sync.ports := [(12, { pending := true })] }, _, _, 10, _, rfl, rfl,
    rfl, by decide +kernel⟩,
  ⟨12, BitVec.ofNat 64 (4 + 7 * 256 + 3 * 2 ^ 32 + 5 * 2 ^ 48 + 0), { zS with spn.sync.ports := [(12, { pending := true })] }, _, _, 10, _, rfl, rfl,
    rfl, by decide +kernel⟩,
  ⟨12, { zS with spn.absent := [12] }, by decide +kernel⟩,
  ⟨12, BitVec.ofNat 64 (12 + 7 * 256 + 3 * 2 ^ 32 + 5 * 2 ^ 48 + 0), _, rfl, by decide +kernel⟩⟩

theorem test_hyps_banks_serve_operations :
    (∃ (n : Nat) (s : State), n < 16 ∧ (tget [] s.spn.sync.queues n = [] ∨ s.spn.sync.frozen = true)) ∧
    (∃ (n : Nat) (s : State) (q : QOp) (rest : List QOp), n < 16 ∧ tget [] s.spn.sync.queues n = q :: rest ∧ s.spn.sync.frozen = false) ∧
    (∃ (n : Nat) (s : State) (q : QOp) (rest : List QOp) (o : Obj), n < 16 ∧ tget [] s.spn.sync.queues n = q :: rest ∧ s.spn.sync.frozen = false ∧
      s.xlatPid q.ctx q.vid = some q.pid ∧ s.obj q.pid = some o ∧ o.typ = .count ∧ o.orphaned = false ∧ q.op = 0x1 ∧ q.arg ≠ 0 ∧
      o.value + q.arg < 2 ^ 64 ∧ s.waitersOf q.pid = [] ∧ q.sendDtc = none ∧ q.cmd = none) ∧
    (∃ (n : Nat) (s : State) (q : QOp) (rest : List QOp) (o : Obj), n < 16 ∧ tget [] s.spn.sync.queues n = q :: rest ∧ s.spn.sync.frozen = false ∧
      tget [] s.spn.sync.stalled n = [] ∧ s.xlatPid q.ctx q.vid = some q.pid ∧ s.obj q.pid = some o ∧ o.typ = .count ∧ o.orphaned = false ∧
      q.op = 0x4 ∧ q.arg ≠ 0 ∧ q.arg ≤ o.value ∧ s.waitersOf q.pid = []) ∧
    (∃ (n : Nat) (s : State) (q : QOp) (rest : List QOp) (o : Obj), n < 16 ∧ tget [] s.spn.sync.queues n = q :: rest ∧ s.spn.sync.frozen = false ∧
      tget [] s.spn.sync.stalled n = [] ∧ s.xlatPid q.ctx q.vid = some q.pid ∧ s.obj q.pid = some o ∧ o.typ = .count ∧ o.orphaned = false ∧
      q.op = 0x5 ∧ q.arg ≠ 0 ∧ q.arg ≤ o.value) ∧
    (∃ (n : Nat) (s : State) (q : QOp) (rest : List QOp) (o : Obj), n < 16 ∧ tget [] s.spn.sync.queues n = q :: rest ∧ s.spn.sync.frozen = false ∧
      tget [] s.spn.sync.stalled n = [] ∧ s.xlatPid q.ctx q.vid = some q.pid ∧ s.obj q.pid = some o ∧ o.typ = .count ∧ o.orphaned = false ∧
      q.op = 0x5 ∧ q.arg ≠ 0 ∧ o.value < q.arg ∧ q.timeout % 4096 ≠ 0) :=
  ⟨⟨15, z, by decide +kernel⟩,
  ⟨4, { zS with spn.sync.queues := [(4, [qop 1 3])] }, qop 1 3, [], by decide +kernel⟩,
  ⟨4, { zS with spn.sync.objs := [(4, { obj1 with value := 5 })], spn.sync.queues := [(4, [qop 1 3])] }, qop 1 3, [], { obj1 with value := 5 },
    by decide +kernel⟩,
  ⟨4, { zS with spn.sync.objs := [(4, { obj1 with value := 5 })], spn.sync.queues := [(4, [qop 4 3])] }, qop 4 3, [], { obj1 with value := 5 },
    by decide +kernel⟩,
  ⟨4, { zS with spn.sync.objs := [(4, { obj1 with value := 5 })], spn.sync.queues := [(4, [qop 5 5])] }, qop 5 5, [], { obj1 with value := 5 },
    by decide +kernel⟩,
  ⟨4, { zS with spn.sync.objs := [(4, { obj1 with value := 5 })], spn.sync.queues := [(4, [qop 5 6])] }, qop 5 6, [], { obj1 with value := 5 },
    by decide +kernel⟩⟩

theorem test_hyps_waits_expire_and_owners_reset :
    (∃ (core : Nat) (s : State), ((∀ w, tfind s.spn.sync.waiters core = some w → s.sc.time.tick < w.expiry)) ∧ core < 2048) ∧
    (∃ (core : Nat) (s : State) (w : Waiter), core < 2048 ∧ tfind s.spn.sync.waiters core = some w ∧ w.expiry ≤ s.sc.time.tick ∧
      (tget [] s.spn.sync.queues (w.pid % 16) = [] ∨ s.spn.sync.frozen = true)) ∧
    (∃ (core : Nat) (s : State) (w : Waiter) (q : QOp) (rest : List QOp) (o : Obj), core < 2048 ∧ s.spn.sync.waiters = [(core, w)] ∧
      w.expiry ≤ s.sc.time.tick ∧ s.sc.time.tick ≠ 0 ∧ tget 0 s.spn.sync.served (w.pid % 16) ≠ s.sc.time.tick ∧ s.spn.sync.frozen = false ∧
      tget [] s.spn.sync.queues (w.pid % 16) = q :: rest ∧ tget [] s.spn.sync.stalled (w.pid % 16) = [] ∧ q.pid = w.pid ∧
      s.xlatPid q.ctx q.vid = some q.pid ∧ s.obj q.pid = some o ∧ o.typ = .count ∧ o.orphaned = false ∧ q.op = 0x1 ∧ q.arg ≠ 0 ∧ w.op = 0x5 ∧
      w.arg ≤ o.value + q.arg ∧ o.value + q.arg < 2 ^ 64 ∧ q.sendDtc = none ∧ q.cmd = none) ∧
    (∃ (core : Nat), core < 2048) ∧
    (∃ (core : Nat), core < 2048) ∧
    (∃ (core : Nat) (pid : Nat) (s : State) (o : Obj), core < 2048 ∧ s.obj pid = some o ∧ o.orphaned = false ∧ o.ownerCtx = s.ctxOf core ∧
      o.owner = s.logOf core ∧ s.spn.sync.queues = []) ∧
    (∃ (core : Nat) (s : State), core < 2048 ∧ s.spn.sync.queues = []) ∧
    (∃ (s : State), s.spn.sync.snaps = []) ∧
    (∃ (s : State) (pid : Nat) (v : Nat) (x : Nat) (y : Nat) (o : Obj), x = y ∧ v = o.base ∧ s.spn.sync.snaps = [(pid, v, x, y)] ∧
      s.obj pid = some o) ∧
    (∃ (s : State) (pid : Nat) (v : Nat) (x : Nat) (y : Nat) (o : Obj), s.spn.sync.snaps = [(pid, v, x, y)] ∧ s.obj pid = some o ∧
      ((x ≠ y ∨ v ≠ o.base))) :=
  ⟨⟨2047, zS, allSome (by decide +kernel), by decide +kernel⟩,
  ⟨12,
    { zS with sc.time.tick := 100, spn.sync.waiters := [(12, { logical := 12, ctx := 0, op := 5, vid := 7, pid := 4, arg := 9, operand := 0, expiry := 100, regTick := 5, regDtc := 0 })] },
    { logical := 12, ctx := 0, op := 5, vid := 7, pid := 4, arg := 9, operand := 0, expiry := 100, regTick := 5, regDtc := 0 }, by decide +kernel⟩,
  ⟨12,
    { zS with sc.time.tick := 100, spn.sync.queues := [(4, [qop 1 3])], spn.sync.waiters := [(12, { logical := 12, ctx := 0, op := 5, vid := 7, pid := 4, arg := 8, operand := 0, expiry := 100, regTick := 5, regDtc := 0 })] },
    { logical := 12, ctx := 0, op := 5, vid := 7, pid := 4, arg := 8, operand := 0, expiry := 100, regTick := 5, regDtc := 0 }, qop 1 3, [], obj1,
    by decide +kernel⟩,
  ⟨2047, by decide +kernel⟩,
  ⟨2047, by decide +kernel⟩,
  ⟨12, 4, { zS with spn.sync.objs := [(4, { obj1 with ownerCtx := 0 })] }, { obj1 with ownerCtx := 0 }, by decide +kernel⟩,
  ⟨2047, zS, by decide +kernel⟩,
  ⟨z, by decide +kernel⟩,
  ⟨{ zS with spn.sync.objs := [(4, { obj1 with mismatch := true })], spn.sync.snaps := [(4, 0, 3, 3)] }, 4, _, _, 3, { obj1 with mismatch := true },
    rfl, rfl, by decide +kernel⟩,
  ⟨{ zS with spn.sync.snaps := [(4, 7, 3, 3)] }, 4, 7, 3, 3, obj1, by decide +kernel⟩⟩

theorem test_hyps_remote_signals_and_taps_1 :
    (∃ (m : SignalMsg) (s : State) (q : QOp) (o : Obj), m.port < 2 ∧
      q = { pid := q.pid, ctx := m.ctx % 64, vid := m.vid % 2 ^ 20, op := m.op % 256, arg := m.arg % 65536, operand := m.operand.toNat, src := m.src % 2 ^ 32, core := m.core % 65536, sendDtc := some (m.sendDtc, 7 - m.hops), credit := some m.port } ∧
      s.memberOf m.part m.pepoch = true ∧ q.ctx ∉ s.spn.sync.saved ∧ q.op ∈ [0x1, 0x2, 0x3, 0xA] ∧ s.xlatPid q.ctx q.vid = some q.pid ∧
      s.obj q.pid = some o ∧ opFails q o s = none ∧ (tget [] s.spn.sync.queues (q.pid % 16)).length < 64 ∧
      (s.fastMode = false ∨ (s.reg .spn 0x0D04).testBit 3 = false) ∧ q.src ≠ 0x8000_0000 + s.logOf q.core) ∧
    (∃ (m : SignalMsg) (s : State) (q : QOp) (o : Obj), m.port < 2 ∧
      q = { pid := q.pid, ctx := m.ctx % 64, vid := m.vid % 2 ^ 20, op := m.op % 256, arg := m.arg % 65536, operand := m.operand.toNat, src := m.src % 2 ^ 32, core := m.core % 65536, sendDtc := some (m.sendDtc, 7 - m.hops), credit := some m.port } ∧
      s.memberOf m.part m.pepoch = true ∧ q.ctx ∉ s.spn.sync.saved ∧ q.op ∈ [0x1, 0x2, 0x3, 0xA] ∧ s.xlatPid q.ctx q.vid = some q.pid ∧
      s.obj q.pid = some o ∧ opFails q o s = none ∧ 64 ≤ (tget [] s.spn.sync.queues (q.pid % 16)).length) ∧
    (∃ (m : SignalMsg) (s : State), m.port < 2 ∧ (s.memberOf m.part m.pepoch = false ∨ m.ctx % 64 ∈ s.spn.sync.saved ∨ m.op % 256 ∉ [0x1, 0x2, 0x3,
      0xA] ∨ s.xlatPid (m.ctx % 64) (m.vid % 2 ^ 20) = none)) ∧
    (∃ (w : BitVec 256) (s : State) (v : Nat), v = w.toNat ∧
      (s.memberOf (v / 2 ^ 176 % 65536) (v / 2 ^ 192 % 2 ^ 32) = false ∨ v / 2 ^ 26 % 64 ≠ 0 ∨ v / 2 ^ 40 % 256 ≠ 0 ∨ v / 2 ^ 224 ≠ 0 ∨ v / 2 ^ 20 % 64 ∈ s.spn.sync.saved ∨ v / 2 ^ 32 % 256 ∉ [0x1,
      0x2, 0x3, 0xA] ∨ s.xlatPid (v / 2 ^ 20 % 64) (v % 2 ^ 20) = none)) ∧
    (∃ (w : BitVec 256) (s : State) (q : QOp) (o : Obj) (v : Nat), v = w.toNat ∧ s.memberOf (v / 2 ^ 176 % 65536) (v / 2 ^ 192 % 2 ^ 32) = true ∧
      v / 2 ^ 26 % 64 = 0 ∧ v / 2 ^ 40 % 256 = 0 ∧ v / 2 ^ 224 = 0 ∧ v / 2 ^ 20 % 64 ∉ s.spn.sync.saved ∧
      s.xlatPid (v / 2 ^ 20 % 64) (v % 2 ^ 20) = some q.pid ∧ s.obj q.pid = some o ∧
      q = { pid := q.pid, ctx := v / 2 ^ 20 % 64, vid := v % 2 ^ 20, op := v / 2 ^ 32 % 256, arg := v / 2 ^ 48 % 65536, operand := v / 2 ^ 64 % 2 ^ 64, src := v / 2 ^ 128 % 2 ^ 32, core := v / 2 ^ 160 % 65536 } ∧
      q.op ∈ [0x1, 0x2, 0x3, 0xA] ∧ opFails q o s = none ∧ (tget [] s.spn.sync.queues (q.pid % 16)).length < 64 ∧
      (s.fastMode = false ∨ (s.reg .spn 0x0D04).testBit 3 = false) ∧ q.src ≠ 0x8000_0000 + s.logOf q.core) ∧
    (∃ (w : BitVec 256) (s : State) (q : QOp) (o : Obj) (v : Nat), v = w.toNat ∧ s.memberOf (v / 2 ^ 176 % 65536) (v / 2 ^ 192 % 2 ^ 32) = true ∧
      v / 2 ^ 26 % 64 = 0 ∧ v / 2 ^ 40 % 256 = 0 ∧ v / 2 ^ 224 = 0 ∧ v / 2 ^ 20 % 64 ∉ s.spn.sync.saved ∧
      s.xlatPid (v / 2 ^ 20 % 64) (v % 2 ^ 20) = some q.pid ∧ s.obj q.pid = some o ∧
      q = { pid := q.pid, ctx := v / 2 ^ 20 % 64, vid := v % 2 ^ 20, op := v / 2 ^ 32 % 256, arg := v / 2 ^ 48 % 65536, operand := v / 2 ^ 64 % 2 ^ 64, src := v / 2 ^ 128 % 2 ^ 32, core := v / 2 ^ 160 % 65536 } ∧
      q.op ∈ [0x1, 0x2, 0x3, 0xA] ∧ opFails q o s = none ∧ 64 ≤ (tget [] s.spn.sync.queues (q.pid % 16)).length) ∧
    (∃ (core : Nat) (a : Word64) (b : Word64) (s : State) (n : Nat), n = b.toNat / 2 ^ 42 % 2 ∧ s.corePresent core = true ∧
      s.syncStalled core = false ∧ s.syncBusy core = false ∧ s.fenced core = false ∧ a.toNat % 16 = 0xC ∧ a.toNat / 16 % 16 = 0 ∧
      a.toNat / 2 ^ 28 % 16 = 0 ∧ b.toNat / 2 ^ 43 = 0 ∧ b.toNat / 2 ^ 32 % 16 ∈ [0x1, 0x2, 0x3, 0xA] ∧ s.spnPart ≠ 0 ∧ (s.port .spn n).state = .up ∧
      (s.port .spn n).keys.peerUntrusted = false) ∧
    (∃ (core : Nat) (a : Word64) (b : Word64) (s : State) (n : Nat), n = b.toNat / 2 ^ 42 % 2 ∧ s.corePresent core = true ∧
      s.syncStalled core = false ∧ s.syncBusy core = false ∧ s.fenced core = false ∧ a.toNat % 16 = 0xC ∧ a.toNat / 16 % 16 = 0 ∧
      a.toNat / 2 ^ 28 % 16 = 0 ∧ b.toNat / 2 ^ 43 = 0 ∧ b.toNat / 2 ^ 32 % 16 ∈ [0x1, 0x2, 0x3, 0xA] ∧ s.spnPart ≠ 0 ∧ (s.port .spn n).state ≠ .up) ∧
    (∃ (core : Nat) (a : Word64) (b : Word64) (s : State) (st : Nat), s.corePresent core = true ∧ s.syncStalled core = false ∧ a.toNat % 16 = 0xC ∧
      ((s.syncBusy core = true ∧ st = 0x0A) ∨ (s.syncBusy core = false ∧ s.fenced core = true ∧ st = 0x0C) ∨ (s.syncBusy core = false ∧
      s.fenced core = false ∧
      (a.toNat / 16 % 16 ≠ 0 ∨ a.toNat / 2 ^ 28 % 16 ≠ 0 ∨ b.toNat / 2 ^ 43 ≠ 0 ∨ b.toNat / 2 ^ 32 % 16 ∉ [0x1, 0x2, 0x3, 0xA]) ∧
      st = 0x08) ∨ (s.syncBusy core = false ∧ s.fenced core = false ∧ a.toNat / 16 % 16 = 0 ∧ a.toNat / 2 ^ 28 % 16 = 0 ∧ b.toNat / 2 ^ 43 = 0 ∧
      b.toNat / 2 ^ 32 % 16 ∈ [0x1, 0x2, 0x3, 0xA] ∧ s.spnPart = 0 ∧ st = 0x0E))) ∧
    (∃ (core : Nat) (s : State), core < 2048 ∧ s.syncStalled core = true) ∧
    (∃ (core : Nat), core < 2048) ∧
    (∃ (w : BitVec 256), w.toNat.testBit 120 = false ∧ w.toNat.testBit 248 = false) :=
  ⟨⟨sigM, zS, { pid := 4, ctx := 0, vid := 7, op := 1, arg := 3, operand := 0, src := 0x21, core := 4, sendDtc := some (77, 2), credit := some 0 },
    obj1, by decide +kernel⟩,
  ⟨sigM, { zS with spn.sync.queues := [(4, List.replicate 64 (qop 1 3))] },
    { pid := 4, ctx := 0, vid := 7, op := 1, arg := 3, operand := 0, src := 0x21, core := 4, sendDtc := some (77, 2), credit := some 0 }, obj1,
    by decide +kernel⟩,
  ⟨{ sigM with part := 8 }, zS, by decide +kernel⟩,
  ⟨BitVec.ofNat 256 (2 ^ 120 + 5), z, _, rfl, by decide +kernel⟩,
  ⟨BitVec.ofNat 256 (7 + 2 ^ 32 + 3 * 2 ^ 48 + 9 * 2 ^ 64 + 0x21 * 2 ^ 128 + 4 * 2 ^ 160 + 9 * 2 ^ 176), zS,
    { pid := 4, ctx := 0, vid := 7, op := 1, arg := 3, operand := 9, src := 0x21, core := 4 }, obj1, _, rfl, by decide +kernel⟩,
  ⟨BitVec.ofNat 256 (7 + 2 ^ 32 + 3 * 2 ^ 48 + 9 * 2 ^ 64 + 0x21 * 2 ^ 128 + 4 * 2 ^ 160 + 9 * 2 ^ 176),
    { zS with spn.sync.queues := [(4, List.replicate 64 (qop 1 3))] },
    { pid := 4, ctx := 0, vid := 7, op := 1, arg := 3, operand := 9, src := 0x21, core := 4 }, obj1, _, rfl, by decide +kernel⟩,
  ⟨12, BitVec.ofNat 64 (12 + 7 * 256 + 3 * 2 ^ 32), BitVec.ofNat 64 (0x100 + 2 ^ 32 + 0), zS, _, rfl, by decide +kernel⟩,
  ⟨12, BitVec.ofNat 64 (12 + 7 * 256 + 3 * 2 ^ 32), BitVec.ofNat 64 (0x100 + 2 ^ 32 + 2 ^ 42), zS, _, rfl, by decide +kernel⟩,
  ⟨12, BitVec.ofNat 64 (12 + 7 * 256 + 3 * 2 ^ 32), BitVec.ofNat 64 (0x100 + 2 ^ 32 + 0), z, 14, by decide +kernel⟩,
  ⟨12, { zS with spn.sync.stalled := [(4, [qop 1 3])] }, by decide +kernel⟩,
  ⟨12, by decide +kernel⟩,
  ⟨BitVec.ofNat 256 (8 * 2 ^ 176), by decide +kernel⟩⟩

theorem test_hyps_remote_signals_and_taps_2 :
    (∃ (w : BitVec 256) (s : State) (k : Nat), k = w.toNat / 2 ^ 112 % 256 ∧ w.toNat.testBit 120 = true ∧ w.toNat.testBit 248 = false ∧
      s.spn.launch.doffL = none ∧ s.spn.launch.held = false ∧ k < s.digestCount) ∧
    (∃ (w : BitVec 256) (s : State) (k : Nat), k = w.toNat / 2 ^ 112 % 256 ∧ w.toNat.testBit 120 = true ∧ w.toNat.testBit 248 = false ∧
      s.spn.launch.doffL = none ∧ s.spn.launch.held = false ∧ s.digestCount ≤ k) ∧
    (∃ (w : BitVec 256) (s : State) (k : Nat), k = w.toNat / 2 ^ 112 % 256 ∧ w.toNat.testBit 120 = true ∧ w.toNat.testBit 248 = false ∧
      (s.spn.launch.doffL.isSome = true ∨ s.spn.launch.held = true) ∧ s.spnPart ≠ 0 ∧ k < (s.nextDesc.map (·.digests)).getD 0) :=
  ⟨⟨BitVec.ofNat 256 (2 ^ 120 + 5), { z with spn.launch.cur := some { curN with desc := some ⟨0, 0, 0, 2, 100, 5, 0, 1, 0, 0, 0⟩ } }, _, rfl,
    by decide +kernel⟩,
  ⟨BitVec.ofNat 256 (2 ^ 120 + 5), z, _, rfl, by decide +kernel⟩,
  ⟨BitVec.ofNat 256 (2 ^ 120 + 5),
    { zDie 5000 with spn.launch.doffL := some 5, spn.launch.next_ := some { curN with desc := some ⟨0, 0, 0, 2, 100, 5, 0, 1, 0, 0, 0⟩ } }, _, rfl,
    by decide +kernel⟩⟩

theorem test_hyps_barriers_collect_and_complete_1 :
    (∃ (core : Nat) (s : State), core < 2048 ∧ s.corePresent core = false) ∧
    (∃ (core : Nat) (w : Word) (s : State) (ch : Nat) (st : _), ch = w.toNat % 8 ∧ core < 2048 ∧ s.corePresent core = true ∧
      barRefused core ch w.toNat s = some st) ∧
    (∃ (core : Nat) (w : Word) (s : State) (ch : Nat) (op : Nat), ch = w.toNat % 8 ∧ op = w.toNat / 8 % 4 ∧ core < 2048 ∧ s.corePresent core = true ∧
      barRefused core ch w.toNat s = none ∧ op ≠ 2 ∧ (core ∈ (s.bchan ch).arrived ∨ (op = 1 ∧ s.coreWaits core = true))) ∧
    (∃ (core : Nat) (w : Word) (s : State) (ch : Nat) (op : Nat), ch = w.toNat % 8 ∧ op = w.toNat / 8 % 4 ∧ core < 2048 ∧ s.corePresent core = true ∧
      barRefused core ch w.toNat s = none ∧ op = 0 ∧ core ∉ (s.bchan ch).arrived ∧ 2 ≤ (s.missing ch).length) ∧
    (∃ (core : Nat) (w : Word) (s : State) (ch : Nat) (op : Nat), ch = w.toNat % 8 ∧ op = w.toNat / 8 % 4 ∧ core < 2048 ∧ s.corePresent core = true ∧
      barRefused core ch w.toNat s = none ∧ op = 0 ∧ core ∉ (s.bchan ch).arrived ∧ (s.bchan ch).group = none ∧ s.missing ch = [core]) ∧
    (∃ (core : Nat) (w : Word) (s : State) (ch : Nat) (op : Nat) (g : _), ch = w.toNat % 8 ∧ op = w.toNat / 8 % 4 ∧ core < 2048 ∧
      s.corePresent core = true ∧ barRefused core ch w.toNat s = none ∧ op = 0 ∧ core ∉ (s.bchan ch).arrived ∧ (s.bchan ch).group = some g ∧
      (s.bchan ch).localDone = false ∧ s.missing ch = [core]) ∧
    (∃ (core : Nat) (w : Word) (s : State) (ch : Nat) (op : Nat), ch = w.toNat % 8 ∧ op = w.toNat / 8 % 4 ∧ core < 2048 ∧ s.corePresent core = true ∧
      barRefused core ch w.toNat s = none ∧ op = 1 ∧ core ∉ (s.bchan ch).arrived ∧ s.coreWaits core = false ∧
      (2 ≤ (s.missing ch).length ∨ (s.bchan ch).group ≠ none) ∧ w.toNat / 65536 % 4096 ≠ 0) ∧
    (∃ (core : Nat) (w : Word) (s : State) (ch : Nat) (op : Nat), ch = w.toNat % 8 ∧ op = w.toNat / 8 % 4 ∧ core < 2048 ∧ s.corePresent core = true ∧
      barRefused core ch w.toNat s = none ∧ op = 1 ∧ core ∉ (s.bchan ch).arrived ∧ s.coreWaits core = false ∧
      (2 ≤ (s.missing ch).length ∨ (s.bchan ch).group ≠ none) ∧ w.toNat / 65536 % 4096 = 0) ∧
    (∃ (core : Nat) (w : Word) (s : State) (ch : Nat) (op : Nat), ch = w.toNat % 8 ∧ op = w.toNat / 8 % 4 ∧ core < 2048 ∧ s.corePresent core = true ∧
      barRefused core ch w.toNat s = none ∧ op = 1 ∧ core ∉ (s.bchan ch).arrived ∧ s.coreWaits core = false ∧ (s.bchan ch).group = none ∧
      s.missing ch = [core]) ∧
    (∃ (core : Nat) (w : Word) (s : State) (ch : Nat) (op : Nat), ch = w.toNat % 8 ∧ op = w.toNat / 8 % 4 ∧ core < 2048 ∧ s.corePresent core = true ∧
      barRefused core ch w.toNat s = none ∧ op = 2 ∧ tget 0 s.spn.bar.lastArr (core * 8 + ch) = 0) ∧
    (∃ (core : Nat) (w : Word) (s : State) (ch : Nat) (op : Nat) (n : _), ch = w.toNat % 8 ∧ op = w.toNat / 8 % 4 ∧ core < 2048 ∧
      s.corePresent core = true ∧ barRefused core ch w.toNat s = none ∧ op = 2 ∧ tget 0 s.spn.bar.lastArr (core * 8 + ch) = n + 1 ∧
      s.coreWaits core = true) ∧
    (∃ (core : Nat) (w : Word) (s : State) (ch : Nat) (op : Nat) (n : _), ch = w.toNat % 8 ∧ op = w.toNat / 8 % 4 ∧ core < 2048 ∧
      s.corePresent core = true ∧ barRefused core ch w.toNat s = none ∧ op = 2 ∧ tget 0 s.spn.bar.lastArr (core * 8 + ch) = n + 1 ∧
      s.coreWaits core = false ∧ n ≠ (s.bchan ch).gen) :=
  ⟨⟨3, { z with spn.absent := [3] }, by decide +kernel⟩,
  ⟨3, 2, z, _, 15, rfl, by decide +kernel⟩,
  ⟨3, 2, { zBar [3, 2047] with spn.bar.chans := [(2, { gen := 5, arrived := [3] })] }, _, _, rfl, rfl, by decide +kernel⟩,
  ⟨3, 2, zBar [3, 2047], _, _, rfl, rfl, by decide +kernel⟩,
  ⟨3, 2, { zBar [3] with spn.bar.waits := [(9, ⟨2, 65535, 900, 0⟩), (10, ⟨2, 7, 900, 0⟩)] }, _, _, rfl, rfl, by decide +kernel⟩,
  ⟨3, 2, { zBar [3] with spn.bar.chans := [(2, { group := some 3 })] }, _, _, 3, rfl, rfl, by decide +kernel⟩,
  ⟨3, 0x5000A, zBar [3, 2047], _, _, rfl, rfl, by decide +kernel⟩,
  ⟨3, 0xA, zBar [3, 2047], _, _, rfl, rfl, by decide +kernel⟩,
  ⟨3, 0xA, zBar [3], _, _, rfl, rfl, by decide +kernel⟩,
  ⟨3, 0x50012, zBar [3], _, _, rfl, rfl, by decide +kernel⟩,
  ⟨3, 0x50012, { zBar [3] with spn.bar.lastArr := [(26, 10)], spn.sync.ports := [(3, { pending := true })] }, _, _, 9, rfl, rfl, by decide +kernel⟩,
  ⟨3, 0x50012, { zBar [3] with spn.bar.lastArr := [(26, 10)] }, _, _, 9, rfl, rfl, by decide +kernel⟩⟩

theorem test_hyps_barriers_collect_and_complete_2 :
    (∃ (core : Nat) (w : Word) (s : State) (ch : Nat) (op : Nat) (n : _), ch = w.toNat % 8 ∧ op = w.toNat / 8 % 4 ∧ n = (s.bchan ch).gen ∧
      core < 2048 ∧ s.corePresent core = true ∧ barRefused core ch w.toNat s = none ∧ op = 2 ∧ tget 0 s.spn.bar.lastArr (core * 8 + ch) = n + 1 ∧
      s.coreWaits core = false ∧ w.toNat / 65536 % 4096 = 0) ∧
    (∃ (core : Nat) (w : Word) (s : State) (ch : Nat) (op : Nat) (n : _), ch = w.toNat % 8 ∧ op = w.toNat / 8 % 4 ∧ n = (s.bchan ch).gen ∧
      core < 2048 ∧ s.corePresent core = true ∧ barRefused core ch w.toNat s = none ∧ op = 2 ∧ tget 0 s.spn.bar.lastArr (core * 8 + ch) = n + 1 ∧
      s.coreWaits core = false ∧ w.toNat / 65536 % 4096 ≠ 0) ∧
    (∃ (core : Nat) (s : State) (x : BarWait), core < 2048 ∧ tfind s.spn.bar.waits core = some x ∧ x.expiry ≤ s.sc.time.tick) ∧
    (∃ (core : Nat) (s : State), ((∀ x, tfind s.spn.bar.waits core = some x → s.sc.time.tick < x.expiry)) ∧ core < 2048) :=
  ⟨⟨3, 0x12, { zBar [3] with spn.bar.lastArr := [(26, 65536)] }, _, _, _, rfl, rfl, rfl, by decide +kernel⟩,
  ⟨3, 0x50012, { zBar [3] with spn.bar.lastArr := [(26, 65536)] }, _, _, _, rfl, rfl, rfl, by decide +kernel⟩,
  ⟨3, { zBar [3] with spn.bar.waits := [(3, ⟨2, 7, 900, 0⟩)], sc.time.tick := 900 }, ⟨2, 7, 900, 0⟩, by decide +kernel⟩,
  ⟨0, z, allSome (by decide +kernel), by decide +kernel⟩⟩

theorem test_hyps_ply_reports_make_rounds_1 :
    (∃ (port : Nat) (m : PlyUp) (s : State) (k : Nat) (x : Tree) (other : _), k = plyKey m.part m.tree ∧ port < 129 ∧ m.part ≠ 0xFFFF ∧
      m.pepoch = tget 0 s.crl.epochs m.part ∧ s.plyTree k = some x ∧ s.plyExcluded port = false ∧ other ≠ port ∧ x.kids = [port, other] ∧
      s.plyExcluded other = false ∧ s.round k = {} ∧ m.empty = false ∧ m.failed = false ∧ m.gap = false ∧ m.ecc = false) ∧
    (∃ (port : Nat) (m : PlyUp) (s : State) (k : Nat) (x : Tree) (other : _), k = plyKey m.part m.tree ∧ port < 129 ∧ m.part ≠ 0xFFFF ∧
      m.pepoch = tget 0 s.crl.epochs m.part ∧ s.plyTree k = some x ∧ s.plyExcluded port = false ∧ other ≠ port ∧ x.kids = [port, other] ∧
      s.plyExcluded other = false ∧ s.round k = {} ∧ m.empty = true) ∧
    (∃ (port : Nat) (m : PlyUp) (s : State) (k : Nat) (x : Tree) (up : _), k = plyKey m.part m.tree ∧ port < 129 ∧ m.part ≠ 0xFFFF ∧
      m.pepoch = tget 0 s.crl.epochs m.part ∧ s.plyTree k = some x ∧ s.plyExcluded port = false ∧ x.kids = [port] ∧ x.up = some up ∧ s.round k = {} ∧
      m.empty = false ∧ m.failed = false ∧ m.gap = false ∧ m.ecc = false ∧ (s.port .crl up).state = .up ∧
      (s.port .crl up).keys.peerUntrusted = false) ∧
    (∃ (port : Nat) (m : PlyUp) (s : State) (k : Nat) (x : Tree) (up : _) (other : _) (m0 : _), k = plyKey m.part m.tree ∧ port < 129 ∧
      m.part ≠ 0xFFFF ∧ m.pepoch = tget 0 s.crl.epochs m.part ∧ s.plyTree k = some x ∧ s.plyExcluded port = false ∧ other ≠ port ∧ x.kids = [other,
      port] ∧ x.up = some up ∧ s.round k = { c := m.c, n := m.n, isOpen := true, reports := [(other, m0)] } ∧ m.empty = false ∧ m.failed = false ∧
      m.gap = false ∧ m.ecc = false ∧ plyAlike m0 m = true ∧ m0.gap = false) ∧
    (∃ (port : Nat) (m : PlyUp) (s : State) (k : Nat) (x : Tree) (other : _) (third : _) (m0 : _), k = plyKey m.part m.tree ∧ port < 129 ∧
      m.part ≠ 0xFFFF ∧ m.pepoch = tget 0 s.crl.epochs m.part ∧ s.plyTree k = some x ∧ s.plyExcluded port = false ∧ other ≠ port ∧ third ≠ port ∧
      third ≠ other ∧ x.kids = [other, port, third] ∧ s.plyExcluded third = false ∧
      s.round k = { c := m.c, n := m.n, isOpen := true, reports := [(other, m0)] } ∧ m.empty = false ∧ m.gap = false ∧ m0.gap = false ∧
      plyAlike m0 m = false) ∧
    (∃ (port : Nat) (m : PlyUp) (s : State) (k : Nat) (x : Tree), k = plyKey m.part m.tree ∧ port < 129 ∧ m.part ≠ 0xFFFF ∧
      m.pepoch = tget 0 s.crl.epochs m.part ∧ s.plyTree k = some x ∧ s.plyExcluded port = false ∧ port ∈ x.kids ∧ (s.round k).stale m = true) ∧
    (∃ (port : Nat) (m : PlyUp) (s : State), port < 129 ∧ m.pepoch ≠ (if m.part = 0xFFFF then 0 else tget 0 s.crl.epochs m.part)) ∧
    (∃ (port : Nat) (m : PlyUp) (s : State), ((∀ x, s.plyTree (plyKey m.part m.tree) = some x → port ∉ x.kids)) ∧ port < 129 ∧
      m.pepoch = (if m.part = 0xFFFF then 0 else tget 0 s.crl.epochs m.part)) ∧
    (∃ (port : Nat) (m : PlyUp) (s : State) (x : Tree), port < 129 ∧ m.part ≠ 0xFFFF ∧ m.pepoch = tget 0 s.crl.epochs m.part ∧
      s.plyTree (plyKey m.part m.tree) = some x ∧ port ∈ x.kids ∧ s.plyExcluded port = true ∧ (s.round (plyKey m.part m.tree)).stale m = true) ∧
    (∃ (port : Nat), port < 129) ∧
    (∃ (part : Nat) (tree : Nat) (port : Nat) (other : Nat) (m : PlyUp) (s : State) (k : Nat) (x : Tree), k = plyKey part tree ∧ part < 0xFFFF ∧
      port < 129 ∧ other ≠ port ∧ tfind s.crl.ply.heads (port * 2 ^ 32 + k) = some m ∧ m.part = part ∧ m.tree = tree ∧
      m.pepoch = tget 0 s.crl.epochs part ∧ s.plyTree k = some x ∧ x.kids = [port, other] ∧ s.plyExcluded port = false ∧
      s.plyExcluded other = false ∧ s.round k = {}) ∧
    (∃ (part : Nat) (tree : Nat) (port : Nat) (s : State), part < 0x1_0000 ∧ port < 129 ∧
      tfind s.crl.ply.heads (port * 2 ^ 32 + plyKey part tree) = none ∧ (s.round (plyKey part tree)).isOpen = false) :=
  ⟨⟨5, plyM, zPly [5, 7] (some 64), _, { kids := [5, 7], up := some 64 }, 7, rfl, by decide +kernel⟩,
  ⟨5, { plyM with empty := true }, zPly [5, 7] (some 64), _, { kids := [5, 7], up := some 64 }, 7, rfl, by decide +kernel⟩,
  ⟨5, plyM, zPly [5] (some 64), _, { kids := [5], up := some 64 }, 64, rfl, by decide +kernel⟩,
  ⟨7, plyM, { zPly [5, 7] (some 64) with crl.ply.rounds := [(plyKey 9 3, { c := 4, n := 0, isOpen := true, reports := [(5, plyM)] })] }, _,
    { kids := [5, 7], up := some 64 }, 64, 5, plyM, rfl, by decide +kernel⟩,
  ⟨7, { plyM with length := 1, lanes := [1] },
    { zPly [5, 7, 9] (some 64) with crl.ply.rounds := [(plyKey 9 3, { c := 4, n := 0, isOpen := true, reports := [(5, plyM)] })] }, _,
    { kids := [5, 7, 9], up := some 64 }, 5, 9, plyM, rfl, by decide +kernel⟩,
  ⟨5, plyM, { zPly [5, 7] (some 64) with crl.ply.rounds := [(plyKey 9 3, { done := some (4, 0) })] }, _, { kids := [5, 7], up := some 64 }, rfl,
    by decide +kernel⟩,
  ⟨128, { plyM with pepoch := 2 }, zPly [5] none, by decide +kernel⟩,
  ⟨128, plyM, zPly [5, 7] none, allSome (by decide +kernel), by decide +kernel⟩,
  ⟨5, plyM,
    { (zPly [5, 7] (some 64)).modPort .crl 5 (fun q => { q with keys.peerUntrusted := true }) with crl.ply.rounds := [(plyKey 9 3, { done := some (4, 0) })] },
    { kids := [5, 7], up := some 64 }, by decide +kernel⟩,
  ⟨128, by decide +kernel⟩,
  ⟨9, 3, 5, 7, plyM, { zPly [5, 7] (some 64) with crl.ply.heads := [(5 * 2 ^ 32 + plyKey 9 3, plyM)] }, _, { kids := [5, 7], up := some 64 }, rfl,
    by decide +kernel⟩,
  ⟨9, 3, 128, z, by decide +kernel⟩⟩

theorem test_hyps_ply_reports_make_rounds_2 :
    ∃ (part : Nat) (port : Nat), part < 0x1_0000 ∧ port < 129 :=
  ⟨9, 128, by decide +kernel⟩

theorem test_hyps_ply_releases_reach_cores :
    (∃ (m : PlyDown) (s : State) (x : Tree) (n : Nat), m.hops ≠ 0 ∧ m.pepoch = (if m.part = 0xFFFF then 0 else tget 0 s.crl.epochs m.part) ∧
      s.plyTree (plyKey m.part m.tree) = some x ∧ x.kids = [n] ∧ (s.port .crl n).state = .up ∧ (s.port .crl n).keys.peerUntrusted = false) ∧
    (∃ (m : PlyDown) (s : State) (o : Nat) (x : _) (up : _), ((m.hops = 0 ∧ o = 0x2C) ∨ (m.hops ≠ 0 ∧
      m.pepoch ≠ (if m.part = 0xFFFF then 0 else tget 0 s.crl.epochs m.part) ∧ o = 0x28)) ∧ s.plyTree (plyKey m.part m.tree) = some x ∧
      x.up = some up) ∧
    (∃ (m : PlyDown) (s : State) (o : Nat), ((∀ x, s.plyTree (plyKey m.part m.tree) = some x → x.up = none)) ∧ ((m.hops = 0 ∧
      o = 0x2C) ∨ (m.hops ≠ 0 ∧ m.pepoch ≠ (if m.part = 0xFFFF then 0 else tget 0 s.crl.epochs m.part) ∧ o = 0x28))) ∧
    (∃ (m : PlyDown) (s : State), m.hops ≠ 0 ∧ m.pepoch = (if m.part = 0xFFFF then 0 else tget 0 s.crl.epochs m.part) ∧
      s.plyTree (plyKey m.part m.tree) = none) ∧
    (∃ (m : PlyDown) (s : State) (ch : Nat) (b : BarChan), m.part = s.spnPart ∧ m.pepoch = s.spnPepoch ∧ s.spnPart ≠ 0 ∧ m.n < 65536 ∧ m.tree < 64 ∧
      s.spn.bar.chans = [(ch, b)] ∧ b.group = some m.tree ∧ tfind s.spn.ply.held m.tree = some (m.c, m.n) ∧ s.chanEmpty ch = false) ∧
    (∃ (m : PlyDown) (s : State), m.part = s.spnPart ∧ m.pepoch = s.spnPepoch ∧ s.spnPart ≠ 0 ∧ (tfind s.spn.ply.held m.tree ≠ some (m.c,
      m.n) ∨ (∀ e ∈ s.spn.bar.chans, e.2.group ≠ some m.tree))) ∧
    (∃ (m : PlyDown) (s : State), (s.spnPart = 0 ∨ m.part ≠ s.spnPart ∨ m.pepoch ≠ s.spnPepoch)) :=
  ⟨⟨downM, zPly [64] none, { kids := [64], up := none }, 64, by decide +kernel⟩,
  ⟨{ downM with hops := 0 }, zPly [5] (some 64), 0x2C, { kids := [5], up := some 64 }, 64, by decide +kernel⟩,
  ⟨{ downM with hops := 0 }, zPly [64] none, 0x2C, allSome (by decide +kernel), by decide +kernel⟩,
  ⟨downM, { zPly [64] none with crl.ply.trees := [] }, by decide +kernel⟩,
  ⟨downM, zRel, 2, { group := some 3 }, by decide +kernel⟩,
  ⟨{ downM with n := 3 }, zRel, by decide +kernel⟩,
  ⟨{ downM with hops := 0 }, zPly [64] none, by decide +kernel⟩⟩

theorem test_hyps_held_output_and_mirroring :
    (∃ (part : Nat) (s : State) (r : PRoot) (p : OPiece), part < 0x1_0000 ∧ s.crl.parts = [(part, r)] ∧ r.out.held = [p] ∧ p.kind = .plan ∧
      r.plan.ring ≠ 0xFFFF ∧ s.canPost .crl r.plan.ring p.body.length = true) ∧
    (∃ (part : Nat) (s : State), part < 0x1_0000 ∧ ((∀ e ∈ s.crl.parts, e.1 % 65536 ≠ part))) ∧
    (∃ (part : Nat), part < 0x1_0000) ∧
    (∃ (part : Nat) (n : Nat) (s : State) (r : PRoot), part < 0x1_0000 ∧ n < 2 ^ 32 ∧ s.proot part = some r) ∧
    (∃ (part : Nat) (n : Nat) (s : State), part < 0x1_0000 ∧ n < 2 ^ 32 ∧ s.proot part = none) ∧
    (∃ (s : State), s.crl.mirror = [] ∧ s.crl.planner.solo = false ∧ s.crl.parts ≠ [] ∧ s.standbyLost = true) ∧
    (∃ (s : State), s.crl.mirror = [] ∧ (s.standbyLost = false ∨ s.crl.planner.solo = true ∨ s.crl.parts = [])) ∧
    (∃ (s : State), s.crl.planner.solo = true ∧ (s.port .crl pxPort).state = .up ∧ s.crl.planner.rebuild = none) ∧
    (∃ (s : State), (s.crl.planner.solo = false ∨ (s.port .crl pxPort).state ≠ .up ∨ s.crl.planner.rebuild.isSome = true)) :=
  ⟨⟨9,
    { (zRoot 5 { root1 with out := { held := [{ kind := .plan, c := 0, body := padTo 80 [] }] }, plan := { ring := 1 } }).modChan .crl 1 (fun _ => ch8) with crl.held := [(9, 0, 0)] },
    { root1 with out := { held := [{ kind := .plan, c := 0, body := padTo 80 [] }] }, plan := { ring := 1 } },
    { kind := .plan, c := 0, body := padTo 80 [] }, by decide +kernel⟩,
  ⟨9, z, by decide +kernel⟩,
  ⟨9, by decide +kernel⟩,
  ⟨9, 1, zRoot 5 { root1 with out := { unacked := [3, 4] } }, { root1 with out := { unacked := [3, 4] } }, by decide +kernel⟩,
  ⟨9, 0, z, by decide +kernel⟩,
  ⟨zReq .queued, by decide +kernel⟩,
  ⟨zPort .crl 128 { state := .up }, by decide +kernel⟩,
  ⟨{ zPort .crl 128 { state := .up } with crl.planner.solo := true }, by decide +kernel⟩,
  ⟨zReq .queued, by decide +kernel⟩⟩

theorem test_hyps_planning_passes_admit :
    (∃ (part : Nat) (s : State) (r : PRoot), part < 0x1_0000 ∧ s.proot part = some r ∧ coreDown .crl 2 s = false ∧ r.plan.due ≠ 0 ∧
      r.tearing = false) ∧
    (∃ (part : Nat) (s : State), part < 0x1_0000 ∧ (coreDown .crl 2 s = true ∨ (∀ r, s.proot part = some r → r.plan.due = 0 ∨ r.tearing = true))) ∧
    (∃ (part : Nat) (i : Nat) (b : Nat) (n : Nat) (s : State) (r : PRoot) (e : ReqEnt) (p : _), part < 0x1_0000 ∧ s.proot part = some r ∧
      coreDown .crl 2 s = false ∧ r.plan.due ≠ 0 ∧ r.tearing = false ∧ r.planNew = none ∧ r.plan.bands = [(b, n)] ∧ n ≠ 0 ∧ b < 8192 ∧
      r.plan.draining = [] ∧ r.plan.strag = [] ∧ r.plan.quota ≠ 0 ∧ r.plan.admitMax ≠ 0 ∧ r.plan.rebinds = [] ∧ r.txns = [] ∧
      s.crl.planner.reqs = [(i, e)] ∧ e.part = part ∧ e.state = .queued ∧ e.slot = 0xFFFF ∧ e.newSlot = 0xFFFF ∧ r.launch.pend = [p] ∧
      p.retry = false ∧ r.inTime (s.crlDtc part) (1000 * r.plan.lead) 3 p.l = true) ∧
    (∃ (part : Nat) (i : Nat) (b : Nat) (n : Nat) (s : State) (r : PRoot) (e : ReqEnt), part < 0x1_0000 ∧ s.proot part = some r ∧
      coreDown .crl 2 s = false ∧ r.plan.due ≠ 0 ∧ r.tearing = false ∧ r.planNew = none ∧ r.plan.bands = [(b, n)] ∧ n ≠ 0 ∧ b < 8192 ∧
      r.plan.draining = [] ∧ r.plan.strag = [] ∧ r.plan.quota ≠ 0 ∧ r.plan.admitMax ≠ 0 ∧ r.plan.rebinds = [] ∧ r.txns = [] ∧
      s.crl.planner.reqs = [(i, e)] ∧ e.part = part ∧ e.state = .queued ∧ e.slot = 0xFFFF ∧ e.newSlot = 0xFFFF ∧ r.launch.pend = []) ∧
    (∃ (part : Nat) (hea : Nat) (l : Nat) (unit : Nat) (s : State) (r : PRoot) (m : Member), part < 0x1_0000 ∧ unit < 256 ∧ s.proot part = some r ∧
      r.members = [m] ∧ m.hea = hea ∧ r.cOf l ∉ m.marks ∧ r.counts (r.cOf l) = true) ∧
    (∃ (part : Nat) (hea : Nat) (l : Nat) (unit : Nat) (s : State) (r : PRoot) (m : Member), part < 0x1_0000 ∧ unit < 256 ∧ s.proot part = some r ∧
      r.members.find? (fun m => m.hea = hea) = some m ∧ (r.cOf l ∈ m.marks ∨ r.counts (r.cOf l) = false)) ∧
    (∃ (part : Nat) (unit : Nat) (s : State), part < 0x1_0000 ∧ unit < 256 ∧ s.proot part = none) ∧
    (∃ (part : Nat) (unit : Nat), part < 0x1_0000 ∧ unit < 256) ∧
    (∃ (idx : Nat) (s : State) (e : ReqEnt) (r : PRoot), idx < 524_288 ∧ s.req idx = some e ∧ s.proot e.part = some r ∧ e.state = .moving ∧
      e.tState + 1_000_000 * r.plan.moveTo ≤ s.crlDtc e.part) ∧
    (∃ (idx : Nat) (s : State), ((∀ e, s.req idx = some e → e.state ≠ .moving ∨ ∀ r, s.proot e.part = some r →
      s.crlDtc e.part < e.tState + 1_000_000 * r.plan.moveTo)) ∧ idx < 524_288) :=
  ⟨⟨9, zRoot 5 { root1 with plan := { due := 2 }, planNew := some { quota := 7 } },
    { root1 with plan := { due := 2 }, planNew := some { quota := 7 } }, by decide +kernel⟩,
  ⟨0, z, by decide +kernel⟩,
  ⟨9, 3, 8191, 9,
    { zReg ({ root1 with txns := [], plan := { due := 1, quota := 5, admitMax := 3, bands := [(8191, 9)] }, launch.pend := [rp 90000000 4] }) with crl.planner.reqs := [(3, rq .queued)] },
    { root1 with txns := [], plan := { due := 1, quota := 5, admitMax := 3, bands := [(8191, 9)] }, launch.pend := [rp 90000000 4] }, rq .queued,
    rp 90000000 4, by decide +kernel⟩,
  ⟨9, 3, 8191, 9,
    { zReg ({ root1 with txns := [], plan := { due := 1, quota := 5, admitMax := 3, bands := [(8191, 9)] } }) with crl.planner.reqs := [(3, rq .queued)] },
    { root1 with txns := [], plan := { due := 1, quota := 5, admitMax := 3, bands := [(8191, 9)] } }, rq .queued, by decide +kernel⟩,
  ⟨9, 0x100, 60000, 2, zRoot 61000 { root1 with launch.recent := [4], launch.run := [rst 60000 4], plan := { stragN := 1 } },
    { root1 with launch.recent := [4], launch.run := [rst 60000 4], plan := { stragN := 1 } }, { hea := 0x100, rank := 0 }, by decide +kernel⟩,
  ⟨9, 0x100, 77, 0, zReg root1, root1, { hea := 0x100, rank := 0 }, by decide +kernel⟩,
  ⟨0, 0, z, by decide +kernel⟩,
  ⟨0, 0, by decide +kernel⟩,
  ⟨3, { zReg { root1 with plan := { moveTo := 0 } } with crl.planner.reqs := [(3, rq .moving)] }, rq .moving, { root1 with plan := { moveTo := 0 } },
    by decide +kernel⟩,
  ⟨0, z, allSome (by decide +kernel), by decide +kernel⟩⟩

theorem test_hyps_whorl_periods_start :
    (∃ (s : State), ((∀ k, s.crl.whorl.k = some k → k < whorlPeriod (s.gt .crl))) ∧ s.cc.time.gtValid = true) ∧
    (∃ (s : State), (s.cc.time.gtValid = false ∨ (∃ k, s.crl.whorl.k = some k ∧ whorlPeriod (s.gt .crl) ≤ k))) ∧
    (∃ (s : State), ((∀ k, s.spn.wh.k = some k → k < whorlPeriod (s.gt .spn))) ∧ s.sc.time.gtValid = true ∧ (s.spnPart = 0 ∨ (∀ x,
      s.spn.wh.lastD = some x → x + 100_000 < s.sc.time.tick))) ∧
    (∃ (s : State) (x : _), ((∀ k, s.spn.wh.k = some k → k < whorlPeriod (s.gt .spn))) ∧ s.sc.time.gtValid = true ∧ s.spnPart ≠ 0 ∧
      s.spn.wh.lastD = some x ∧ s.sc.time.tick ≤ x + 100_000) ∧
    (∃ (s : State), (s.sc.time.gtValid = false ∨ (∃ k, s.spn.wh.k = some k ∧ whorlPeriod (s.gt .spn) ≤ k))) ∧
    (∃ (s : State), ((∀ x, s.spn.wh.pulse = some x → s.sc.time.tick ≤ x + 500)) ∧ s.spn.wh.due = none) ∧
    (∃ (s : State), ((∀ x, s.spn.wh.pulse = some x → s.sc.time.tick ≤ x + 500))) ∧
    (∃ (s : State) (x : Nat), s.spn.wh.pulse = some x ∧ x + 500 < s.sc.time.tick) ∧
    (∃ (port : Nat) (s : State) (m : PlyUp) (n : Nat), port < 129 ∧ s.cc.topo.tier = 1 ∧ port ∈ s.cc.topo.powerKids ∧
      (s.port .crl port).state ≠ .up ∧ s.cc.time.gtValid = true ∧ tfind s.crl.powerRep port = some (m, n) ∧ n < 10_000 ∧ m.part = 0xFFFF) ∧
    (∃ (port : Nat) (other : Nat) (s : State) (k : Nat), k = plyKey 0xFFFF s.cc.topo.powerTree ∧ ((∀ e, tfind s.crl.powerRep port = some e →
      10_000 ≤ e.2)) ∧ port < 129 ∧ other ≠ port ∧ s.cc.topo.tier = 1 ∧ s.cc.topo.powerKids = [port, other] ∧ (s.port .crl port).state ≠ .up ∧
      s.cc.time.gtValid = true ∧ s.round k = {} ∧ s.plyExcluded port = false ∧ s.plyExcluded other = false) ∧
    (∃ (port : Nat) (s : State), port < 129 ∧
      (s.cc.topo.tier ≠ 1 ∨ port ∉ s.cc.topo.powerKids ∨ (s.port .crl port).state = .up ∨ s.cc.time.gtValid = false)) ∧
    (∃ (port : Nat), port < 129) :=
  ⟨⟨{ z with cc.time.gtValid := true, cc.topo.plant := true, crl.plant.commit := some [(1, 2)] }, allSome (by decide +kernel), by decide +kernel⟩,
  ⟨{ z with sc.time.gtValid := true }, by decide +kernel⟩,
  ⟨{ z with sc.time.gtValid := true }, allSome (by decide +kernel), by decide +kernel⟩,
  ⟨{ zDie 9 with spn.wh.lastD := some 5, sc.time.tick := 100005 }, 5, allSome (by decide +kernel), by decide +kernel⟩,
  ⟨{ z with cc.time.gtValid := true, cc.topo.plant := true, crl.plant.commit := some [(1, 2)] }, by decide +kernel⟩,
  ⟨{ z with cc.time.gtValid := true, cc.topo.plant := true, crl.plant.commit := some [(1, 2)] }, allSome (by decide +kernel), by decide +kernel⟩,
  ⟨{ z with cc.time.gtValid := true, cc.topo.plant := true, crl.plant.commit := some [(1, 2)] }, allSome (by decide +kernel)⟩,
  ⟨{ z with spn.wh.pulse := some 5, sc.time.tick := 506 }, 5, by decide +kernel⟩,
  ⟨5,
    { zPort .crl 5 { state := .down } with cc.topo.tier := 1, cc.topo.powerKids := [5], cc.time.gtValid := true, crl.powerRep := [(5, ({ plyM with part := 0xFFFF }, 9999))] },
    { plyM with part := 0xFFFF }, 9999, by decide +kernel⟩,
  ⟨3, 4, { z with cc.topo.tier := 1, cc.topo.powerKids := [3, 4], cc.time.gtValid := true }, _, rfl, allSome (by decide +kernel), by decide +kernel⟩,
  ⟨0, { z with cc.time.gtValid := true, cc.topo.plant := true, crl.plant.commit := some [(1, 2)] }, by decide +kernel⟩,
  ⟨0, by decide +kernel⟩⟩

theorem test_hyps_whorl_law_tracks_load :
    (∃ (k : Nat) (l : List Int) (s : State), s.hallLanes k = some l ∧ s.roundOpen k = true ∧ s.sincePeriod k < 50_000 ∧ coreDown .crl 1 s = false ∧
      s.crl.whorl.tripped = false ∧ (s.whEnv 0x4400).testBit 0 = true ∧ s.crl.whorl.started = true) ∧
    (∃ (k : Nat) (l : List Int) (s : State), s.hallLanes k = some l ∧ s.roundOpen k = true ∧ s.sincePeriod k < 50_000 ∧ coreDown .crl 1 s = false ∧
      s.crl.whorl.tripped = true) ∧
    (∃ (k : Nat) (l : List Int) (s : State), s.hallLanes k = some l ∧ s.roundOpen k = true ∧ s.sincePeriod k < 50_000 ∧ coreDown .crl 1 s = false ∧
      s.crl.whorl.tripped = false ∧ (s.whEnv 0x4400).testBit 0 = false) ∧
    (∃ (k : Nat) (s : State), (s.hallLanes k = none ∨ s.roundOpen k = false ∨ 50_000 ≤ s.sincePeriod k ∨ coreDown .crl 1 s = true)) ∧
    (∃ (k : Nat) (s : State), s.roundOpen k = true ∧ 50_000 ≤ s.sincePeriod k) ∧
    (∃ (k : Nat) (s : State), ((s.roundOpen k = false ∨ s.sincePeriod k < 50_000))) :=
  ⟨⟨0, List.replicate 64 7, { zWh with crl.whorl.env := [(0x4400, 1)] }, by decide +kernel⟩,
  ⟨0, List.replicate 64 7, { zWh with crl.whorl.tripped := true }, by decide +kernel⟩,
  ⟨0, List.replicate 64 7, { zWh with crl.whorl.env := [(0x4400, 0)] }, by decide +kernel⟩,
  ⟨0, { zWh with cc.time.engA.gt := 65536 * 50000, crl.whorl.missRun := 9 }, by decide +kernel⟩,
  ⟨0, { zWh with cc.time.engA.gt := 65536 * 50000, crl.whorl.missRun := 9 }, by decide +kernel⟩,
  ⟨0, { zWh with cc.time.engA.gt := 65536 * 49999 }, by decide +kernel⟩⟩

theorem test_hyps_whorl_sets_and_coast :
    (∃ (part : Nat) (m : WhorlSet) (s : State) (r : PRoot), part < 0x1_0000 ∧ s.proot part = some r ∧ seqNewer m.seq r.freq.whSeq = true) ∧
    (∃ (part : Nat) (m : WhorlSet) (s : State), ((∀ r, s.proot part = some r → seqNewer m.seq r.freq.whSeq = false)) ∧ part < 0x1_0000) ∧
    (∃ (part : Nat) (s : State) (r : PRoot), part < 0x1_0000 ∧ s.proot part = some r ∧ r.inService = true ∧ r.tearing = false ∧ r.launch.pend = [] ∧
      r.freq.held = false ∧ r.freq.windDown = false ∧ r.freq.coastOk = true ∧ r.launch.holding = false ∧ r.launch.coastC = none) ∧
    (∃ (part : Nat) (s : State) (r : PRoot), part < 0x1_0000 ∧ s.proot part = some r ∧ r.inService = true ∧ r.tearing = false ∧ r.launch.pend = [] ∧
      r.freq.held = false ∧ r.freq.windDown = false ∧ r.freq.coastOk = true ∧ r.launch.holding = false ∧ r.launch.coastC.isSome = true) ∧
    (∃ (part : Nat) (s : State) (r : PRoot), part < 0x1_0000 ∧ s.proot part = some r ∧ r.inService = true ∧ r.tearing = false ∧ r.launch.pend = [] ∧
      r.freq.held = true ∧ r.freq.windUp = true) ∧
    (∃ (part : Nat) (s : State) (r : PRoot), part < 0x1_0000 ∧ s.proot part = some r ∧ r.inService = true ∧ r.tearing = false ∧ r.launch.pend = [] ∧
      (r.freq.held = false ∨ r.freq.windUp = false) ∧ r.freq.windDown = false ∧ (r.freq.coastOk = false ∨ r.launch.holding = true)) ∧
    (∃ (part : Nat) (s : State), ((∀ r, s.proot part = some r →
      r.inService = false ∨ (r.tearing = false ∧ (r.freq.held = false ∨ r.freq.windUp = false) ∧ r.launch.pend ≠ []))) ∧ part < 0x1_0000) ∧
    (∃ (part : Nat), part < 0x1_0000) :=
  ⟨⟨9, wset, zRoot 50000 root1, root1, by decide +kernel⟩,
  ⟨9, wset, zReg { root1 with freq.whSeq := some 4 }, allSome (by decide +kernel), by decide +kernel⟩,
  ⟨9, zRoot 50000 { root1 with freq := { coastOk := true, coast := 6 } }, { root1 with freq := { coastOk := true, coast := 6 } }, by decide +kernel⟩,
  ⟨9, zReg ({ root1 with freq := { coastOk := true, coast := 6 }, launch.coastC := some 3 }),
    { root1 with freq := { coastOk := true, coast := 6 }, launch.coastC := some 3 }, by decide +kernel⟩,
  ⟨9, zReg ({ root1 with freq := { held := true, windUp := true } }), { root1 with freq := { held := true, windUp := true } }, by decide +kernel⟩,
  ⟨9, zReg ({ root1 with freq := { held := true } }), { root1 with freq := { held := true } }, by decide +kernel⟩,
  ⟨0, z, allSome (by decide +kernel), by decide +kernel⟩,
  ⟨0, by decide +kernel⟩⟩

theorem test_hyps_trips_stop_and_end_1 :
    (∃ (s : State), s.cc.topo.plant = true ∧ s.tripHeld = true ∧ s.crl.whorl.tripped = false ∧ s.plantLead = true) ∧
    (∃ (s : State), s.cc.topo.plant = true ∧ s.tripHeld = true ∧ s.crl.whorl.tripped = false ∧ s.plantLead = false) ∧
    (∃ (s : State), ((s.cc.topo.plant = false ∨ s.tripHeld = false ∨ s.crl.whorl.tripped = true))) ∧
    (∃ (n : Nat) (num : Nat) (s : State), n < 2 ∧ num ≠ s.spn.wh.trips) ∧
    (∃ (n : Nat), n < 2) ∧
    (∃ (n : Nat) (num : Nat) (s : State), n < 2 ∧ s.spn.wh.tripped = true ∧ (num = s.spn.wh.trips ∨ seqNewer num (some s.spn.wh.trips) = true)) ∧
    (∃ (n : Nat) (num : Nat) (s : State), n < 2 ∧ (s.spn.wh.tripped = false ∨ (num ≠ s.spn.wh.trips ∧ seqNewer num (some s.spn.wh.trips) = false))) ∧
    (∃ (n : Nat), n < 129) ∧
    (∃ (n : Nat) (hops : Nat) (s : State), n < 129 ∧ hops ≠ 0 ∧ (n ≠ pxPort ∨ s.plantLead = false)) ∧
    (∃ (n : Nat) (hops : Nat) (s : State), n < 129 ∧ hops ≠ 0 ∧ (n ≠ pxPort ∨ s.plantLead = false)) ∧
    (∃ (n : Nat) (num : Nat) (hops : Nat) (s : State), n = pxPort ∧ n < 129 ∧ hops ≠ 0 ∧ s.plantLead = true ∧
      (s.crl.whorl.tripped = false ∨ s.crl.whorl.tripNo ≠ num)) ∧
    (∃ (n : Nat) (num : Nat) (hops : Nat) (trip : Bool) (s : State), n = pxPort ∧ n < 129 ∧ hops ≠ 0 ∧ s.plantLead = true ∧
      (trip = false ∨ (s.crl.whorl.tripped = true ∧ s.crl.whorl.tripNo = num))) :=
  ⟨⟨zTrip .a, by decide +kernel⟩,
  ⟨zTrip .b, by decide +kernel⟩,
  ⟨{ zWh with crl.plant.ins := 1 }, by decide +kernel⟩,
  ⟨1, 7, { zStep with spn.launch.cur := some curN, spn.launch.past := [{ unc 5 with c := 4 }] }, by decide +kernel⟩,
  ⟨0, by decide +kernel⟩,
  ⟨1, 0, { zDie 5 with spn.wh.tripped := true }, by decide +kernel⟩,
  ⟨0, 0, zTrip .a, by decide +kernel⟩,
  ⟨0, by decide +kernel⟩,
  ⟨5, 6, z, by decide +kernel⟩,
  ⟨5, 6, z, by decide +kernel⟩,
  ⟨_, 3, 6, zTrip .a, rfl, by decide +kernel⟩,
  ⟨_, 3, 6, false, zTrip .a, rfl, by decide +kernel⟩⟩

theorem test_hyps_trips_stop_and_end_2 :
    (∃ (s : State), s.crl.whorl.master = true ∧ s.crl.whorl.tripped = true ∧ s.tripRecent = false ∧ (s.whEnv 0x4400).testBit 2 = true) ∧
    (∃ (s : State), ((s.tripRecent = true ∨ (s.whEnv 0x4400).testBit 2 = false ∨ s.crl.whorl.master = false ∨ s.crl.whorl.tripped = false))) ∧
    (∃ (s : State), ((∀ u ∈ s.spn.launch.past, ∀ x, u.endedAt = some x → x + 1000 ≤ s.ldtc ∨ u.voted = true))) ∧
    (∃ (s : State) (u : Uncommitted) (x : Nat), u ∈ s.spn.launch.past ∧ u.endedAt = some x ∧ s.ldtc < x + 1000 ∧ u.voted = false) :=
  ⟨⟨{ zWh with crl.whorl.tripped := true }, by decide +kernel⟩,
  ⟨zTrip .a, by decide +kernel⟩,
  ⟨zTrip .a, by decide +kernel⟩,
  ⟨{ zDie 900 with spn.launch.past := [{ unc 5000 with endedAt := some 5 }] }, { unc 5000 with endedAt := some 5 }, 5, by decide +kernel⟩⟩

theorem test_hyps_plant_port_answers_1 :
    (∃ (n : Nat) (v : Bool) (s : State), n < 8 ∧ s.crl.plant.ins.getLsbD n ≠ v) ∧
    (∃ (n : Nat) (v : Bool) (s : State), n < 8 ∧ s.crl.plant.ins.getLsbD n = v) ∧
    (∃ (k : Nat) (s : State), k < 2 ^ 64 ∧ s.plantLead = true) ∧
    (∃ (k : Nat) (s : State), k < 2 ^ 64 ∧ s.plantLead = false) ∧
    (∃ (s : State), s.cc.topo.plant = true ∧ (s.whEnv 0x4400).testBit 1 = true ∧ s.crl.whorl.stale = false ∧
      s.crl.plant.hbTick + 10_000_000_000 ≤ s.cc.time.tick) ∧
    (∃ (s : State),
      (s.cc.time.tick < s.crl.plant.hbTick + 10_000_000_000 ∨ s.cc.topo.plant = false ∨ (s.whEnv 0x4400).testBit 1 = false ∨ s.crl.whorl.stale = true)) ∧
    (∃ (ip : Word) (s : State) (n : Nat), n < 4 ∧ ip ≠ 0 ∧ s.reg .crl (0x4440 + 4 * n) = ip.toNat ∧ s.crl.plant.conns.length < 4) ∧
    (∃ (ip : Word) (s : State), (ip = 0 ∨ 4 ≤ s.crl.plant.conns.length ∨ (∀ n, n < 4 → s.reg .crl (0x4440 + 4 * n) ≠ ip.toNat))) ∧
    (∃ (c : Nat) (a : Nat) (n : Nat) (s : State), c < s.crl.plant.conns.length ∧ n ≠ 0 ∧ a + n ≤ 10) ∧
    (∃ (c : Nat) (a : Nat) (n : Nat) (s : State), c < s.crl.plant.conns.length ∧ n ≠ 0 ∧ a + n ≤ 11) ∧
    (∃ (c : Nat) (n : Nat) (s : State), c < s.crl.plant.conns.length ∧ (n = 0 ∨ 125 < n)) ∧
    (∃ (c : Nat) (n : Nat) (s : State), c < s.crl.plant.conns.length ∧ (n = 0 ∨ 125 < n)) :=
  ⟨⟨7, true, z, by decide +kernel⟩,
  ⟨0, false, z, by decide +kernel⟩,
  ⟨9, zWh, by decide +kernel⟩,
  ⟨9, z, by decide +kernel⟩,
  ⟨{ zWh with crl.whorl.env := [(0x4400, 2)], cc.time.tick := 10000000000 }, by decide +kernel⟩,
  ⟨{ zWh with cc.time.tick := 9999999999 }, by decide +kernel⟩,
  ⟨0x0A000001, z.setReg .crl 0x444C 0x0A000001, 3, by decide +kernel⟩,
  ⟨0, { zWh with crl.whorl.env := [(0x4400, 2)], cc.time.tick := 10000000000 }, by decide +kernel⟩,
  ⟨0, 8, 1, { z with crl.plant.conns := [1], crl.plant.hold := [(8, 0x1234)] }, by decide +kernel⟩,
  ⟨0, 8, 1, { z with crl.plant.conns := [1], crl.plant.hold := [(8, 0x1234)] }, by decide +kernel⟩,
  ⟨0, 0, { z with crl.plant.conns := [1], crl.plant.hold := [(3, 4)] }, by decide +kernel⟩,
  ⟨0, 0, { z with crl.plant.conns := [1], crl.plant.hold := [(3, 4)] }, by decide +kernel⟩⟩

theorem test_hyps_plant_port_answers_2 :
    (∃ (c : Nat) (a : Nat) (n : Nat) (s : State), c < s.crl.plant.conns.length ∧ n ≠ 0 ∧ n ≤ 125 ∧ 10 < a + n) ∧
    (∃ (c : Nat) (a : Nat) (n : Nat) (s : State), c < s.crl.plant.conns.length ∧ n ≠ 0 ∧ n ≤ 125 ∧ 11 < a + n) ∧
    (∃ (c : Nat) (a : Nat) (v : Nat) (s : State), c < s.crl.plant.conns.length ∧ a < 8 ∧ v < 65536 ∧ ((a = 6 → v ≤ 1000))) ∧
    (∃ (c : Nat) (v : Nat) (s : State), c < s.crl.plant.conns.length ∧ tget 0 s.crl.plant.hold 8 ≠ v ∧ v < 65536) ∧
    (∃ (c : Nat) (s : State), c < s.crl.plant.conns.length) ∧
    (∃ (c : Nat) (a : Nat) (s : State), c < s.crl.plant.conns.length ∧ 10 ≤ a) ∧
    (∃ (c : Nat) (a : Nat) (v : Nat) (s : State), c < s.crl.plant.conns.length ∧ a < 10 ∧ (65536 ≤ v ∨ (a = 6 ∧ 1000 < v) ∨ (a = 9 ∧ 1 < v))) ∧
    (∃ (c : Nat) (s : State), c < s.crl.plant.conns.length) ∧
    (∃ (c : Nat) (a : Nat) (v : Nat) (w : Nat) (s : State), c < s.crl.plant.conns.length ∧ a < 5 ∧ v < 65536 ∧ w < 65536) ∧
    (∃ (c : Nat) (vs : List Nat) (s : State), c < s.crl.plant.conns.length ∧ (vs = [] ∨ 123 < vs.length)) ∧
    (∃ (c : Nat) (a : Nat) (vs : List Nat) (s : State), c < s.crl.plant.conns.length ∧ vs ≠ [] ∧ vs.length ≤ 123 ∧ 10 < a + vs.length) ∧
    (∃ (c : Nat) (s : State), c < s.crl.plant.conns.length) :=
  ⟨⟨0, 9, 2, { z with crl.plant.conns := [1] }, by decide +kernel⟩,
  ⟨0, 65535, 125, { z with crl.plant.conns := [1] }, by decide +kernel⟩,
  ⟨0, 7, 65535, { z with crl.plant.conns := [1] }, by decide +kernel⟩,
  ⟨0, 5, { z with crl.plant.conns := [5] }, by decide +kernel⟩,
  ⟨0, { z with crl.plant.conns := [5] }, by decide +kernel⟩,
  ⟨0, 10, { z with crl.plant.conns := [5] }, by decide +kernel⟩,
  ⟨0, 6, 1001, { z with crl.plant.conns := [5] }, by decide +kernel⟩,
  ⟨0, { z with crl.plant.conns := [5] }, by decide +kernel⟩,
  ⟨0, 0, 0, 0, { z with crl.plant.conns := [1], crl.plant.hold := [(3, 4)] }, by decide +kernel⟩,
  ⟨0, [], { z with crl.plant.conns := [1], crl.plant.hold := [(3, 4)] }, by decide +kernel⟩,
  ⟨0, 8, [1, 2, 3], { z with crl.plant.conns := [5] }, by decide +kernel⟩,
  ⟨0, { z with crl.plant.conns := [5] }, by decide +kernel⟩⟩

theorem test_hyps_plant_port_answers_3 :
    (∃ (c : Nat) (s : State), c < s.crl.plant.conns.length) ∧
    (∃ (c : Nat) (s : State), s.crl.plant.conns.length ≤ c) :=
  ⟨⟨0, { z with crl.plant.conns := [5] }, by decide +kernel⟩,
  ⟨0, { zWh with crl.whorl.env := [(0x4400, 2)], cc.time.tick := 10000000000 }, by decide +kernel⟩⟩

/-! ## Images

No image can be shown to be accepted, since the verifiers are constants without a body. What a command needs beside that is shown here. -/

def plT : Bytes := lay [(8, 0x1000), (4, 4992)]
def plD : Bytes := lay [(2, 3), (2, 0), (4, 0), (8, 0x1000), (4, 4992)]

/-- A command whose judgement accepts it before its bound is accepted. -/
theorem accepts_of {c : Instr} {j : Judged} {s : State} {f : State → Effect} (hj : judged c = some j) (up : j.up s = true)
    (v : j.judge (j.taken s) (j.body s) = .ok f) (b : missedBy j.p j.q j.code (j.taken s) = 0) : accepts c s = true := by
  simp [accepts, hj, up, Judged.verdict, inTime, v, b, Except.toBool]

theorem test_hyps_desc_write (s : State) (img : Bytes) (up : coreDown .spn 2 s = false) (fresh : s.payload .spn q0 0x0309 plD = plD)
    (bound : missedBy .spn q0 0x0309 (takeCmd .spn q0 0x0309 2 plD s) = 0)
    (rd : s.rd .spn 0x1000 4992 = img) (h : tableImage img s = true) (one : rdLe (imgPayload img) 0 4 = 1)
    (ok : descCheck [imageDesc img 0] (rdLe img 24 4) = .ok ()) (free : notPinned 3 1 s = .ok ()) :
    accepts (.descWrite .spn q0 plD) s = true := by
  have e1 : rdLe plD 0 2 = 3 := by decide +kernel
  have e2 : rdLe plD 2 2 = 0 := by decide +kernel
  have e3 : rdLe plD 8 8 = 0x1000 := by decide +kernel
  have e4 : rdLe plD 16 4 = 4992 := by decide +kernel
  have v : judgeDescWrite .spn (takeCmd .spn q0 0x0309 2 plD s) plD = .ok (fun s => okWith { s with spn.launch.table := tput s.spn.launch.table 3 (descOf (imageDesc img 0)) }) := by
    have h1 : (takeCmd .spn q0 0x0309 2 plD s).rd .spn 0x1000 4992 = img := rd
    have h2 : tableImage img (takeCmd .spn q0 0x0309 2 plD s) = true := h
    have h3 : notPinned 3 1 (takeCmd .spn q0 0x0309 2 plD s) = .ok () := free
    have h4 : checkPl [(0, 4), (8, 12)] [(0, decide (3 < 4096)), (8, !badHostRange .spn 0x1000 4992)] plD = .ok () := by rfl
    simp only [judgeDescWrite, e1, e2, e3, e4, h4, h1, h2, one, ok, h3]
    rfl
  refine accepts_of rfl (by simp only [Judged.up, up]; rfl) (by simp only [Judged.taken, Judged.body, fresh]; exact v) ?_
  simp only [Judged.taken, Judged.body, fresh]
  exact bound

theorem test_hyps_launch_table_load (s : State) (img : Bytes) (up : coreDown .spn 2 s = false) (fresh : s.payload .spn q0 0x0308 plT = plT)
    (bound : missedBy .spn q0 0x0308 (takeCmd .spn q0 0x0308 2 plT s) = 0)
    (rd : s.rd .spn 0x1000 4992 = img) (h : tableImage img s = true) (one : rdLe (imgPayload img) 0 4 = 1) (base : rdLe (imgPayload img) 4 4 = 7)
    (ok : descCheck [imageDesc img 0] (rdLe img 24 4) = .ok ()) (free : notPinned 7 1 s = .ok ()) (jobs : classBFull .spn 2 s = false) :
    accepts (.launchTableLoad .spn q0 plT) s = true := by
  have e1 : rdLe plT 0 8 = 0x1000 := by decide +kernel
  have e2 : rdLe plT 8 4 = 4992 := by decide +kernel
  have e3 : rdLe plT 12 2 = 0 := by decide +kernel
  have e4 : rdLe plT 14 2 = 0 := by decide +kernel
  have v : ∃ f, judgeTableLoad .spn q0 (takeCmd .spn q0 0x0308 2 plT s) plT = .ok f := by
    have h1 : (takeCmd .spn q0 0x0308 2 plT s).rd .spn 0x1000 4992 = img := rd
    have h2 : tableImage img (takeCmd .spn q0 0x0308 2 plT s) = true := h
    have h3 : notPinned 7 1 (takeCmd .spn q0 0x0308 2 plT s) = .ok () := free
    have h5 : classBFull .spn 2 (takeCmd .spn q0 0x0308 2 plT s) = false := jobs
    have h4 : checkPl [(0, 16)] [(0, !badHostRange .spn 0x1000 4992), (12, decide (0 < 4096))] plT = .ok () := by rfl
    have h6 : List.range 1 = [0] := rfl
    simp only [judgeTableLoad, e1, e2, e3, e4, h4, h1, h2, one, base, h3, h5, ↓reduceIte, h6, List.map_cons, List.map_nil, Nat.add_zero, Nat.sub_self, ok]
    exact ⟨_, rfl⟩
  obtain ⟨f, v⟩ := v
  refine accepts_of rfl (by simp only [Judged.up, up]; rfl) (by simp only [Judged.taken, Judged.body, fresh]; exact v) ?_
  simp only [Judged.taken, Judged.body, fresh]
  exact bound

/-! ## WellFormed: for each check a command that it refuses -/

theorem test_wf_refuses_1 :
    (∀ a, (Instr.portEnable .spn 2 a).wellFormed = false) ∧
    (∀ a, (Instr.portDisable .spn 2 a).wellFormed = false) ∧
    (∀ a, (Instr.portRetrainBit .spn 2 a).wellFormed = false) ∧
    (∀ a, (Instr.portClrQuar .spn 2 a).wellFormed = false) ∧
    (∀ a, (Instr.outputOffsetHiWrite 4 a).wellFormed = false) ∧
    (∀ a, (Instr.tiInputConfigWrite 8 a).wellFormed = false) ∧
    (∀ a, (Instr.mbDoorbell .spn 35 a).wellFormed = false) ∧
    (∀ a, (Instr.ringDoorbell .spn 16 a).wellFormed = false) ∧
    (∀ a, (Instr.dmaStart .spn 8 a).wellFormed = false) ∧
    (∀ a, (Instr.dmaAbort .spn 8 a).wellFormed = false) ∧
    (Instr.ringEntryDispatch .spn 16).wellFormed = false ∧
    (∀ a b, (Instr.classBSlice .spn 16 a b).wellFormed = false) ∧
    (Instr.completionRoomReturn .spn 16).wellFormed = false ∧
    (∀ a, (Instr.mgmtHello .spn ⟨.ring 16, 0, 0, false, false, false⟩ a).wellFormed = false) ∧
    (∀ a, (Instr.chanOpen .spn ⟨.ring 16, 0, 0, false, false, false⟩ a).wellFormed = false) ∧
    (∀ a, (Instr.chanClose .spn ⟨.ring 16, 0, 0, false, false, false⟩ a).wellFormed = false) ∧
    (∀ a, (Instr.fence .spn ⟨.ring 16, 0, 0, false, false, false⟩ a).wellFormed = false) ∧
    (∀ a, (Instr.cmdAbort .spn ⟨.ring 16, 0, 0, false, false, false⟩ a).wellFormed = false) ∧
    (∀ a, (Instr.coreRestart .spn ⟨.ring 16, 0, 0, false, false, false⟩ a).wellFormed = false) ∧
    (∀ a, (Instr.fwStage .spn ⟨.ring 16, 0, 0, false, false, false⟩ a).wellFormed = false) ∧
    (∀ a, (Instr.fwActivate .spn ⟨.ring 16, 0, 0, false, false, false⟩ a).wellFormed = false) ∧
    (∀ a, (Instr.fwWithdraw .spn ⟨.ring 16, 0, 0, false, false, false⟩ a).wellFormed = false) ∧
    (∀ a, (Instr.selfTest .spn ⟨.ring 16, 0, 0, false, false, false⟩ a).wellFormed = false) ∧
    (∀ a, (Instr.zeroize .spn ⟨.ring 16, 0, 0, false, false, false⟩ a).wellFormed = false) ∧
    (∀ a, (Instr.debugUnlock .spn ⟨.ring 16, 0, 0, false, false, false⟩ a).wellFormed = false) ∧
    (∀ a, (Instr.timeSet .spn ⟨.ring 16, 0, 0, false, false, false⟩ a).wellFormed = false) ∧
    (∀ a, (Instr.timePhaseStep .spn ⟨.ring 16, 0, 0, false, false, false⟩ a).wellFormed = false) ∧
    (∀ a, (Instr.timeLeadSet .spn ⟨.ring 16, 0, 0, false, false, false⟩ a).wellFormed = false) ∧
    (∀ a, (Instr.portRetrain .spn ⟨.ring 16, 0, 0, false, false, false⟩ a).wellFormed = false) ∧
    (∀ a, (Instr.tiArm .spn ⟨.ring 16, 0, 0, false, false, false⟩ a).wellFormed = false) ∧
    (∀ a, (Instr.tiCancel .spn ⟨.ring 16, 0, 0, false, false, false⟩ a).wellFormed = false) ∧
    (∀ a, (Instr.tiCal .spn ⟨.ring 16, 0, 0, false, false, false⟩ a).wellFormed = false) :=
  ⟨fun _ => rfl, fun _ => rfl, fun _ => rfl, fun _ => rfl, fun _ => rfl, fun _ => rfl, fun _ => rfl, fun _ => rfl, fun _ => rfl, fun _ => rfl, rfl, fun _ _ => rfl, rfl, fun _ => rfl, fun _ => rfl, fun _ => rfl, fun _ => rfl, fun _ => rfl, fun _ => rfl, fun _ => rfl, fun _ => rfl, fun _ => rfl, fun _ => rfl, fun _ => rfl, fun _ => rfl, fun _ => rfl, fun _ => rfl, fun _ => rfl, fun _ => rfl, fun _ => rfl, fun _ => rfl, fun _ => rfl⟩

theorem test_wf_refuses_2 :
    (∀ a, (Instr.partitionCreate .spn ⟨.ring 16, 0, 0, false, false, false⟩ a).wellFormed = false) ∧
    (∀ a, (Instr.partitionTeardown .spn ⟨.ring 16, 0, 0, false, false, false⟩ a).wellFormed = false) ∧
    (∀ a, (Instr.memberJoin .spn ⟨.ring 16, 0, 0, false, false, false⟩ a).wellFormed = false) ∧
    (∀ a, (Instr.memberLeave .spn ⟨.ring 16, 0, 0, false, false, false⟩ a).wellFormed = false) ∧
    (∀ a, (Instr.launchCommit .spn ⟨.ring 16, 0, 0, false, false, false⟩ a).wellFormed = false) ∧
    (∀ a, (Instr.launchWithdraw .spn ⟨.ring 16, 0, 0, false, false, false⟩ a).wellFormed = false) ∧
    (∀ a, (Instr.freqRequest .spn ⟨.ring 16, 0, 0, false, false, false⟩ a).wellFormed = false) ∧
    (∀ a, (Instr.ledgerRead .spn ⟨.ring 16, 0, 0, false, false, false⟩ a).wellFormed = false) ∧
    (∀ a, (Instr.launchTableLoad .spn ⟨.ring 16, 0, 0, false, false, false⟩ a).wellFormed = false) ∧
    (∀ a, (Instr.descWrite .spn ⟨.ring 16, 0, 0, false, false, false⟩ a).wellFormed = false) ∧
    (∀ a, (Instr.soMap .spn ⟨.ring 16, 0, 0, false, false, false⟩ a).wellFormed = false) ∧
    (∀ a, (Instr.soMapBulk .spn ⟨.ring 16, 0, 0, false, false, false⟩ a).wellFormed = false) ∧
    (∀ a, (Instr.soUnmap .spn ⟨.ring 16, 0, 0, false, false, false⟩ a).wellFormed = false) ∧
    (∀ a, (Instr.soSignal .spn ⟨.ring 16, 0, 0, false, false, false⟩ a).wellFormed = false) ∧
    (∀ a, (Instr.ctxSwitch .spn ⟨.ring 16, 0, 0, false, false, false⟩ a).wellFormed = false) ∧
    (∀ a, (Instr.ctxReset .spn ⟨.ring 16, 0, 0, false, false, false⟩ a).wellFormed = false) ∧
    (∀ a, (Instr.skeinDump .spn ⟨.ring 16, 0, 0, false, false, false⟩ a).wellFormed = false) ∧
    (∀ a, (Instr.plyArm .spn ⟨.ring 16, 0, 0, false, false, false⟩ a).wellFormed = false) ∧
    (∀ a, (Instr.plyDisarm .spn ⟨.ring 16, 0, 0, false, false, false⟩ a).wellFormed = false) ∧
    (∀ a, (Instr.samplerBind .spn ⟨.ring 16, 0, 0, false, false, false⟩ a).wellFormed = false) ∧
    (∀ a, (Instr.outputCfg .spn ⟨.ring 16, 0, 0, false, false, false⟩ a).wellFormed = false) ∧
    (∀ a, (Instr.bobbinTest .spn ⟨.ring 16, 0, 0, false, false, false⟩ a).wellFormed = false) ∧
    (∀ a, (Instr.planCfg .spn ⟨.ring 16, 0, 0, false, false, false⟩ a).wellFormed = false) ∧
    (∀ a, (Instr.reqSubmit .spn ⟨.ring 16, 0, 0, false, false, false⟩ a).wellFormed = false) ∧
    (∀ a, (Instr.reqCancel .spn ⟨.ring 16, 0, 0, false, false, false⟩ a).wellFormed = false) ∧
    (∀ a, (Instr.reqResume .spn ⟨.ring 16, 0, 0, false, false, false⟩ a).wellFormed = false) ∧
    (∀ a, (Instr.reqQuery .spn ⟨.ring 16, 0, 0, false, false, false⟩ a).wellFormed = false) ∧
    (∀ a, (Instr.prefixInsert .spn ⟨.ring 16, 0, 0, false, false, false⟩ a).wellFormed = false) ∧
    (∀ a, (Instr.prefixInsertBulk .spn ⟨.ring 16, 0, 0, false, false, false⟩ a).wellFormed = false) ∧
    (∀ a, (Instr.prefixRemove .spn ⟨.ring 16, 0, 0, false, false, false⟩ a).wellFormed = false) ∧
    (∀ a, (Instr.adapterPublish .spn ⟨.ring 16, 0, 0, false, false, false⟩ a).wellFormed = false) ∧
    (∀ a, (Instr.adapterRebind .spn ⟨.ring 16, 0, 0, false, false, false⟩ a).wellFormed = false) :=
  ⟨fun _ => rfl, fun _ => rfl, fun _ => rfl, fun _ => rfl, fun _ => rfl, fun _ => rfl, fun _ => rfl, fun _ => rfl, fun _ => rfl, fun _ => rfl, fun _ => rfl, fun _ => rfl, fun _ => rfl, fun _ => rfl, fun _ => rfl, fun _ => rfl, fun _ => rfl, fun _ => rfl, fun _ => rfl, fun _ => rfl, fun _ => rfl, fun _ => rfl, fun _ => rfl, fun _ => rfl, fun _ => rfl, fun _ => rfl, fun _ => rfl, fun _ => rfl, fun _ => rfl, fun _ => rfl, fun _ => rfl, fun _ => rfl⟩

theorem test_wf_refuses_3 :
    (∀ a, (Instr.seedSet .spn ⟨.ring 16, 0, 0, false, false, false⟩ a).wellFormed = false) ∧
    (∀ a, (Instr.digestExpect .spn ⟨.ring 16, 0, 0, false, false, false⟩ a).wellFormed = false) ∧
    (∀ a, (Instr.whorlResume .spn ⟨.ring 16, 0, 0, false, false, false⟩ a).wellFormed = false) ∧
    (Instr.coreWatchdogExpiry .spn 35).wellFormed = false ∧
    (Instr.coreException .spn 35).wellFormed = false ∧
    (Instr.coreRestartDone .spn 35).wellFormed = false ∧
    (∀ a, (Instr.dmaUnitCopy .spn 8 a).wellFormed = false) ∧
    (∀ a, (Instr.dmaAccessRetry .spn 8 a).wellFormed = false) ∧
    (∀ a, (Instr.bulkWriteReceived .spn 2 a).wellFormed = false) ∧
    (∀ a b, (Instr.bulkAckReceived .spn 8 a b).wellFormed = false) ∧
    (Instr.bulkAckTimeout .spn 8).wellFormed = false ∧
    (Instr.blockSlotSend .spn 2).wellFormed = false ∧
    (∀ a, (Instr.blockReceived .spn 2 a).wellFormed = false) ∧
    (∀ a, (Instr.lcbReceived .spn 2 a).wellFormed = false) ∧
    (∀ a, (Instr.idleReceived .spn 2 a).wellFormed = false) ∧
    (Instr.cellSwitch 129).wellFormed = false ∧
    (Instr.linkBackoffExpiry .spn 2).wellFormed = false ∧
    (Instr.trainMarkersLocked .spn 2).wellFormed = false ∧
    (Instr.fecLockAchieved .spn 2).wellFormed = false ∧
    (∀ a, (Instr.identifyReceived .spn 2 a).wellFormed = false) ∧
    (Instr.linkStateTimeout .spn 2).wellFormed = false ∧
    (Instr.calibrateComplete .spn 2).wellFormed = false ∧
    (Instr.linkLockLost .spn 2).wellFormed = false ∧
    (Instr.linkAuthBurst .spn 2).wellFormed = false ∧
    (∀ a b, (Instr.linkDegradedWindow .spn 2 a b).wellFormed = false) ∧
    (Instr.creditStall .spn 2 0).wellFormed = false ∧
    (Instr.creditStall .spn 0 5).wellFormed = false ∧
    (Instr.bulkSatWindowEnd .spn 2).wellFormed = false ∧
    (∀ a b c, (Instr.portSatReceived a 0x1_0000 0 b c).wellFormed = false) ∧
    (∀ a b c, (Instr.portSatReceived a 0 129 b c).wellFormed = false) ∧
    (Instr.rekeyDue .spn 2).wellFormed = false ∧
    (∀ a, (Instr.rkInitReceived .spn 2 a).wellFormed = false) :=
  ⟨fun _ => rfl, fun _ => rfl, fun _ => rfl, rfl, rfl, rfl, fun _ => rfl, fun _ => rfl, fun _ => rfl, fun _ _ => rfl, rfl, rfl, fun _ => rfl, fun _ => rfl, fun _ => rfl, rfl, rfl, rfl, rfl, fun _ => rfl, rfl, rfl, rfl, rfl, fun _ _ => rfl, rfl, rfl, rfl, fun _ _ _ => rfl, fun _ _ _ => rfl, rfl, fun _ => rfl⟩

theorem test_wf_refuses_4 :
    (∀ a, (Instr.rkRespReceived .spn 2 a).wellFormed = false) ∧
    (Instr.oldKeyDiscard .spn 2).wellFormed = false ∧
    (∀ a, (Instr.kxInitReceived .spn 2 a).wellFormed = false) ∧
    (∀ a, (Instr.kxRespReceived .spn 2 a).wellFormed = false) ∧
    (∀ a, (Instr.kxAuthReceived .spn 2 a).wellFormed = false) ∧
    (∀ a, (Instr.kxFailReceived .spn 2 a).wellFormed = false) ∧
    (Instr.treqSend .spn 2).wellFormed = false ∧
    (∀ a b, (Instr.treqReceived .spn 2 a b).wellFormed = false) ∧
    (∀ a b, (Instr.trespReceived .spn 2 a b).wellFormed = false) ∧
    (Instr.servoWindowEnd .spn 2 ()).wellFormed = false ∧
    (∀ a b, (Instr.leadChangeReceived .spn 2 a b).wellFormed = false) ∧
    (∀ a b c, (Instr.phaseStepReceived .spn 2 a b c).wellFormed = false) ∧
    (∀ a, (Instr.qwordReceived .spn 2 a).wellFormed = false) ∧
    (∀ a, (Instr.tiInputEdge (0x10 + 1) 0 a).wellFormed = false) ∧
    (∀ a, (Instr.tiInputEdge 0 129 a).wellFormed = false) ∧
    (Instr.tiDelayInjection 8).wellFormed = false ∧
    (Instr.asymUpdate .spn 2).wellFormed = false ∧
    (Instr.pfPulseTimeout 2).wellFormed = false ∧
    (∀ a b, (Instr.freqMeasureWindow 8 a b).wellFormed = false) ∧
    (∀ a, (Instr.ptpAnnounceReceived 4 a).wellFormed = false) ∧
    (∀ a b c, (Instr.ptpSyncReceived 4 a b c).wellFormed = false) ∧
    (∀ a b, (Instr.ptpDelayRespReceived 4 a b).wellFormed = false) ∧
    (Instr.ptpMasterSend 4).wellFormed = false ∧
    (Instr.announceReceiptTimeout 4).wellFormed = false ∧
    (∀ a, (Instr.esmcReceived 4 a).wellFormed = false) ∧
    (Instr.esmcTimeout 4).wellFormed = false ∧
    (∀ a, (Instr.ethLos ⟨4, a⟩).wellFormed = false) ∧
    (Instr.refWtrExpiry 8).wellFormed = false ∧
    (Instr.pulseOutputEdge 4).wellFormed = false ∧
    (∀ a, (Instr.readyCombine 0x1_0000 0 a).wellFormed = false) ∧
    (∀ a, (Instr.readyCombine 0 129 a).wellFormed = false) ∧
    (∀ a, (Instr.readyAtRoot 0x1_0000 0 a).wellFormed = false) :=
  ⟨fun _ => rfl, rfl, fun _ => rfl, fun _ => rfl, fun _ => rfl, fun _ => rfl, rfl, fun _ _ => rfl, fun _ _ => rfl, rfl, fun _ _ => rfl, fun _ _ _ => rfl, fun _ => rfl, fun _ => rfl, fun _ => rfl, rfl, rfl, rfl, fun _ _ => rfl, fun _ => rfl, fun _ _ _ => rfl, fun _ _ => rfl, rfl, rfl, fun _ => rfl, rfl, fun _ => rfl, rfl, rfl, fun _ => rfl, fun _ => rfl, fun _ => rfl⟩

theorem test_wf_refuses_5 :
    (∀ a, (Instr.readyAtRoot 0 129 a).wellFormed = false) ∧
    (∀ a, (Instr.launchDecisionDeadline 0x1_0000 a).wellFormed = false) ∧
    (∀ a b, (Instr.slipReceived a b (2 ^ 32) 0 0).wellFormed = false) ∧
    (∀ a b, (Instr.slipReceived a b 0 (2 ^ 32) 0).wellFormed = false) ∧
    (∀ a b, (Instr.slipReceived a b 0 0 256).wellFormed = false) ∧
    (∀ a b, (Instr.launchFaultReceived 0x1_0000 a b 0).wellFormed = false) ∧
    (∀ a b, (Instr.launchFaultReceived 0 a b 256).wellFormed = false) ∧
    (Instr.rootDoff 0x1_0000).wellFormed = false ∧
    (∀ a b, (Instr.membershipConfirmReceived 0x1_0000 a b 0).wellFormed = false) ∧
    (∀ a b, (Instr.membershipConfirmReceived 0 a b 16).wellFormed = false) ∧
    (∀ a b c, (Instr.crossingQueueStall 32 0 ⟨a, b, c⟩).wellFormed = false) ∧
    (∀ a b c, (Instr.crossingQueueStall 0 32 ⟨a, b, c⟩).wellFormed = false) ∧
    (Instr.freqSettleConfirm 32).wellFormed = false ∧
    (Instr.clockSettleTimeout 32).wellFormed = false ∧
    (Instr.policySet 0x1_0000 0).wellFormed = false ∧
    (Instr.policySet 0 16).wellFormed = false ∧
    (∀ a b, (Instr.soOpSignal 2048 a b).wellFormed = false) ∧
    (∀ a b, (Instr.soOpSignalTo 2048 a b).wellFormed = false) ∧
    (∀ a b, (Instr.soOpBroadcast 2048 a b).wellFormed = false) ∧
    (∀ a b, (Instr.soOpWaitTake 2048 a b).wellFormed = false) ∧
    (∀ a b, (Instr.soOpWait 2048 a b).wellFormed = false) ∧
    (∀ a b, (Instr.soOpArriveWait 2048 a b).wellFormed = false) ∧
    (∀ a b, (Instr.soOpClear 2048 a b).wellFormed = false) ∧
    (∀ a b, (Instr.soOpRead 2048 a b).wellFormed = false) ∧
    (∀ a b, (Instr.soOpInit 2048 a b).wellFormed = false) ∧
    (∀ a b, (Instr.soOpSeqSet 2048 a b).wellFormed = false) ∧
    (∀ a b c, (Instr.soOpRemote 2048 a b c).wellFormed = false) ∧
    (Instr.soBankApply 16).wellFormed = false ∧
    (Instr.soWaitExpiry 2048).wellFormed = false ∧
    (Instr.coreResetInput 2048).wellFormed = false ∧
    (∀ a, (Instr.barArrive 2048 a).wellFormed = false) ∧
    (∀ a, (Instr.barArriveWait 2048 a).wellFormed = false) :=
  ⟨fun _ => rfl, fun _ => rfl, fun _ _ => rfl, fun _ _ => rfl, fun _ _ => rfl, fun _ _ => rfl, fun _ _ => rfl, rfl, fun _ _ => rfl, fun _ _ => rfl, fun _ _ _ => rfl, fun _ _ _ => rfl, rfl, rfl, rfl, rfl, fun _ _ => rfl, fun _ _ => rfl, fun _ _ => rfl, fun _ _ => rfl, fun _ _ => rfl, fun _ _ => rfl, fun _ _ => rfl, fun _ _ => rfl, fun _ _ => rfl, fun _ _ => rfl, fun _ _ _ => rfl, rfl, rfl, rfl, fun _ => rfl, fun _ => rfl⟩

theorem test_wf_refuses_6 :
    (∀ a, (Instr.barWait 2048 a).wellFormed = false) ∧
    (Instr.barrierWaitExpiry 2048).wellFormed = false ∧
    (∀ a, (Instr.plyUpReceived 129 a).wellFormed = false) ∧
    (∀ a, (Instr.plyCellGapTimeout 0x1_0000 a 0).wellFormed = false) ∧
    (∀ a, (Instr.plyCellGapTimeout 0 a 129).wellFormed = false) ∧
    (Instr.heldOutputWrite 0x1_0000).wellFormed = false ∧
    (Instr.planningPass 0x1_0000).wellFormed = false ∧
    (∀ a b c, (Instr.stragglerReceived 0x1_0000 a b c 0).wellFormed = false) ∧
    (∀ a b c, (Instr.stragglerReceived 0 a b c 256).wellFormed = false) ∧
    (Instr.moveTimeoutExpiry 524_288).wellFormed = false ∧
    (∀ a, (Instr.mirrorAckReceived 0x1_0000 a 0).wellFormed = false) ∧
    (∀ a, (Instr.mirrorAckReceived 0 a (2 ^ 32)).wellFormed = false) ∧
    (Instr.rackPeriodResend 129).wellFormed = false ∧
    (∀ a, (Instr.whorlSetReceived 0x1_0000 a).wellFormed = false) ∧
    (∀ a, (Instr.plantInputChange 8 a).wellFormed = false) ∧
    (∀ a, (Instr.whorlInputReceived a (2 ^ 64)).wellFormed = false) ∧
    (∀ a b c, (Instr.whorlTripReceived .spn 2 a ⟨b, c⟩).wellFormed = false) ∧
    (Instr.coastLaunchCommit 0x1_0000).wellFormed = false ∧
    (∀ a, (Instr.commitVoteCombine 0x1_0000 0 a).wellFormed = false) ∧
    (∀ a, (Instr.commitVoteCombine 0 129 a).wellFormed = false) ∧
    (∀ a, (Instr.commitVoteAtRoot 0x1_0000 0 a).wellFormed = false) ∧
    (∀ a, (Instr.commitVoteAtRoot 0 129 a).wellFormed = false) ∧
    (∀ a, (Instr.commitDecisionDeadline 0x1_0000 a).wellFormed = false) ∧
    (∀ a, (Instr.treeBreakReceived 0x1_0000 a 0).wellFormed = false) ∧
    (∀ a, (Instr.treeBreakReceived 0 a 129).wellFormed = false) ∧
    (Instr.treeRepairDone 0x1_0000).wellFormed = false ∧
    (∀ a, (Instr.rootLostReportReceived 0x1_0000 0 a).wellFormed = false) ∧
    (∀ a, (Instr.rootLostReportReceived 0 (2 ^ 32) a).wellFormed = false) ∧
    (∀ a, (Instr.tapXactRead a 4 0).wellFormed = false) ∧
    (∀ a, (Instr.tapXactRead a 0 (2 ^ 56)).wellFormed = false) ∧
    (∀ a b, (Instr.tapXactWrite a 4 0 b).wellFormed = false) ∧
    (∀ a b, (Instr.tapXactWrite a 0 (2 ^ 56) b).wellFormed = false) :=
  ⟨fun _ => rfl, rfl, fun _ => rfl, fun _ => rfl, fun _ => rfl, rfl, rfl, fun _ _ _ => rfl, fun _ _ _ => rfl, rfl, fun _ => rfl, fun _ => rfl, rfl, fun _ => rfl, fun _ => rfl, fun _ => rfl, fun _ _ _ => rfl, rfl, fun _ => rfl, fun _ => rfl, fun _ => rfl, fun _ => rfl, fun _ => rfl, fun _ => rfl, fun _ => rfl, rfl, fun _ => rfl, fun _ => rfl, fun _ => rfl, fun _ => rfl, fun _ _ => rfl, fun _ _ => rfl⟩

theorem test_wf_refuses_7 :
    (Instr.pf10mNoEdge 2).wellFormed = false ∧
    (Instr.tiInputSettled 8).wellFormed = false ∧
    (Instr.clusterStepEnd 32).wellFormed = false ∧
    (Instr.dmaPaceResume .spn 8).wellFormed = false ∧
    (Instr.ptpDelayReqSend 4).wellFormed = false ∧
    (∀ a b, (Instr.ptpDelayReqReceived 4 a b).wellFormed = false) ∧
    (∀ a b, (Instr.ptpFollowUpReceived 4 a b).wellFormed = false) ∧
    (Instr.esmcSend 4).wellFormed = false :=
  ⟨rfl, rfl, rfl, rfl, rfl, fun _ _ => rfl, fun _ _ => rfl, rfl⟩

theorem test_wf_refuses_requests :
    (Instr.mgmtHello .crl ⟨.ring 256, 0, 0, false, false, false⟩ []).wellFormed = false ∧
    (Instr.mgmtHello .crl ⟨.mbox 11, 0, 0, false, false, false⟩ []).wellFormed = false ∧
    (Instr.mgmtHello .crl ⟨.ring 0, 2 ^ 32, 0, false, false, false⟩ []).wellFormed = false ∧
    (Instr.mgmtHello .crl ⟨.ring 0, 0, 2 ^ 64, false, false, false⟩ []).wellFormed = false := by decide +kernel

theorem test_wf_refuses_offsets :
    (∀ v, (Instr.bankWindowWrite 0xBFFC ⟨none, v⟩).wellFormed = false) ∧ (∀ v, (Instr.bankWindowWrite 0x1_0000 ⟨none, v⟩).wellFormed = false) ∧
    (∀ v, (Instr.bankBegin ⟨(some 35), v⟩).wellFormed = false) ∧ (∀ v, (Instr.bankEnd ⟨(some 35), v⟩).wellFormed = false) ∧
    (∀ v, (Instr.bankAbort ⟨(some 35), v⟩).wellFormed = false) ∧ (∀ v, (Instr.bankWindowWrite 0xC000 ⟨(some 35), v⟩).wellFormed = false) ∧
    (∀ c a, (Instr.regionStretch c ⟨0, a, [32], []⟩).wellFormed = false) ∧ (∀ d, (Instr.tiInbandCalCycle 0 [] d).wellFormed = false) ∧
    (Instr.inbandPortVisit 0 [] []).wellFormed = false ∧ (∀ m : SignalMsg, (Instr.signalCellReceived { m with port := 2 }).wellFormed = false) ∧
    (∀ v, (Instr.bankWindowWrite 0xC001 ⟨none, v⟩).wellFormed = false) ∧ (∀ v, (Instr.traceBaseWrite 0x430C v).wellFormed = false) ∧
    (Instr.bar2Write 0x10_0000_0000 [1]).wellFormed = false := by
  refine ⟨fun _ => rfl, fun _ => rfl, fun _ => rfl, fun _ => rfl, fun _ => rfl, fun _ => rfl, ?_, fun _ => rfl, rfl, fun _ => rfl, fun _ => rfl, fun _ => rfl, rfl⟩
  intro c a
  simp [Instr.wellFormed]

/-! ## The spec's worked examples -/

/-- 01, worked example: the fields of the die's HEA and of the HEAs of the Creels on its path. -/
theorem test_hea_worked_example :
    (heaRow 0x0028_8989, heaRack 0x0028_8989, heaSled 0x0028_8989, heaDie 0x0028_8989) = (5, 17, 12, 9) ∧ spnHea 0x0028_8989 = true ∧
    crlHea 0x0028_8FF0 = true ∧ heaRowIdx 0x002A_0FE5 = 21 ∧ heaRoot 0x0210_5FE2 = 690 := by decide +kernel

/-- 02, worked example: GT 1,700,000,000 s + 10,060,250.5 ns is DTC 10,060,000, and GT 1,700,004,000 s + 150 ns is DTC 3,999,999,999,899. -/
theorem test_dtc_worked_example :
    dtcOf (1_700_000_000 * unitsPerSec + 10_060_250 * 65536 + 0x8000) 1_700_000_000 16_416_768 = some 10_060_000 ∧
    dtcOf (1_700_004_000 * unitsPerSec + 150 * 65536) 1_700_000_000 16_416_768 = some 3_999_999_999_899 := by decide +kernel

/-- 07, worked example: L = 5,000, NOMINAL = 64,000, GUARD = 1,000, cluster 7 at 2.0 GHz, 32,000 ns after the launch. -/
def zCase (lost : Nat) : State := ({ zDie 37_000 with
  spn.launch.cur := some { curN with desc := some ⟨0, 0, 0, 128, 64_000, 1_000, 0, 0, 0, 0, 0⟩ }
  spn.launch.clusters := [(7, { running := true, s := lost, eighths := 8 * lost })] }).setReg .spn 0x0A40 2000

theorem test_readiness_worked_example :
    (zCase 600).projEnd 7 = 5000 + 32_310 ∧ (zCase 600).guardOk 7 = true ∧
    (zCase 1010).projEnd 7 = 5000 + 32_522 ∧ (zCase 1010).guardOk 7 = false := by decide +kernel

/-- The sum of wide lanes. -/
def sumOf (l : List Sys2Proof.Machine.Num) : Acc := (l.map (accNum true)).foldl Acc.add accIdentity

/-- 11, worked sums: 2^24, 1, -2^24 and 1 in FP32 give 2.0; the BF16 sum in each mode; three scaled E2M1 elements in FP16. -/
theorem test_sum_worked_examples :
    finishSum true 0 0 0 (sumOf (([0x4B80_0000, 0x3F80_0000, 0xCB80_0000, 0x3F80_0000]).map (numOf 0 127))) = { raw := 0x4000_0000 } ∧
    ([0, 1, 2, 3]).map (fun m => (finishSum true 1 m 0 (sumOf (([0x3F80, 0x3B80, 0x3080]).map (numOf 1 127)))).raw) = [0x3F81, 0x3F80, 0x3F81, 0x3F80] ∧
    (finishSum true 1 4 0x8000_01FF (sumOf (([0x3F80, 0x3B80, 0x3080]).map (numOf 1 127)))).raw = 0x3F81 ∧
    (finishSum true 1 4 0x8000_0200 (sumOf (([0x3F80, 0x3B80, 0x3080]).map (numOf 1 127)))).raw = 0x3F80 ∧
    finishSum true 2 0 0 (sumOf [numOf 7 0x85 7, numOf 7 0x7F 3, numOf 7 0x7C 1]) = { raw := 0x5E06, inexact := true } := by decide +kernel

/-- 12, vector 1 of the generator. -/
theorem test_bobbin_vector_1 :
    bobbin 0 0 0 0 = [0x8E, 0xA2, 0xB7, 0xCA, 0x51, 0x67, 0x45, 0xBF, 0xEA, 0xFC, 0x49, 0x90, 0x4B, 0x49, 0x60, 0x89] := by decide +kernel

/-! ## Steps -/

/-- A command at the front of the queue is done, and the rest waits (R425: an allowed address connects). -/
theorem test_step_takes_the_front :
    (match step { z.setReg .crl 0x4440 7 with pending := [.modbusConnect 7, .launch] } with
      | .next t => decide (t.crl.plant.conns = [7] ∧ t.pending = [.launch])
      | _ => false) = true := by decide +kernel

/-- With no command waiting, a TICK passes (log entry 3). -/
theorem test_idle_step_ticks :
    (match step z with
      | .next t => decide (t.sc.time.tick = 1 ∧ t.cc.time.tick = 1)
      | _ => false) = true := by decide +kernel

/-- 09, worked example: the object 77 lies in bank 13; a SIGNAL of 1 brings its VALUE to 1. -/
theorem test_signal_at_bank_13 :
    (match exec (.soBankApply 13) { z with
        spn.sync.objs := [(77, { obj1 with ownerCtx := 3, value := 0 })], spn.sync.xlat := [(0, { ctx := 3, vid := 0x1234, pid := 77 })]
        spn.sync.queues := [(13, [{ qop 1 1 with pid := 77, ctx := 3, vid := 0x1234 }])] } with
      | .next t => decide ((t.obj 77).map (fun o => o.value) = some 1)
      | _ => false) = true := by decide +kernel

end Sys2Proof.Tests
end

section
/-! PROOFS. The ring doorbell registers (R486) and the epoch table view (R495): which operation an offset names, and what that operation does. -/

namespace Sys2Proof.Machine

/-! ## Registers that hold nothing -/

/-- A key that a table does not list reads as the default. -/
theorem tget_of_not_listed {α : Type} (d : α) {t : Tbl α} {k : Nat} (h : ∀ e ∈ t, e.1 ≠ k) : tget d t k = d := by
  induction t with
  | nil => rfl
  | cons e t ih =>
    have ht := ih fun x hx => h x (List.mem_cons_of_mem _ hx)
    simp only [tget, tfind, if_neg (h e List.mem_cons_self)] at ht ⊢
    exact ht

theorem regDef_spn_of_ringDoorbell {o : Nat} (h : 0x0480 ≤ o) (h' : o < 0x04C0) : regDef .spn o = {} := by
  have hkeys : ∀ e ∈ spnRegDefs, e.1 < 0x0480 ∨ 0x04C0 ≤ e.1 := by decide
  simp (disch := omega) only [regDef, if_neg]
  exact tget_of_not_listed _ fun e he => by have := hkeys e he; omega

/-- Above its listed registers, a Creel holds words only in the port blocks and the vector table. -/
theorem regDef_crl_of_high {o : Nat} (h : 0x8000 ≤ o) (hport : ¬(0x1_0000 ≤ o ∧ o < 0x1_2040)) (hvec : ¬(0x38_0000 ≤ o ∧ o < 0x38_2000)) :
    regDef .crl o = {} := by
  have hkeys : ∀ e ∈ crlRegDefs, e.1 < 0x8000 := by decide
  simp (disch := omega) only [regDef, if_neg]
  exact tget_of_not_listed _ fun e he => by have := hkeys e he; omega

theorem reset_reg_of_no_fields {p : Part} {o : Nat} (h : regDef p o = {}) : State.reset.reg p o = 0 := by
  cases p <;> simp [State.reg, h, State.reset]

theorem plainWrite_of_no_fields {p : Part} {o : Nat} (h : regDef p o = {}) (v : Nat) (s : State) : plainWrite p o v s = s := by
  simp [plainWrite, h]

/-! ## Accesses of the register port (R474) -/

theorem exec_registerWrite_word {p : Part} {off : Nat} (h : off % 4 = 0) (v : Word) (s : State) :
    exec (.registerWrite p off 0xF v) s = done s (writeReg p off v.toNat s) := by
  change done s (if ((0xF : BitVec 4) = 0xF && off % 4 = 0) = true then _ else s) = _
  simp [h]

/-- A write at an offset where a whole word changes nothing gives the state itself, whatever its byte enables. -/
theorem gives_self_of_writeReg {p : Part} {off : Nat} {v : Word} {s : State} (h : writeReg p off v.toNat s = s) (be : BitVec 4) :
    gives (.registerWrite p off be v) s s := by
  have hexec : exec (.registerWrite p off be v) s = done s (if be = 0xF && off % 4 = 0 then writeReg p off v.toNat s else s) := rfl
  rw [gives, hexec, h, ite_self]
  exact done_follows s s rfl

/-- A read of a register without a counter puts its value on the bus. -/
theorem exec_rcRegisterRead_of_no_fields {p : Part} {off : Nat} (ha : off % 4 = 0) (h : regDef p off = {}) (ev : Nat) (s : State) :
    exec (.rcRegisterRead p off ev) s = done s (s.modCore p fun c => { c with bus := BitVec.ofNat 32 (s.readReg p off) }) := by
  change done s (readClear p off ev s) = _
  simp [readClear, show off / 4 * 4 = off by omega, h]

/-! ## The offsets of the doorbells and of the view -/

theorem writeReg_spn_ringDoorbell {n : Nat} (h : n < 16) (v : Nat) (s : State) :
    writeReg .spn (0x0480 + 0x4 * n) v s = ringDoorbell .spn n v s := by
  simp (disch := omega) only [writeReg, writeSpn, if_neg, if_pos]
  rw [show (0x0480 + 0x4 * n - 0x0480) / 4 = n by omega]

theorem writeReg_crl_ringDoorbell {n : Nat} (h : n < 256) (v : Nat) (s : State) :
    writeReg .crl (0x8000 + 0x4 * n) v s = ringDoorbell .crl n v s := by
  simp (disch := omega) only [writeReg, writeCrl, if_neg, if_pos]
  rw [show (0x8000 + 0x4 * n - 0x8000) / 4 = n by omega]

theorem readReg_spn_ringDoorbell {n : Nat} (h : n < 16) (s : State) : s.readReg .spn (0x0480 + 0x4 * n) = s.reg .spn (0x0480 + 0x4 * n) := by
  rw [State.readReg, show (0x0480 + 0x4 * n) / 4 * 4 = 0x0480 + 0x4 * n by omega]
  simp (disch := omega) only [State.readSpn, if_neg]

theorem readReg_crl_ringDoorbell {n : Nat} (h : n < 256) (s : State) : s.readReg .crl (0x8000 + 0x4 * n) = s.reg .crl (0x8000 + 0x4 * n) := by
  rw [State.readReg, show (0x8000 + 0x4 * n) / 4 * 4 = 0x8000 + 0x4 * n by omega]
  simp (disch := omega) only [State.readCrl, if_neg]

theorem writeReg_crl_epochView {n : Nat} (h : n < 0x1_0000) (v : Nat) (s : State) : writeReg .crl (0x4_0000 + 0x4 * n) v s = s := by
  simp (disch := omega) only [writeReg, writeCrl, if_neg]
  exact plainWrite_of_no_fields (regDef_crl_of_high (by omega) (by omega) (by omega)) v s

theorem readReg_crl_epochView {n : Nat} (h : n < 0x1_0000) (s : State) : s.readReg .crl (0x4_0000 + 0x4 * n) = tget 0 s.epochView n := by
  rw [State.readReg, show (0x4_0000 + 0x4 * n) / 4 * 4 = 0x4_0000 + 0x4 * n by omega]
  simp (disch := omega) only [State.readCrl, if_neg, if_pos]
  rw [show (0x4_0000 + 0x4 * n - 0x4_0000) / 4 = n by omega]

/-! ## The doorbell (R486) -/

theorem exec_ringDoorbell {p : Part} {n : Nat} (h : n < p.chans) (v : Word) (s : State) :
    exec (.ringDoorbell p n v) s = done s (ringDoorbell p n v.toNat s) := run_of (decide_eq_true h)

/-- A doorbell is ignored, with DB_BAD, on a channel without a command ring and for a WRITE outside what lies from the last one to SIZE slots
beyond READ. -/
theorem ringDoorbell_ignored {p : Part} {n w ahead had : Nat} {s : State} (ha : ahead = (w + 2 ^ 32 - (s.chan p n).cmdRead) % 2 ^ 32)
    (hh : had = ((s.chan p n).cmdWrite + 2 ^ 32 - (s.chan p n).cmdRead) % 2 ^ 32)
    (h : (s.chan p n).isOpen = false ∨ (s.chan p n).cmdSize = 0 ∨ (s.chan p n).cmdSize < ahead ∨ ahead < had) :
    ringDoorbell p n w s = s.setEv p (fwEvents p) 5 := by
  subst ha hh
  exact if_pos (by simpa [or_assoc] using h)

theorem ringDoorbell_taken {p : Part} {n w ahead had : Nat} {s : State} (ha : ahead = (w + 2 ^ 32 - (s.chan p n).cmdRead) % 2 ^ 32)
    (hh : had = ((s.chan p n).cmdWrite + 2 ^ 32 - (s.chan p n).cmdRead) % 2 ^ 32) (hopen : (s.chan p n).isOpen = true)
    (hsize : (s.chan p n).cmdSize ≠ 0) (hfits : ahead ≤ (s.chan p n).cmdSize) (hforward : had ≤ ahead) :
    ringDoorbell p n w s = s.modChan p n (fun c => { c with
      cmdWrite := w, posts := if ahead = had then c.posts else c.posts ++ [(w, s.tick p)] }) := by
  subst ha hh
  exact if_neg (by simpa [hopen, hsize] using ⟨hfits, hforward⟩)

/-- A bit that hardware sets in an event register stands there. -/
theorem setEv_testBit_same (p : Part) (off : Nat) {bit : Nat} (h : bit < 32) (s : State) : ((s.setEv p off bit).reg p off).testBit bit = true := by
  rw [State.setEv, noteEv_reg, setReg_reg_same, Nat.testBit_mod_two_pow]
  simp [h]

theorem exec_ringDoorbell_ignored {p : Part} {n ahead had : Nat} {v : Word} {s : State} (hn : n < p.chans)
    (ha : ahead = (v.toNat + 2 ^ 32 - (s.chan p n).cmdRead) % 2 ^ 32)
    (hh : had = ((s.chan p n).cmdWrite + 2 ^ 32 - (s.chan p n).cmdRead) % 2 ^ 32)
    (h : (s.chan p n).isOpen = false ∨ (s.chan p n).cmdSize = 0 ∨ (s.chan p n).cmdSize < ahead ∨ ahead < had) :
    ∃ t, exec (.ringDoorbell p n v) s = .next t ∧ (t.reg p (fwEvents p)).testBit 5 = true ∧ Follows (s.setEv p (fwEvents p) 5) t := by
  rw [exec_ringDoorbell hn, ringDoorbell_ignored ha hh h]
  refine completes (setEv_pending ..) fun t ht => ⟨?_, ht⟩
  rw [ht.fwBits p 5 (by decide) (by decide)]
  exact setEv_testBit_same p (fwEvents p) (by decide) s

theorem gives_ringDoorbell_taken {p : Part} {n ahead had : Nat} {v : Word} {s : State} (hn : n < p.chans)
    (ha : ahead = (v.toNat + 2 ^ 32 - (s.chan p n).cmdRead) % 2 ^ 32)
    (hh : had = ((s.chan p n).cmdWrite + 2 ^ 32 - (s.chan p n).cmdRead) % 2 ^ 32) (hopen : (s.chan p n).isOpen = true)
    (hsize : (s.chan p n).cmdSize ≠ 0) (hfits : ahead ≤ (s.chan p n).cmdSize) (hforward : had ≤ ahead) :
    gives (.ringDoorbell p n v) s (s.modChan p n (fun c => { c with
      cmdWrite := v.toNat, posts := if ahead = had then c.posts else c.posts ++ [(v.toNat, s.tick p)] })) := by
  rw [gives, exec_ringDoorbell hn, ringDoorbell_taken ha hh hopen hsize hfits hforward]
  exact done_follows _ _ (modChan_pending ..)

/-! ## A channel rewritten as it stood -/

/-- A change of one part's core that leaves its memories alone changes nothing elsewhere. -/
theorem Elsewhere.of_modCore {p : Part} {f : PartCore → PartCore} {s : State} (hmem : (f (s.core p)).mem = (s.core p).mem)
    (hhost : (f (s.core p)).hostMem = (s.core p).hostMem) : Elsewhere p s (s.modCore p f) where
  other r hr := by
    cases p <;> cases r
    case spn.spn | crl.crl => exact absurd rfl hr
    all_goals constructor <;> intros <;> rfl
  mem r x _ := by
    cases p <;> cases r <;> simp_all [State.byte]

theorem modChan_chan_of_fixed {p : Part} {n : Nat} {f : Chan → Chan} {s : State} (h : f (s.chan p n) = s.chan p n) (q : Part) (m : Nat) :
    (s.modChan p n f).chan q m = s.chan q m := by
  rw [modChan_chan]
  split
  · rename_i hq
    obtain ⟨rfl, rfl⟩ := hq
    exact h
  · rfl

/-- What follows, with no command waiting, on rewriting a channel as it stood: every channel as before, and nothing changed elsewhere. -/
theorem Follows.of_modChan_fixed {p : Part} {n : Nat} {f : Chan → Chan} {s t : State} (h : f (s.chan p n) = s.chan p n) (hw : s.noWaits)
    (ht : Follows (s.modChan p n f) t) : Elsewhere p s t ∧ ∀ ch, t.chan p ch = s.chan p ch := by
  have hchan := modChan_chan_of_fixed h
  have hw' : (s.modChan p n f).noWaits := by simpa [State.noWaits, hchan, -core_spn, -core_crl] using hw
  refine ⟨ht.toReports.elsewhere (Elsewhere.of_modCore rfl rfl) fun r ch x hx => ?_, fun ch => ?_⟩
  · simpa [State.inRing, hchan] using hx
  · rw [← hchan p ch, State.chan, ht.chans hw' p, State.chan]

/-- A doorbell of the WRITE that stands changes nothing. -/
theorem exec_ringDoorbell_repeated {p : Part} {n : Nat} {v : Word} {s : State} (hn : n < p.chans) (hw : s.noWaits)
    (hopen : (s.chan p n).isOpen = true) (hsize : (s.chan p n).cmdSize ≠ 0)
    (hfits : ((s.chan p n).cmdWrite + 2 ^ 32 - (s.chan p n).cmdRead) % 2 ^ 32 ≤ (s.chan p n).cmdSize) (hv : v.toNat = (s.chan p n).cmdWrite) :
    ∃ t, exec (.ringDoorbell p n v) s = .next t ∧ Elsewhere p s t ∧ ∀ ch, t.chan p ch = s.chan p ch := by
  obtain ⟨t, hexec, ht⟩ := gives_ringDoorbell_taken hn rfl rfl hopen hsize (hv ▸ hfits) (hv ▸ Nat.le_refl _)
  exact ⟨t, hexec, Follows.of_modChan_fixed (by simp [hv]) hw ht⟩

/-! ## The epoch table view (R495) -/

/-- With nothing written to the table in this TICK, the view is the table. -/
theorem epochView_of_not_written {s : State} (h : s.crl.epochsAt ≠ s.cc.time.tick) : s.epochView = s.crl.epochs := if_neg h

/-- The first write of a TICK keeps the table as it was, and further ones keep what the first kept. -/
theorem setEpoch_epochView (part : Nat) (v : Option Nat) (s : State) : (setEpoch part v s).epochView = s.epochView :=
  if_pos rfl

theorem gives_rcRegisterRead_epochView {n : Nat} (h : n < 0x1_0000) (ev : Nat) (s : State) :
    gives (.rcRegisterRead .crl (0x4_0000 + 0x4 * n) ev) s { s with cc.bus := BitVec.ofNat 32 (tget 0 s.epochView n) } := by
  rw [gives, exec_rcRegisterRead_of_no_fields (by omega) (regDef_crl_of_high (by omega) (by omega) (by omega)), readReg_crl_epochView h]
  exact done_follows _ _ rfl

/-! ## The statements -/

/-- Settles O5: each offset of the two blocks names its channel's doorbell, which takes the value or sets DB_BAD. -/
theorem ringDoorbellRegisters : Obligations.RingDoorbellRegisters := by
  unfold Obligations.RingDoorbellRegisters
  refine ⟨fun n v s hn => ⟨?_, ?_⟩, fun n v s hn => ⟨?_, ?_⟩, fun p n v s ahead had hn ha hh => ⟨?_, ?_⟩, ?_⟩
  · rw [exec_registerWrite_word (by omega), writeReg_spn_ringDoorbell hn, exec_ringDoorbell hn]
  · rw [readReg_spn_ringDoorbell hn, reset_reg_of_no_fields (regDef_spn_of_ringDoorbell (by omega) (by omega))]
  · rw [exec_registerWrite_word (by omega), writeReg_crl_ringDoorbell hn, exec_ringDoorbell hn]
  · rw [readReg_crl_ringDoorbell hn, reset_reg_of_no_fields (regDef_crl_of_high (by omega) (by omega) (by omega))]
  · exact exec_ringDoorbell_ignored hn ha hh
  · exact gives_ringDoorbell_taken hn ha hh
  · exact fun p n v s hn hw hopen hsize hfits hv => exec_ringDoorbell_repeated hn hw hopen hsize hfits hv

/-- Settles O6: a read puts the view's entry on the bus, a table write keeps the view of its TICK, and a register write has no field to set. -/
theorem epochTableView : Obligations.EpochTableView := by
  unfold Obligations.EpochTableView
  refine ⟨fun n ev c rest s t hn ht => ?_, fun s => epochView_of_not_written, setEpoch_epochView,
    fun n be v s hn => gives_self_of_writeReg (writeReg_crl_epochView hn v.toNat s) be⟩
  subst ht
  obtain ⟨u, hexec, hu⟩ := gives_rcRegisterRead_epochView hn ev { s with pending := c :: rest }
  exact ⟨u, hexec, hu.bus .crl, hu⟩

end Sys2Proof.Machine
end
